-- ==== Sys2Proof/Word.lean ====
section
/-! DEFINITION. The words the BX-6 moves on its link and keeps in its store: bytes and 16-bit and
32-bit fields. Quantities of the manual (speeds, efforts, pressures, times) are integers in the units
of 0.10 and are held as `Nat` or `Int`; only what the manual treats as bits is a bit vector. -/

namespace Sys2Proof

/-- One byte of the link (R176) or of a store section (R138). -/
abbrev Byte := BitVec 8

/-- A 16-bit field: a checkword (R141), a notice set (R188). -/
abbrev Word16 := BitVec 16

/-- A 32-bit field: a timestamp (R1), an opening sequence (R143), a condition word (R119). -/
abbrev Word32 := BitVec 32

end Sys2Proof
end

