-- ==== Sys2Proof/Syntax.lean ====
section
/-! DEFINITION. The commands the BX-6 takes: one constructor per row of spec/opcode_table.json. What a
row takes from outside the part (a transducer reading, a medium outcome, the bytes of a frame) is its
operand. Assumption log 1 to 4. -/

namespace Sys2Proof

/-- The two trucks, and the converter groups that serve them (0.4). -/
inductive Truck where
  | a
  | b
  deriving DecidableEq, Repr

/-- The six axles, in axle order; 1 to 3 are truck A's, 4 to 6 truck B's (1.1). -/
inductive AxleNo where
  | a1
  | a2
  | a3
  | a4
  | a5
  | a6
  deriving DecidableEq, Repr

/-- The two sand valves (2.1.3). -/
inductive SandDir where
  | forward
  | reverse
  deriving DecidableEq, Repr

/-- What a pressure transducer gives at a sample: a pressure in kPa, or an open circuit (R43, R102). -/
inductive Reading where
  | kPa (p : Int)
  | openCircuit
  deriving DecidableEq, Repr

/-- What the medium's correction code reports of a read (R138). -/
inductive MediumOutcome where
  | clean
  | corrected
  | uncorrectable
  deriving DecidableEq, Repr

/-- The commands, in the order of spec/opcode_table.json.

* `cylA cylB` of a window close are what the two cylinder transducers give at its composition (R102).
* The rows that name a count or a timer reaching its bound (LOCKED, HOLD TIME END, RATE TRIGGER, …) are
  the window close, pipe sample, blend run or capture at which it reaches it; they carry that step's
  own operands (assumption log 1).
* `bytes` are the bytes the line brings to the Link Interface, up to the byte that completes the event.
* `ok` says whether the medium reports success.
* The rows of queued commands carry nothing: CX takes the head of the command queue, whose tag and body
  are in the state (R181; assumption log 4).
* `results` of REBUILD END are what the medium reports of the writer's operations during the rebuild, in
  order: the outcome of a copy's read, and success. -/
inductive Instr where
  | powerOn
  | parameterLoadEnd
  | rebuildEnd (reads : List (Nat × MediumOutcome)) (results : List (MediumOutcome × Bool))
  | tachometerEdge (axle : AxleNo) (delay : Word32)
  | windowClose (cylA cylB : Reading)
  | locked (axle : AxleNo) (cylA cylB : Reading)
  | quietSilence (axle : AxleNo) (cylA cylB : Reading)
  | implausibleFault (axle : AxleNo) (cylA cylB : Reading)
  | sensorFaultTime (axle : AxleNo) (cylA cylB : Reading)
  | holdTimeEnd (truck : Truck) (cylA cylB : Reading)
  | episodeTimeout (truck : Truck) (cylA cylB : Reading)
  | lockoutEnd (truck : Truck) (cylA cylB : Reading)
  | sandMaxTime (valve : SandDir) (cylA cylB : Reading)
  | sandRestEnd (valve : SandDir) (cylA cylB : Reading)
  | adhesionRecovery
  | airFault (truck : Truck) (cylA cylB : Reading)
  | bpSample (pipe : Reading)
  | rateTrigger (pipe : Reading)
  | bpSensorFault (pipe : Reading)
  | emergencyRecovery (pipe : Reading)
  | blendRun
  | linkLoss
  | thermalUpdate
  | capture
  | recordEnd
  | storeGrant
  | programComplete (ok : Bool)
  | markProgramComplete (ok : Bool)
  | eraseComplete (ok : Bool)
  | copyComplete (outcome : MediumOutcome) (ok : Bool)
  | mapWriteComplete (ok : Bool)
  | readComplete (outcome : MediumOutcome)
  | relocationStart
  | cycleDemand (bytes : List Byte)
  | queuedCommandArrival (bytes : List Byte)
  | frameDiscard (bytes : List Byte)
  | frameGap (bytes : List Byte) (after : Byte)
  | frameSent
  | clearOverrun (bytes : List Byte)
  | restart (bytes : List Byte)
  | resetProceeds
  | readStatus
  | readNotices
  | clearNotices
  | setNoticeEnable
  | readParameter
  | writeParameter
  | saveParameters
  | saveComplete (ok : Bool)
  | enterSetup
  | enterRun
  | setTrigger
  | readTrigger
  | markIncident
  | listIncidents
  | readIncident
  | verifyIncident
  | releaseIncident
  | setReadBurst
  | readAxleTable
  | unknownKind
  | powerLoss
  deriving DecidableEq, Repr

end Sys2Proof
end

