-- ==== Sys2Proof/WellFormed.lean ====
section
/-! DEFINITION. Which commands are well formed: what an operand must be for the event its row names. -/

namespace Sys2Proof

/-- Whether no two reads of the rebuild name one section. -/
def readsDistinct : List (Nat × MediumOutcome) → Bool
  | [] => true
  | r :: rs => !(rs.any (fun q => q.1 == r.1)) && readsDistinct rs

/-- Well-formed commands. The rebuild's reads name logical sections 0 to 2047 (R140), each at most once;
an event of the line that a byte completes has a byte. -/
def Instr.wellFormed : Instr → Bool
  | .rebuildEnd reads _ => reads.all (fun r => decide (r.1 < 2048)) && readsDistinct reads
  | .cycleDemand bytes => !bytes.isEmpty
  | .queuedCommandArrival bytes => !bytes.isEmpty
  | .frameDiscard bytes => !bytes.isEmpty
  | .clearOverrun bytes => !bytes.isEmpty
  | .restart bytes => !bytes.isEmpty
  | _ => true

end Sys2Proof
end

