-- ==== Sys2Proof/Decode.lean ====
section
/-! DEFINITION. Commands spelt by the opcode table's bits. No row of the table gives bits: the commands are
events of the part, not words. The frames of the link are read by `Machine.receive` (Operands). -/

namespace Sys2Proof

/-- The command a word spells by the table's bits: none, since no row gives bits (assumption log 14). -/
def decodeTableWord (_nbits _w : Nat) : Option Instr := none

end Sys2Proof
end

