-- ==== Sys2Proof/Machine/Arith.lean ====
section
/-! DEFINITION. Integer arithmetic of 0.11, the byte layouts of Chapters 8 and 10 (least significant
byte first) and the checkword of R141. -/

namespace Sys2Proof.Machine

/-- `n / d` rounded to nearest, halves up (0.11). -/
def divRound (n d : Nat) : Nat := (2 * n + d) / (2 * d)

/-- `n / d` rounded up (0.11). -/
def divUp (n d : Nat) : Nat := (n + d - 1) / d

/-- `x` clamped to `lo..hi`. -/
def clampInt (lo hi x : Int) : Int := max lo (min hi x)

/-- `n` incremented, saturating at `top`. -/
def satInc (top n : Nat) : Nat := min top (n + 1)

/-- The two bytes of a field, least significant first (8.2, R176). -/
def le16 (n : Nat) : List Byte := [BitVec.ofNat 8 n, BitVec.ofNat 8 (n / 256)]

/-- The four bytes of a field, least significant first. -/
def le32 (n : Nat) : List Byte :=
  [BitVec.ofNat 8 n, BitVec.ofNat 8 (n / 256), BitVec.ofNat 8 (n / 65536), BitVec.ofNat 8 (n / 16777216)]

/-- A one-byte field. -/
def le8 (n : Nat) : List Byte := [BitVec.ofNat 8 n]

/-- A flag byte: 00h for false and, of the values that 10.8 lets stand for true, 01h (assumption log 47). -/
def flagByte (b : Bool) : List Byte := [if b then 1 else 0]

/-- The number a run of bytes spells, least significant first. -/
def leValue : List Byte → Nat
  | [] => 0
  | b :: bs => b.toNat + 256 * leValue bs

/-- The field of `n` bytes at byte `i` of `bs`. -/
def fieldAt (bs : List Byte) (i n : Nat) : Nat := leValue ((bs.drop i).take n)

/-- A received flag: 00h is false, any other value true (10.8). -/
def flagAt (bs : List Byte) (i : Nat) : Bool := fieldAt bs i 1 != 0

/-- `bs` filled up with 00h to `n` bytes; the bytes beyond a section's body are 00h (8.2.1). -/
def padTo (n : Nat) (bs : List Byte) : List Byte := bs ++ List.replicate (n - bs.length) 0

/-- One bit of the checkword register: generator x^16 + x^12 + x^5 + 1 (R141). -/
def crcBit (r : Word16) : Word16 :=
  if r.msb then (r <<< 1) ^^^ 0x1021 else r <<< 1

/-- One byte taken into the register, most significant bit first (R141). -/
def crcByte (r : Word16) (b : Byte) : Word16 :=
  let r := r ^^^ (b.zeroExtend 16 <<< 8)
  crcBit (crcBit (crcBit (crcBit (crcBit (crcBit (crcBit (crcBit r)))))))

/-- The checkword of a run of bytes: the register starts at FFFFh and is stored without inversion
(R141). -/
def crc16 (bs : List Byte) : Word16 := bs.foldl crcByte 0xFFFF

/-- The first number from `n` upward that `free` accepts, at most `fuel` steps by `next`. -/
def findFrom (next : Nat → Nat) (free : Nat → Bool) : Nat → Nat → Nat
  | 0, n => n
  | fuel + 1, n => if free n then n else findFrom next free fuel (next n)

end Sys2Proof.Machine
end

