-- ==== Sys2Proof/Config.lean ====
section
/-! DEFINITION. The free values: what the manual leaves open and the machine goes on from. Each is an
opaque constant applied to a counter held in the state (`State.freeCount`), so no proof can see what it
is. Assumption log 7. -/

namespace Sys2Proof

/-- A byte read where the manual says the contents are unknown: a section after a failed program or a
failed erase, a section read UNCORRECTABLE, a mark program cut short (R138, R149). -/
opaque Config.freeByte : Nat → Byte

/-- Whether the checkword of a map copy passes after its map write failed or was cut short (R139), and whether a
READ AXLE TABLE ahead of a window close falls within it (R190). -/
opaque Config.freeBit : Nat → Bool

end Sys2Proof
end

