-- ==== Sys2Proof/Machine/Records.lean ====
section
/-! DEFINITION. The records the eleven blocks own, field by field as the chapters' tables list them.
All plain data. A field that the manual does not name but needs is marked so. -/

namespace Sys2Proof.Machine

/-- One value for each truck (or its group). -/
structure PerTruck (α : Type) where
  a : α
  b : α
  deriving DecidableEq, Repr

/-- One value for each axle, in axle order. -/
structure PerAxle (α : Type) where
  a1 : α
  a2 : α
  a3 : α
  a4 : α
  a5 : α
  a6 : α
  deriving DecidableEq, Repr

/-! ## Modes and parameters (Chapter 11) -/

/-- The three part modes (0.15). -/
inductive Mode where
  | startup
  | setup
  | run
  deriving DecidableEq, Repr

/-- One breakpoint of the dynamic-brake curve (5.1). -/
structure Breakpoint where
  speed : Nat
  effort : Nat
  deriving DecidableEq, Repr

/-- MOTION group (R15). -/
structure MotionParams where
  diameter : PerAxle Nat
  ppr : Nat
  decelLimit : Nat
  accelLimit : Nat
  deriving DecidableEq, Repr

/-- SLIDE group (R41). Times in ms, the two sand times in s. -/
structure SlideParams where
  creepOn : Nat
  creepOff : Nat
  lowSpeed : Nat
  decelOn : Nat
  relieveFactor : Nat
  adhesionCut : Nat
  floor : Nat
  nominalCap : Nat
  recoveryRate : Nat
  unprotectedFactor : Nat
  holdTime : Nat
  restoreStep : Nat
  corrMax : Nat
  lockoutTime : Nat
  sensorFaultTime : Nat
  sandMax : Nat
  sandRest : Nat
  deriving DecidableEq, Repr

/-- BRAKE PIPE group (R50). -/
structure PipeParams where
  pRel : Nat
  rFs : Nat
  rDb : Nat
  emThreshold : Nat
  emFall : Nat
  pRecover : Nat
  deriving DecidableEq, Repr

/-- BLEND group (R82). `nonBlended` is the blend mode, true for NON-BLENDED. -/
structure BlendParams where
  ratio : Nat
  pTouch : Nat
  kAir : Nat
  pFs : Nat
  pEm : Nat
  fDbMax : Nat
  upStep : Nat
  downStep : Nat
  transfer : Bool
  shortfallThreshold : Nat
  nonBlended : Bool
  dbRetained : Bool
  deriving DecidableEq, Repr

/-- THERMAL group (R98): the eight breakpoints and seven scalars. -/
structure ThermalParams where
  c1 : Breakpoint
  c2 : Breakpoint
  c3 : Breakpoint
  c4 : Breakpoint
  c5 : Breakpoint
  c6 : Breakpoint
  c7 : Breakpoint
  c8 : Breakpoint
  hg : Nat
  blowerOn : Nat
  blowerOff : Nat
  ambient : Int
  thetaDerate : Nat
  thetaCut : Nat
  thetaRearm : Nat
  deriving DecidableEq, Repr

/-- SUPERVISION group (R115). -/
structure SupervisionParams where
  airFaultTolerance : Nat
  airFaultTime : Nat
  deriving DecidableEq, Repr

/-- One trigger entry, less its previous match flag (7.4). Masks and values are condition words. -/
structure TriggerEntry where
  enabled : Bool
  mask : Word32
  value : Word32
  preCount : Nat
  postCount : Nat
  protect : Bool
  deriving DecidableEq, Repr

/-- The parameter set (R197): the seven groups and the eight trigger entries. -/
structure ParamSet where
  motion : MotionParams
  slide : SlideParams
  pipe : PipeParams
  blend : BlendParams
  thermal : ThermalParams
  capturePeriod : Nat
  supervision : SupervisionParams
  triggers : List TriggerEntry
  deriving DecidableEq, Repr

/-- The stored image (11.3): its values, and whether its checkword passes. The manual gives the image
no byte layout, so the checkword is held as the outcome of its test (assumption log 9). -/
structure ParamImage where
  values : ParamSet
  checkwordPasses : Bool
  deriving DecidableEq, Repr

/-- PM: the set, the image on its non-volatile memory, the defaults flag (R200), and whether an image
write is in progress (R201). -/
structure ParameterMemory where
  params : ParamSet
  image : ParamImage
  defaultsFlag : Bool
  saving : Bool
  deriving DecidableEq, Repr

/-! ## Axle Monitor (Chapter 1) -/

/-- Condition of an axle's measurement (1.1). -/
inductive SensorState where
  | normal
  | stopped
  | locked
  | faulted
  deriving DecidableEq, Repr

/-- The speed fields of one axle (1.1), with the window edge count k and the window last edge time. -/
structure SpeedFields where
  lastEdge : Option Word32
  speed : Nat
  prevSpeed : Nat
  measured : Bool
  quiet : Nat
  implausible : Nat
  sensor : SensorState
  edgeCount : Nat
  windowEdge : Option Word32
  deriving DecidableEq, Repr

/-- AM: the microsecond timer (R1), the axle table's speed fields, the internal reference and its
validity (1.7), and its three conditions as left by the latest window close (R13). -/
structure AxleMonitor where
  timer : Word32
  axles : PerAxle SpeedFields
  refInternal : Nat
  refValid : Bool
  standstill : Bool
  lockedAxle : Bool
  axleFault : Bool
  deriving DecidableEq, Repr

/-! ## Slide Protection Unit (Chapter 2) -/

/-- The slide fields of one axle (2.1.1). `wasFaulted` is the model's: whether the axle was FAULTED at
SP's previous evaluation, which R24 asks for. -/
structure SlideFields where
  creep : Nat
  decel : Int
  decelHits : Nat
  sliding : Bool
  faultTime : Nat
  wasFaulted : Bool
  deriving DecidableEq, Repr

/-- Stage of a truck's correction (2.1.2). -/
inductive CorrState where
  | idle
  | relieve
  | hold
  | restore
  | lockout
  deriving DecidableEq, Repr

/-- The truck record (2.1.2). -/
structure TruckRecord where
  state : CorrState
  episode : Nat
  holdTimer : Nat
  lockoutTimer : Nat
  limit : Option Nat
  cap : Nat
  isProtected : Bool
  sandDemand : Bool
  deriving DecidableEq, Repr

/-- State of a sand valve (2.1.3). -/
inductive ValveState where
  | closed
  | opened
  | resting
  deriving DecidableEq, Repr

/-- The sand valve record (2.1.3). -/
structure SandValve where
  state : ValveState
  openTime : Nat
  restTime : Nat
  deriving DecidableEq, Repr

/-- SP: slide fields, truck records, sand valves, and its conditions as left by the latest evaluation
(R40). -/
structure SlideUnit where
  axles : PerAxle SlideFields
  trucks : PerTruck TruckRecord
  sandForward : SandValve
  sandReverse : SandValve
  relieveCond : PerTruck Bool
  lockoutCond : PerTruck Bool
  sanding : Bool
  deriving DecidableEq, Repr

/-! ## Brake Pipe Monitor and demand record (Chapter 3) -/

/-- The brake pipe record (3.1); `history` is oldest first. -/
structure BrakePipe where
  pressure : Nat
  history : List Nat
  reduction : Nat
  invalidCount : Nat
  sensorFault : Bool
  rateHits : Nat
  emergency : Bool
  recovery : Nat
  deriving DecidableEq, Repr

/-- Reverser position (3.7). -/
inductive Direction where
  | neutral
  | forward
  | reverse
  deriving DecidableEq, Repr

/-- What a converter group reports (3.7, 5.2). -/
structure GroupReport where
  achieved : Nat
  available : Bool
  blowers : Bool
  deriving DecidableEq, Repr

/-- The demand record (3.7). -/
structure Demand where
  handle : Nat
  independent : Nat
  bailOff : Bool
  direction : Direction
  hostSand : Bool
  hostEmergency : Bool
  groups : PerTruck GroupReport
  groundSpeed : Option Nat
  ambient : Option Int
  hostTime : Option Nat
  deriving DecidableEq, Repr

/-! ## Blend Computer (Chapter 4) -/

/-- The fields of the blend result record that each truck has (4.1). -/
structure BlendTruck where
  share : Nat
  capability : Nat
  ownDb : Nat
  ownAir : Nat
  residual : Nat
  extraDb : Nat
  extraAir : Nat
  unmet : Nat
  dbRequest : Nat
  airCmd : Nat
  pBlend : Nat
  deriving DecidableEq, Repr

/-- BC: the blend result record (4.1), the condition SHORTFALL (R71) and the demand age (R55). `freshRun`
holds from an entry to RUN to the next run, the first in RUN, which starts each DBR_g from 0 (R84). -/
structure BlendComputer where
  pAuto : Nat
  fAuto : Nat
  trucks : PerTruck BlendTruck
  shortfall : Nat
  shortfallCond : Bool
  demandAge : Nat
  freshRun : Bool
  deriving DecidableEq, Repr

/-! ## Grid Thermal Model (Chapter 5) -/

/-- GT's fields of a group record (5.2); the reported fields are the demand record's. -/
structure ThermalGroup where
  theta : Nat
  cap : Nat
  cutout : Bool
  deriving DecidableEq, Repr

/-! ## Cylinder Output Stage (Chapter 6) -/

/-- How a truck's cylinder is governed (6.1). -/
inductive OutputMode where
  | ep
  | pneumatic
  deriving DecidableEq, Repr

/-- The truck output record (6.1). `pCmd` is the EP setpoint output, `dump` the dump valve output. -/
structure TruckOutput where
  mode : OutputMode
  pCmd : Option Nat
  dump : Bool
  measured : Nat
  measuredValid : Bool
  deviation : Nat
  airFault : Bool
  deriving DecidableEq, Repr

/-- CO: both truck output records and the moved-in-setup latch (6.1). -/
structure CylinderOutput where
  trucks : PerTruck TruckOutput
  movedInSetup : Bool
  deriving DecidableEq, Repr

/-! ## Capture Unit (Chapter 7) -/

/-- The sampled values of a frame (R118), less its index. -/
structure Frame where
  vRef : Nat
  refValid : Bool
  period : Nat
  speeds : PerAxle Nat
  dbRequest : PerTruck Nat
  achieved : PerTruck Nat
  pCmd : PerTruck Nat
  measured : PerTruck Nat
  corr : PerTruck CorrState
  cap : PerTruck Nat
  pipe : Nat
  handle : Nat
  independent : Nat
  conditions : Word32
  sandForward : Bool
  sandReverse : Bool
  mode : Mode
  shortfall : Nat
  deriving DecidableEq, Repr

/-- A frame's standing in the ring (7.1): free, or of the open record and undrained or drained. -/
inductive FrameStanding where
  | free
  | undrained (index : Nat)
  | drained (index : Nat)
  deriving DecidableEq, Repr

/-- One place of the capture ring. -/
structure RingFrame where
  frame : Frame
  standing : FrameStanding
  deriving DecidableEq, Repr

/-- One item of a record's trigger list (7.1). -/
structure TriggerItem where
  entry : Nat
  index : Nat
  conditions : Word32
  deriving DecidableEq, Repr

/-- Why a record ended (7.1, 8.2.4). -/
inductive EndReason where
  | complete
  | truncatedStoreFull
  | truncatedRestart
  | truncatedPower
  deriving DecidableEq, Repr

/-- Phase of the open record (7.1). -/
inductive Phase where
  | capturing
  | closing
  deriving DecidableEq, Repr

/-- The open record (7.1). -/
structure OpenRecord where
  number : Nat
  phase : Phase
  nextIndex : Nat
  endIndex : Nat
  captureCount : Nat
  lostCount : Nat
  preTaken : Nat
  protect : Bool
  missed : Nat
  openTime : Option Nat
  triggers : List TriggerItem
  extraTriggers : Nat
  endReason : Option EndReason
  deriving DecidableEq, Repr

/-- CU (7.1): the ring, newest frame at the head; the previous match flags of the eight entries (the
entries themselves are in the parameter set); `armed`, the model's own, whether each entry has been seen not to
match since its flag was last set true (R123, assumption log 59); the open record; the missed count; the pending
mark; and the length of the capture interval in progress (R117). -/
structure CaptureUnit where
  ring : List RingFrame
  prevMatch : List Bool
  armed : List Bool
  opened : Option OpenRecord
  missed : Nat
  markPending : Bool
  interval : Nat
  deriving DecidableEq, Repr

/-! ## Store Controller (Chapters 8 and 9) -/

/-- State of a physical block (R139). -/
inductive BlockState where
  | mapped
  | spare
  | target
  | retired
  deriving DecidableEq, Repr

/-- The block map (R139): the physical block of each logical block 0 to 127, and the state of each
physical block 0 to 135. -/
structure BlockMap where
  phys : List Nat
  states : List BlockState
  deriving DecidableEq, Repr

/-- One of the two map copies on the medium (R139); `valid` says whether its checkword passes. -/
structure MapCopy where
  generation : Word32
  map : BlockMap
  valid : Bool
  deriving DecidableEq, Repr

/-- The two map copies (R139). -/
inductive MapSide where
  | first
  | second
  deriving DecidableEq, Repr

/-- The incident store itself (R138, R139), non-volatile. `cells` lists the bytes of the 136 blocks that
are not FFh, by byte address (block × 16 + slot) × 512 + byte; `unknown` the physical sections whose
contents are not determined; `copy1` and `copy2` the map area. -/
structure Medium where
  cells : List Host.Cell
  unknown : List Nat
  copy1 : MapCopy
  copy2 : MapCopy
  deriving DecidableEq, Repr

/-- State of a directory entry (R143). -/
inductive RecordState where
  | filling
  | held
  | released
  deriving DecidableEq, Repr

/-- One entry of the record directory (R143). -/
structure DirEntry where
  number : Nat
  sequence : Word32
  state : RecordState
  protect : Bool
  first : Nat
  sectionCount : Nat
  frameCount : Nat
  endReason : Option EndReason
  trailer : Option Nat
  deriving DecidableEq, Repr

/-- The agents of the store port (R156). -/
inductive Agent where
  | writer
  | relocator
  | reader
  deriving DecidableEq, Repr

/-- Which section of a record a program writes; a FRAME section with the indices of its frames. The last
kind is the TRAILER the rebuild owes a record found without one (R159). -/
inductive SectionJob where
  | header
  | frames (indices : List Nat)
  | trailer
  | rebuildTrailer
  deriving DecidableEq, Repr

/-- The contents of a TRAILER (8.2.4) with the number and first section of its record. -/
structure TrailerInfo where
  number : Nat
  first : Nat
  protect : Bool
  frameCount : Nat
  lostCount : Nat
  missed : Nat
  extraTriggers : Nat
  reason : EndReason
  triggers : List TriggerItem
  deriving DecidableEq, Repr

/-- Step of a writer recovery (R150), the one to be granted next or in progress. -/
inductive RecoveryStep where
  | erase
  | copy (slot : Nat)
  | map
  | retire
  | reprogram
  deriving DecidableEq, Repr

/-- A writer recovery (R150). `job` is the section that failed, absent when an erase failed (R151);
`slot` the failed slot; `failed` the failed physical block of logical block `logical`. -/
structure Recovery where
  job : Option SectionJob
  logical : Nat
  slot : Nat
  failed : Nat
  target : Nat
  step : RecoveryStep
  deriving DecidableEq, Repr

/-- Step of a relocation (R154). -/
inductive RelocStep where
  | erase
  | copy (slot : Nat)
  | switch
  | retire
  deriving DecidableEq, Repr

/-- The relocation in progress (R153): the old physical block, its target and the step. -/
structure Relocation where
  block : Nat
  target : Nat
  step : RelocStep
  deriving DecidableEq, Repr

/-- What a map write changes (R139, R150, R154). -/
inductive MapChange where
  | initial
  | replace (logical old target : Nat)
  | retire (block : Nat)
  deriving DecidableEq, Repr

/-- The six kinds of store operation (R138), with physical sections `block × 16 + slot`. -/
inductive StoreOp where
  | erase (block : Nat)
  | program (job : SectionJob) (logical phys : Nat) (bytes : List Byte)
  | mark (number : Nat) (sections : List Nat)
  | read (logical phys : Nat)
  | copy (src dst : Nat)
  | mapWrite (change : MapChange)
  deriving DecidableEq, Repr

/-- The operation that holds the store port: the agent it was granted to, and whether its result is to
be discarded because its relocation or read-out has ended (R155, R175). -/
structure PortOp where
  agent : Agent
  op : StoreOp
  discard : Bool
  deriving DecidableEq, Repr

/-- Where the writer's position stands (R140). `normal`: every section from the position to slot 15 is
erased. `abandoned`: the current block is abandoned and the position waits for the ahead block (R151).
`unerased`: the position is at slot 0 of a block not yet erased (R159, R204). -/
inductive WriterSeat where
  | normal
  | abandoned
  | unerased
  deriving DecidableEq, Repr

/-- The erase-ahead (R147): done, or due and permitted or not by the latest examination. -/
inductive EraseAhead where
  | done
  | due (permitted : Bool)
  deriving DecidableEq, Repr

/-- Whether a read-out reads or verifies (9.1). -/
inductive ReadKind where
  | read
  | verify
  deriving DecidableEq, Repr

/-- A section gathered for a reply, with its medium outcome (9.1). -/
structure Gathered where
  corrected : Bool
  bytes : List Byte
  deriving DecidableEq, Repr

/-- The read-out (9.1). `tag` is the tag of its command; `asking` holds the logical section the reader
has asked the port for (R165); `burst` the burst taken at acceptance (R164). -/
structure ReadOut where
  kind : ReadKind
  tag : Byte
  number : Nat
  sequence : Word32
  nextIndex : Nat
  remaining : Nat
  whole : Bool
  limitSeen : Nat
  gathered : List Gathered
  verified : Nat
  corrected : Nat
  firstFailing : Option Nat
  waiting : Bool
  burst : Nat
  asking : Option Nat
  deriving DecidableEq, Repr

/-- SC: the map in force, the directory, the writer, the relocator, the arbiter and the reader. `aheadErased`, the
model's own, holds while the position waits at slot 0 of a block that is not erased and the rebuild has erased the block
after it ahead (R159, assumption log 54). `mapRetry` is the map copy whose write failed last, which the repeat writes
(R139). -/
structure StoreController where
  map : BlockMap
  directory : List DirEntry
  nextNumber : Nat
  nextSequence : Word32
  position : Nat
  seat : WriterSeat
  eraseAhead : EraseAhead
  aheadErased : Bool
  storeFull : Bool
  pendingMarks : List Nat
  recovery : Option Recovery
  rebuildTrailer : Option TrailerInfo
  relocQueue : List Nat
  relocation : Option Relocation
  port : Option PortOp
  lastGranted : Agent
  burst : Nat
  readOut : Option ReadOut
  mapRetry : Option MapSide
  deriving DecidableEq, Repr

/-! ## Link Interface and Command Executor (Chapter 10) -/

/-- LI's receiver (R177): hunting, or a frame open with the bytes after its flag so far. -/
inductive Receiver where
  | hunting
  | inFrame (bytes : List Byte)
  deriving DecidableEq, Repr

/-- A queued command (R180). -/
structure Command where
  kind : Byte
  tag : Byte
  body : List Byte
  deriving DecidableEq, Repr

/-- What a reply is to the blocks that wait for it to be sent: a READ INCIDENT reply that is not final
(R167), the reply to RESTART (R203), or neither. -/
inductive ReplyRole where
  | plain
  | readPart
  | restartDone
  deriving DecidableEq, Repr

/-- A reply waiting in the pending command reply list (R186). -/
structure Reply where
  kind : Byte
  tag : Byte
  body : List Byte
  role : ReplyRole
  deriving DecidableEq, Repr

/-- An entry of the pending report list (R186): a CYCLE REPORT, built when sent (R179), or a BAD LENGTH
answer to a CYCLE DEMAND. -/
inductive ReportEntry where
  | report (tag : Byte)
  | badLength (tag : Byte)
  deriving DecidableEq, Repr

/-- The frame being sent. -/
structure TxFrame where
  bytes : List Byte
  role : ReplyRole
  deriving DecidableEq, Repr

/-- LI: receiver, command queue (head first), overrun latch, the two pending lists, the frame in
transmission, and the closing interval of RESTART (R184, R203). -/
structure LinkInterface where
  receiver : Receiver
  queue : List Command
  overrun : Bool
  reports : List ReportEntry
  replies : List Reply
  tx : Option TxFrame
  closing : Bool
  restartSent : Bool
  deriving DecidableEq, Repr

/-- CX: the part mode, the two start-up marks (11.1), and the notice sets, notice n at bit n (R187). -/
structure Executor where
  mode : Mode
  loadEnded : Bool
  rebuildEnded : Bool
  notices : Word16
  noticeEnable : Word16
  deriving DecidableEq, Repr

end Sys2Proof.Machine
end

