-- ==== Sys2Proof/Machine/Access.lean ====
section
/-! DEFINITION. Reading and replacing one truck's or one axle's value of a record held per truck or per
axle; the truck an axle belongs to (0.4, 1.1). -/

namespace Sys2Proof.Machine

/-- The value of truck `t`. -/
def PerTruck.get {α : Type} (p : PerTruck α) : Truck → α
  | .a => p.a
  | .b => p.b

/-- `p` with the value of truck `t` replaced. -/
def PerTruck.set {α : Type} (p : PerTruck α) (t : Truck) (x : α) : PerTruck α :=
  match t with
  | .a => { p with a := x }
  | .b => { p with b := x }

/-- `f` of each truck's value. -/
def PerTruck.map {α β : Type} (f : α → β) (p : PerTruck α) : PerTruck β := ⟨f p.a, f p.b⟩

/-- `f` of each truck. -/
def PerTruck.ofFn {α : Type} (f : Truck → α) : PerTruck α := ⟨f .a, f .b⟩

/-- The same value for both trucks. -/
def PerTruck.both {α : Type} (x : α) : PerTruck α := ⟨x, x⟩

/-- Whether either truck's value passes the test. -/
def PerTruck.any {α : Type} (p : PerTruck α) (f : α → Bool) : Bool := f p.a || f p.b

/-- The truck across from `t`, written h in the manual (0.4). -/
def otherTruck : Truck → Truck
  | .a => .b
  | .b => .a

/-- The value of axle `i`. -/
def PerAxle.get {α : Type} (p : PerAxle α) : AxleNo → α
  | .a1 => p.a1
  | .a2 => p.a2
  | .a3 => p.a3
  | .a4 => p.a4
  | .a5 => p.a5
  | .a6 => p.a6

/-- `p` with the value of axle `i` replaced. -/
def PerAxle.set {α : Type} (p : PerAxle α) (i : AxleNo) (x : α) : PerAxle α :=
  match i with
  | .a1 => { p with a1 := x }
  | .a2 => { p with a2 := x }
  | .a3 => { p with a3 := x }
  | .a4 => { p with a4 := x }
  | .a5 => { p with a5 := x }
  | .a6 => { p with a6 := x }

/-- `f` of each axle. -/
def PerAxle.ofFn {α : Type} (f : AxleNo → α) : PerAxle α :=
  ⟨f .a1, f .a2, f .a3, f .a4, f .a5, f .a6⟩

/-- `f` of each axle's value. -/
def PerAxle.map {α β : Type} (f : α → β) (p : PerAxle α) : PerAxle β :=
  ⟨f p.a1, f p.a2, f p.a3, f p.a4, f p.a5, f p.a6⟩

/-- The same value for all six axles. -/
def PerAxle.all {α : Type} (x : α) : PerAxle α := ⟨x, x, x, x, x, x⟩

/-- The six values in axle order. -/
def PerAxle.toList {α : Type} (p : PerAxle α) : List α := [p.a1, p.a2, p.a3, p.a4, p.a5, p.a6]

/-- The truck an axle belongs to: 1 to 3 truck A, 4 to 6 truck B (1.1). -/
def truckOf : AxleNo → Truck
  | .a1 => .a
  | .a2 => .a
  | .a3 => .a
  | .a4 => .b
  | .a5 => .b
  | .a6 => .b

/-- The three axles of a truck. -/
def axlesOf : Truck → List AxleNo
  | .a => [.a1, .a2, .a3]
  | .b => [.a4, .a5, .a6]

/-- All six axles in order. -/
def allAxles : List AxleNo := [.a1, .a2, .a3, .a4, .a5, .a6]

end Sys2Proof.Machine
end

