-- ==== Sys2Proof/Machine/Params.lean ====
section
/-! DEFINITION. The parameter set's numbering, ranges, defaults and relations: R197, with the group
tables of R15, R41, R50, R82, R98, R115, R136 and the default trigger table of 7.4. -/

namespace Sys2Proof.Machine

/-- The 62 numbered parameters (R197), group by group in the order of the groups' tables. -/
inductive Param where
  | diameter (axle : AxleNo)
  | ppr
  | decelLimit
  | accelLimit
  | creepOn
  | creepOff
  | lowSpeed
  | decelOn
  | relieveFactor
  | adhesionCut
  | floor
  | nominalCap
  | recoveryRate
  | unprotectedFactor
  | holdTime
  | restoreStep
  | corrMax
  | lockoutTime
  | sensorFaultTime
  | sandMax
  | sandRest
  | pRel
  | rFs
  | rDb
  | emThreshold
  | emFall
  | pRecover
  | ratio
  | pTouch
  | kAir
  | pFs
  | pEm
  | fDbMax
  | upStep
  | downStep
  | transfer
  | shortfallThreshold
  | blendMode
  | dbRetained
  | curve (point : Fin 8)
  | hg
  | blowerOn
  | blowerOff
  | ambient
  | thetaDerate
  | thetaCut
  | thetaRearm
  | capturePeriod
  | airFaultTolerance
  | airFaultTime
  deriving DecidableEq, Repr

/-- The parameter numbers (R197). -/
def paramTable : List (Nat × Param) :=
  [(0x0100, .diameter .a1), (0x0101, .diameter .a2), (0x0102, .diameter .a3), (0x0103, .diameter .a4),
   (0x0104, .diameter .a5), (0x0105, .diameter .a6), (0x0106, .ppr), (0x0107, .decelLimit),
   (0x0108, .accelLimit)] ++
  [(0x0200, .creepOn), (0x0201, .creepOff), (0x0202, .lowSpeed), (0x0203, .decelOn),
   (0x0204, .relieveFactor), (0x0205, .adhesionCut), (0x0206, .floor), (0x0207, .nominalCap),
   (0x0208, .recoveryRate), (0x0209, .unprotectedFactor), (0x020A, .holdTime), (0x020B, .restoreStep),
   (0x020C, .corrMax), (0x020D, .lockoutTime), (0x020E, .sensorFaultTime), (0x020F, .sandMax),
   (0x0210, .sandRest)] ++
  [(0x0300, .pRel), (0x0301, .rFs), (0x0302, .rDb), (0x0303, .emThreshold), (0x0304, .emFall),
   (0x0305, .pRecover)] ++
  [(0x0400, .ratio), (0x0401, .pTouch), (0x0402, .kAir), (0x0403, .pFs), (0x0404, .pEm),
   (0x0405, .fDbMax), (0x0406, .upStep), (0x0407, .downStep), (0x0408, .transfer),
   (0x0409, .shortfallThreshold), (0x040A, .blendMode), (0x040B, .dbRetained)] ++
  [(0x0500, .curve 0), (0x0501, .curve 1), (0x0502, .curve 2), (0x0503, .curve 3), (0x0504, .curve 4),
   (0x0505, .curve 5), (0x0506, .curve 6), (0x0507, .curve 7), (0x0508, .hg), (0x0509, .blowerOn),
   (0x050A, .blowerOff), (0x050B, .ambient), (0x050C, .thetaDerate), (0x050D, .thetaCut),
   (0x050E, .thetaRearm)] ++
  [(0x0600, .capturePeriod), (0x0700, .airFaultTolerance), (0x0701, .airFaultTime)]

/-- The parameter a number names, if it is in the table of R197. -/
def paramOf (number : Nat) : Option Param := (paramTable.find? (·.1 == number)).map (·.2)

/-- Whether a number names a parameter of the MOTION, SLIDE or BRAKE PIPE group, writable in SETUP only
(R197, R199). -/
def setupOnly (number : Nat) : Bool :=
  match paramOf number with
  | some _ => decide (number < 0x0400)
  | none => false

/-! ## The curve -/

/-- Breakpoint `n + 1` of the curve (5.1). -/
def ThermalParams.point (t : ThermalParams) : Fin 8 → Breakpoint
  | 0 => t.c1
  | 1 => t.c2
  | 2 => t.c3
  | 3 => t.c4
  | 4 => t.c5
  | 5 => t.c6
  | 6 => t.c7
  | 7 => t.c8

/-- The curve with breakpoint `n + 1` replaced. -/
def ThermalParams.setPoint (t : ThermalParams) (n : Fin 8) (p : Breakpoint) : ThermalParams :=
  match n with
  | 0 => { t with c1 := p }
  | 1 => { t with c2 := p }
  | 2 => { t with c3 := p }
  | 3 => { t with c4 := p }
  | 4 => { t with c5 := p }
  | 5 => { t with c6 := p }
  | 6 => { t with c7 := p }
  | 7 => { t with c8 := p }

/-- The eight breakpoints in order of speed. -/
def ThermalParams.curve (t : ThermalParams) : List Breakpoint :=
  [t.c1, t.c2, t.c3, t.c4, t.c5, t.c6, t.c7, t.c8]

/-! ## Values on the link -/

/-- A breakpoint as it travels: speed in bytes 0 and 1, effort in bytes 2 and 3 (R197). -/
def breakpointWord (p : Breakpoint) : Word32 := BitVec.ofNat 32 (p.speed % 65536 + 65536 * p.effort)

/-- The breakpoint a value carries. -/
def wordBreakpoint (w : Word32) : Breakpoint := ⟨w.toNat % 65536, w.toNat / 65536⟩

/-- The value the set holds for a parameter, as 4 bytes (R197, R198). -/
def readParam (s : ParamSet) : Param → Word32
  | .diameter i => .ofNat 32 (s.motion.diameter.get i)
  | .ppr => .ofNat 32 s.motion.ppr
  | .decelLimit => .ofNat 32 s.motion.decelLimit
  | .accelLimit => .ofNat 32 s.motion.accelLimit
  | .creepOn => .ofNat 32 s.slide.creepOn
  | .creepOff => .ofNat 32 s.slide.creepOff
  | .lowSpeed => .ofNat 32 s.slide.lowSpeed
  | .decelOn => .ofNat 32 s.slide.decelOn
  | .relieveFactor => .ofNat 32 s.slide.relieveFactor
  | .adhesionCut => .ofNat 32 s.slide.adhesionCut
  | .floor => .ofNat 32 s.slide.floor
  | .nominalCap => .ofNat 32 s.slide.nominalCap
  | .recoveryRate => .ofNat 32 s.slide.recoveryRate
  | .unprotectedFactor => .ofNat 32 s.slide.unprotectedFactor
  | .holdTime => .ofNat 32 s.slide.holdTime
  | .restoreStep => .ofNat 32 s.slide.restoreStep
  | .corrMax => .ofNat 32 s.slide.corrMax
  | .lockoutTime => .ofNat 32 s.slide.lockoutTime
  | .sensorFaultTime => .ofNat 32 s.slide.sensorFaultTime
  | .sandMax => .ofNat 32 s.slide.sandMax
  | .sandRest => .ofNat 32 s.slide.sandRest
  | .pRel => .ofNat 32 s.pipe.pRel
  | .rFs => .ofNat 32 s.pipe.rFs
  | .rDb => .ofNat 32 s.pipe.rDb
  | .emThreshold => .ofNat 32 s.pipe.emThreshold
  | .emFall => .ofNat 32 s.pipe.emFall
  | .pRecover => .ofNat 32 s.pipe.pRecover
  | .ratio => .ofNat 32 s.blend.ratio
  | .pTouch => .ofNat 32 s.blend.pTouch
  | .kAir => .ofNat 32 s.blend.kAir
  | .pFs => .ofNat 32 s.blend.pFs
  | .pEm => .ofNat 32 s.blend.pEm
  | .fDbMax => .ofNat 32 s.blend.fDbMax
  | .upStep => .ofNat 32 s.blend.upStep
  | .downStep => .ofNat 32 s.blend.downStep
  | .transfer => .ofNat 32 s.blend.transfer.toNat
  | .shortfallThreshold => .ofNat 32 s.blend.shortfallThreshold
  | .blendMode => .ofNat 32 s.blend.nonBlended.toNat
  | .dbRetained => .ofNat 32 s.blend.dbRetained.toNat
  | .curve n => breakpointWord (s.thermal.point n)
  | .hg => .ofNat 32 s.thermal.hg
  | .blowerOn => .ofNat 32 s.thermal.blowerOn
  | .blowerOff => .ofNat 32 s.thermal.blowerOff
  | .ambient => .ofInt 32 s.thermal.ambient
  | .thetaDerate => .ofNat 32 s.thermal.thetaDerate
  | .thetaCut => .ofNat 32 s.thermal.thetaCut
  | .thetaRearm => .ofNat 32 s.thermal.thetaRearm
  | .capturePeriod => .ofNat 32 s.capturePeriod
  | .airFaultTolerance => .ofNat 32 s.supervision.airFaultTolerance
  | .airFaultTime => .ofNat 32 s.supervision.airFaultTime

/-- The set with one parameter's value replaced (R199). -/
def putParam (s : ParamSet) (p : Param) (w : Word32) : ParamSet :=
  match p with
  | .diameter i => { s with motion := { s.motion with diameter := s.motion.diameter.set i w.toNat } }
  | .ppr => { s with motion := { s.motion with ppr := w.toNat } }
  | .decelLimit => { s with motion := { s.motion with decelLimit := w.toNat } }
  | .accelLimit => { s with motion := { s.motion with accelLimit := w.toNat } }
  | .creepOn => { s with slide := { s.slide with creepOn := w.toNat } }
  | .creepOff => { s with slide := { s.slide with creepOff := w.toNat } }
  | .lowSpeed => { s with slide := { s.slide with lowSpeed := w.toNat } }
  | .decelOn => { s with slide := { s.slide with decelOn := w.toNat } }
  | .relieveFactor => { s with slide := { s.slide with relieveFactor := w.toNat } }
  | .adhesionCut => { s with slide := { s.slide with adhesionCut := w.toNat } }
  | .floor => { s with slide := { s.slide with floor := w.toNat } }
  | .nominalCap => { s with slide := { s.slide with nominalCap := w.toNat } }
  | .recoveryRate => { s with slide := { s.slide with recoveryRate := w.toNat } }
  | .unprotectedFactor => { s with slide := { s.slide with unprotectedFactor := w.toNat } }
  | .holdTime => { s with slide := { s.slide with holdTime := w.toNat } }
  | .restoreStep => { s with slide := { s.slide with restoreStep := w.toNat } }
  | .corrMax => { s with slide := { s.slide with corrMax := w.toNat } }
  | .lockoutTime => { s with slide := { s.slide with lockoutTime := w.toNat } }
  | .sensorFaultTime => { s with slide := { s.slide with sensorFaultTime := w.toNat } }
  | .sandMax => { s with slide := { s.slide with sandMax := w.toNat } }
  | .sandRest => { s with slide := { s.slide with sandRest := w.toNat } }
  | .pRel => { s with pipe := { s.pipe with pRel := w.toNat } }
  | .rFs => { s with pipe := { s.pipe with rFs := w.toNat } }
  | .rDb => { s with pipe := { s.pipe with rDb := w.toNat } }
  | .emThreshold => { s with pipe := { s.pipe with emThreshold := w.toNat } }
  | .emFall => { s with pipe := { s.pipe with emFall := w.toNat } }
  | .pRecover => { s with pipe := { s.pipe with pRecover := w.toNat } }
  | .ratio => { s with blend := { s.blend with ratio := w.toNat } }
  | .pTouch => { s with blend := { s.blend with pTouch := w.toNat } }
  | .kAir => { s with blend := { s.blend with kAir := w.toNat } }
  | .pFs => { s with blend := { s.blend with pFs := w.toNat } }
  | .pEm => { s with blend := { s.blend with pEm := w.toNat } }
  | .fDbMax => { s with blend := { s.blend with fDbMax := w.toNat } }
  | .upStep => { s with blend := { s.blend with upStep := w.toNat } }
  | .downStep => { s with blend := { s.blend with downStep := w.toNat } }
  | .transfer => { s with blend := { s.blend with transfer := w != 0 } }
  | .shortfallThreshold => { s with blend := { s.blend with shortfallThreshold := w.toNat } }
  | .blendMode => { s with blend := { s.blend with nonBlended := w != 0 } }
  | .dbRetained => { s with blend := { s.blend with dbRetained := w != 0 } }
  | .curve n => { s with thermal := s.thermal.setPoint n (wordBreakpoint w) }
  | .hg => { s with thermal := { s.thermal with hg := w.toNat } }
  | .blowerOn => { s with thermal := { s.thermal with blowerOn := w.toNat } }
  | .blowerOff => { s with thermal := { s.thermal with blowerOff := w.toNat } }
  | .ambient => { s with thermal := { s.thermal with ambient := w.toInt } }
  | .thetaDerate => { s with thermal := { s.thermal with thetaDerate := w.toNat } }
  | .thetaCut => { s with thermal := { s.thermal with thetaCut := w.toNat } }
  | .thetaRearm => { s with thermal := { s.thermal with thetaRearm := w.toNat } }
  | .capturePeriod => { s with capturePeriod := w.toNat }
  | .airFaultTolerance => { s with supervision := { s.supervision with airFaultTolerance := w.toNat } }
  | .airFaultTime => { s with supervision := { s.supervision with airFaultTime := w.toNat } }

/-! ## Ranges and relations -/

/-- The range of a parameter carried unsigned; a two-valued parameter is coded 0 or 1 (R197). The
breakpoints, the ambient and the capture period have tests of their own (`paramInRange`). -/
def paramRange : Param → Nat × Nat
  | .diameter _ => (950, 1270)
  | .ppr => (60, 240)
  | .decelLimit => (5, 60)
  | .accelLimit => (5, 60)
  | .creepOn => (30, 250)
  | .creepOff => (10, 200)
  | .lowSpeed => (50, 500)
  | .decelOn => (3, 30)
  | .relieveFactor => (0, 900)
  | .adhesionCut => (500, 1000)
  | .floor => (200, 800)
  | .nominalCap => (500, 4000)
  | .recoveryRate => (0, 200)
  | .unprotectedFactor => (300, 1000)
  | .holdTime => (100, 2000)
  | .restoreStep => (1, 50)
  | .corrMax => (1000, 10000)
  | .lockoutTime => (2000, 30000)
  | .sensorFaultTime => (500, 5000)
  | .sandMax => (5, 60)
  | .sandRest => (5, 60)
  | .pRel => (350, 650)
  | .rFs => (100, 200)
  | .rDb => (0, 30)
  | .emThreshold => (50, 200)
  | .emFall => (3, 30)
  | .pRecover => (200, 500)
  | .ratio => (20, 30)
  | .pTouch => (0, 100)
  | .kAir => (100, 1000)
  | .pFs => (250, 450)
  | .pEm => (300, 520)
  | .fDbMax => (500, 3000)
  | .upStep => (1, 100)
  | .downStep => (1, 200)
  | .transfer => (0, 1)
  | .shortfallThreshold => (0, 3000)
  | .blendMode => (0, 1)
  | .dbRetained => (0, 1)
  | .curve _ => (0, 0)
  | .hg => (10, 500)
  | .blowerOn => (1, 200)
  | .blowerOff => (0, 100)
  | .ambient => (0, 0)
  | .thetaDerate => (3000, 8500)
  | .thetaCut => (3500, 9000)
  | .thetaRearm => (2000, 8000)
  | .capturePeriod => (20, 100)
  | .airFaultTolerance => (10, 100)
  | .airFaultTime => (500, 10000)

/-- The times that take multiples of 10 only: the SLIDE group's in ms (R41) and the air-fault time
(R115). -/
def tensOnly : Param → Bool
  | .holdTime => true
  | .corrMax => true
  | .lockoutTime => true
  | .sensorFaultTime => true
  | .airFaultTime => true
  | _ => false

/-- Whether a value lies in the parameter's range (R199). -/
def paramInRange (p : Param) (w : Word32) : Bool :=
  match p with
  | .curve _ => decide ((wordBreakpoint w).speed ≤ 16000 ∧ (wordBreakpoint w).effort ≤ 6000)
  | .ambient => decide (-500 ≤ w.toInt ∧ w.toInt ≤ 600)
  | .capturePeriod => w == 20 || w == 50 || w == 100
  | q => decide ((paramRange q).1 ≤ w.toNat ∧ w.toNat ≤ (paramRange q).2) &&
      (!tensOnly q || w.toNat % 10 == 0)

/-- The breakpoint's speed against its neighbours now held (R86). -/
def curveWriteHolds (t : ThermalParams) (n : Fin 8) (p : Breakpoint) : Bool :=
  match n with
  | 0 => p.speed == 0
  | 1 => decide (t.c1.speed < p.speed ∧ p.speed < t.c3.speed)
  | 2 => decide (t.c2.speed < p.speed ∧ p.speed < t.c4.speed)
  | 3 => decide (t.c3.speed < p.speed ∧ p.speed < t.c5.speed)
  | 4 => decide (t.c4.speed < p.speed ∧ p.speed < t.c6.speed)
  | 5 => decide (t.c5.speed < p.speed ∧ p.speed < t.c7.speed)
  | 6 => decide (t.c6.speed < p.speed ∧ p.speed < t.c8.speed)
  | 7 => decide (t.c7.speed < p.speed)

/-- Whether writing `w` to `p` keeps the relation of its group against the values now held (R199). -/
def relationHolds (s : ParamSet) (p : Param) (w : Word32) : Bool :=
  match p with
  | .creepOn => decide (s.slide.creepOff < w.toNat)
  | .creepOff => decide (w.toNat < s.slide.creepOn)
  | .emThreshold => decide (w.toNat < s.pipe.pRecover)
  | .pRecover => decide (s.pipe.emThreshold < w.toNat)
  | .pFs => decide (w.toNat ≤ s.blend.pEm)
  | .pEm => decide (s.blend.pFs ≤ w.toNat)
  | .curve n => curveWriteHolds s.thermal n (wordBreakpoint w)
  | .thetaDerate => decide (s.thermal.thetaRearm < w.toNat ∧ w.toNat < s.thermal.thetaCut)
  | .thetaCut => decide (s.thermal.thetaRearm < s.thermal.thetaDerate ∧ s.thermal.thetaDerate < w.toNat)
  | .thetaRearm => decide (w.toNat < s.thermal.thetaDerate ∧ s.thermal.thetaDerate < s.thermal.thetaCut)
  | _ => true

/-- Whether the speeds strictly increase from each breakpoint to the next (5.1). -/
def speedsRise : List Breakpoint → Bool
  | [] => true
  | [_] => true
  | p :: q :: rest => decide (p.speed < q.speed) && speedsRise (q :: rest)

/-- Whether every relation of R199 holds among the set's values (R200). -/
def relationsHold (s : ParamSet) : Bool :=
  decide (s.slide.creepOff < s.slide.creepOn) && decide (s.pipe.emThreshold < s.pipe.pRecover) &&
  decide (s.blend.pFs ≤ s.blend.pEm) && (s.thermal.c1.speed == 0 && speedsRise s.thermal.curve) &&
  decide (s.thermal.thetaRearm < s.thermal.thetaDerate ∧ s.thermal.thetaDerate < s.thermal.thetaCut)

/-- Whether a trigger entry's fields are such as SET TRIGGER accepts (R123): no mask bit from 18 up, the
value within the mask, pre-count to 200 and post-count to 1000. -/
def triggerInRange (e : TriggerEntry) : Bool :=
  decide (e.mask.toNat < 262144) && (e.value &&& e.mask) == e.value &&
  decide (e.preCount ≤ 200 ∧ e.postCount ≤ 1000)

/-- Whether every value of a set travels in 4 bytes: each, read out and put back, leaves the set as it
stands. -/
def fitsWord (s : ParamSet) : Bool := paramTable.all (fun r => putParam s r.2 (readParam s r.2) == s)

/-- Whether every value of a set lies in its range (R200): each numbered parameter and each of the eight
trigger entries. -/
def valuesInRange (s : ParamSet) : Bool :=
  fitsWord s && paramTable.all (fun r => paramInRange r.2 (readParam s r.2)) &&
  s.triggers.length == 8 && s.triggers.all triggerInRange

/-- The test of a good image (R200): its checkword passes, every value in range, every relation holds. -/
def imageGood (i : ParamImage) : Bool :=
  i.checkwordPasses && valuesInRange i.values && relationsHold i.values

/-! ## Defaults -/

/-- The default trigger table (7.4); condition numbers as in R119. -/
def defaultTriggers : List TriggerEntry :=
  [⟨true, 1, 1, 100, 300, true⟩, ⟨true, 1 <<< 17, 1 <<< 17, 200, 200, true⟩,
   ⟨true, 1 <<< 4, 1 <<< 4, 100, 100, false⟩, ⟨true, 1 <<< 5, 1 <<< 5, 100, 100, false⟩,
   ⟨true, 1 <<< 12, 1 <<< 12, 40, 40, false⟩, ⟨true, 1 <<< 13, 1 <<< 13, 40, 40, false⟩,
   ⟨true, (1 <<< 10) ||| (1 <<< 9), 1 <<< 10, 50, 100, false⟩, ⟨false, 1 <<< 11, 1 <<< 11, 40, 100, false⟩]

/-- The default parameter set: the defaults of the group tables and the default trigger table (R200). -/
def defaultParams : ParamSet where
  motion := { diameter := .all 1067, ppr := 120, decelLimit := 25, accelLimit := 30 }
  slide :=
    { creepOn := 80, creepOff := 30, lowSpeed := 150, decelOn := 8, relieveFactor := 500,
      adhesionCut := 900, floor := 300, nominalCap := 2200, recoveryRate := 20,
      unprotectedFactor := 700, holdTime := 300, restoreStep := 4, corrMax := 4000,
      lockoutTime := 10000, sensorFaultTime := 1500, sandMax := 20, sandRest := 10 }
  pipe := { pRel := 500, rFs := 150, rDb := 10, emThreshold := 100, emFall := 7, pRecover := 300 }
  blend :=
    { ratio := 25, pTouch := 35, kAir := 400, pFs := 375, pEm := 450, fDbMax := 2300, upStep := 12,
      downStep := 30, transfer := true, shortfallThreshold := 100, nonBlended := false,
      dbRetained := false }
  thermal :=
    { c1 := ⟨0, 0⟩, c2 := ⟨300, 1200⟩, c3 := ⟨800, 2300⟩, c4 := ⟨4500, 2300⟩, c5 := ⟨6000, 1800⟩,
      c6 := ⟨8000, 1350⟩, c7 := ⟨10000, 1080⟩, c8 := ⟨12000, 900⟩, hg := 115, blowerOn := 40,
      blowerOff := 8, ambient := 400, thetaDerate := 6000, thetaCut := 7000, thetaRearm := 5500 }
  capturePeriod := 50
  supervision := { airFaultTolerance := 40, airFaultTime := 3000 }
  triggers := defaultTriggers

/-- The set a reset loads: the image's values where the image is good, the defaults otherwise (R200). -/
def loadedParams (i : ParamImage) : ParamSet := if imageGood i then i.values else defaultParams

end Sys2Proof.Machine
end

