-- ==== Sys2Proof/Machine/ResetValues.lean ====
section
/-! DEFINITION. What each block holds after power-on and after RESTART has proceeded: R16, R42, R51, R58,
R83, R99, R116, R137, R139, R160, R174, R191, R193, R205. Where a reset value is 'of the loaded parameter
set', `p` is that set (assumption log 8). -/

namespace Sys2Proof.Machine

/-- The speed fields of an axle after reset (R16). -/
def resetSpeedFields : SpeedFields where
  lastEdge := none
  speed := 0
  prevSpeed := 0
  measured := false
  quiet := 0
  implausible := 0
  sensor := .normal
  edgeCount := 0
  windowEdge := none

/-- AM after reset (R1, R16): the timer starts from 0, the reference is 0 and valid. -/
def resetAxleMonitor : AxleMonitor where
  timer := 0
  axles := .all resetSpeedFields
  refInternal := 0
  refValid := true
  standstill := false
  lockedAxle := false
  axleFault := false

/-- The slide fields of an axle after reset (R42). -/
def resetSlideFields : SlideFields where
  creep := 0
  decel := 0
  decelHits := 0
  sliding := false
  faultTime := 0
  wasFaulted := false

/-- A truck record after reset and on entry to SETUP (R42): IDLE, Cap_g at the nominal cap. -/
def resetTruckRecord (p : SlideParams) : TruckRecord where
  state := .idle
  episode := 0
  holdTimer := 0
  lockoutTimer := 0
  limit := none
  cap := p.nominalCap
  isProtected := true
  sandDemand := false

/-- A sand valve after reset and on entry to SETUP (R42). -/
def resetSandValve : SandValve where
  state := .closed
  openTime := 0
  restTime := 0

/-- SP after reset (R42). -/
def resetSlideUnit (p : SlideParams) : SlideUnit where
  axles := .all resetSlideFields
  trucks := .both (resetTruckRecord p)
  sandForward := resetSandValve
  sandReverse := resetSandValve
  relieveCond := .both false
  lockoutCond := .both false
  sanding := false

/-- The brake pipe record after reset (R51): reduction r_fs, emergency latch set. -/
def resetBrakePipe (p : PipeParams) : BrakePipe where
  pressure := 0
  history := []
  reduction := p.rFs
  invalidCount := 0
  sensorFault := false
  rateHits := 0
  emergency := true
  recovery := 0

/-- The demand record after reset (R58). -/
def resetDemand : Demand where
  handle := 0
  independent := 0
  bailOff := false
  direction := .neutral
  hostSand := false
  hostEmergency := false
  groups := .both ⟨0, false, false⟩
  groundSpeed := none
  ambient := none
  hostTime := none

/-- One truck's blend fields, all 0 (R83). -/
def zeroBlendTruck : BlendTruck := ⟨0, 0, 0, 0, 0, 0, 0, 0, 0, 0, 0⟩

/-- BC after reset (R83): every field 0, SHORTFALL clear; the demand age becomes 4 (R58). -/
def resetBlendComputer : BlendComputer where
  pAuto := 0
  fAuto := 0
  trucks := .both zeroBlendTruck
  shortfall := 0
  shortfallCond := false
  demandAge := 4
  freshRun := false

/-- GT's fields of a group after reset (R99). -/
def resetThermalGroup (p : ParamSet) : ThermalGroup where
  theta := p.thermal.thetaDerate
  cap := p.blend.fDbMax
  cutout := false

/-- A truck output record after reset (R116). -/
def resetTruckOutput : TruckOutput where
  mode := .pneumatic
  pCmd := none
  dump := false
  measured := 0
  measuredValid := false
  deviation := 0
  airFault := false

/-- CO after reset (R116). -/
def resetCylinderOutput : CylinderOutput where
  trucks := .both resetTruckOutput
  movedInSetup := false

/-- CU after reset (R137): ring empty, no open record, every previous match flag true, so that no
entry fires before it has been seen not to match (R123). -/
def resetCaptureUnit (p : ParamSet) : CaptureUnit where
  ring := []
  prevMatch := List.replicate 8 true
  armed := List.replicate 8 false
  opened := none
  missed := 0
  markPending := false
  interval := p.capturePeriod

/-- The initial map (R139): logical block L on physical block L, blocks 128 to 135 SPARE. -/
def initialMap : BlockMap where
  phys := List.range 128
  states := List.replicate 128 .mapped ++ List.replicate 8 .spare

/-- Whether generation `a` is newer than `b` (R139). -/
def newerGeneration (a b : Word32) : Bool :=
  decide (1 ≤ (a - b).toNat ∧ (a - b).toNat ≤ 2147483647)

/-- Whether the newest valid map copy is the second one; the first where neither is newer. -/
def newestIsSecond (m : Medium) : Bool :=
  m.copy2.valid && (!m.copy1.valid || newerGeneration m.copy2.generation m.copy1.generation)

/-- The map SC loads at power-on (R139): the newer valid copy, or the initial map. -/
def mapAtPowerOn (m : Medium) : BlockMap :=
  if newestIsSecond m then m.copy2.map else if m.copy1.valid then m.copy1.map else initialMap

/-- The write of the initial map that power-on begins when neither copy is valid (R139). -/
def portAtPowerOn (m : Medium) : Option PortOp :=
  if m.copy1.valid || m.copy2.valid then none else some ⟨.writer, .mapWrite .initial, false⟩

/-- SC after power-on (R160, R174), before the rebuild sets the directory, the position and the next
numbers; what they hold until then is the model's choice (assumption log 10). -/
def resetStoreController (m : Medium) : StoreController where
  map := mapAtPowerOn m
  directory := []
  nextNumber := 1
  nextSequence := 0
  position := 0
  seat := .normal
  eraseAhead := .done
  aheadErased := false
  storeFull := false
  pendingMarks := []
  recovery := none
  rebuildTrailer := none
  relocQueue := []
  relocation := none
  port := portAtPowerOn m
  lastGranted := .reader
  burst := 1
  readOut := none
  mapRetry := none

/-- LI after power-on (R191). -/
def resetLinkInterface : LinkInterface where
  receiver := .hunting
  queue := []
  overrun := false
  reports := []
  replies := []
  tx := none
  closing := false
  restartSent := false

/-- CX after power-on (R191, R193): STARTUP, no notice, every notice enabled. -/
def resetExecutor : Executor where
  mode := .startup
  loadEnded := false
  rebuildEnded := false
  notices := 0
  noticeEnable := 0x7FFF

/-- PM after power-on: the image is about to be read (R200); the defaults flag is clear until then
(11.6). -/
def resetParameterMemory (i : ParamImage) : ParameterMemory where
  params := loadedParams i
  image := i
  defaultsFlag := false
  saving := false

/-- A store never written: every section erased, no valid map copy (assumption log 11). -/
def blankMedium : Medium where
  cells := []
  unknown := []
  copy1 := ⟨0, initialMap, false⟩
  copy2 := ⟨0, initialMap, false⟩

/-- A parameter image never written, whose checkword fails (11.6, assumption log 11). -/
def blankImage : ParamImage := ⟨defaultParams, false⟩

end Sys2Proof.Machine
end

