-- ==== Sys2Proof/Machine/State.lean ====
section
/-! DEFINITION. The state of the BX-6: every block's records (0.6), the incident store attached to it,
and the queue of commands waiting to act on the model. The reasons a step can stop. -/

namespace Sys2Proof.Machine

/-- Why a command stops. -/
inductive Fault where
  /-- Raised by STORE GRANT when the map in force sends an operation to a physical block outside 0 to
  135, which R138 says does not exist. Safe: no map the part loads or writes does so. -/
  | noSuchBlock (block : Nat)
  deriving DecidableEq, Repr

/-- Why a command is given no meaning. -/
inductive Refusal where
  /-- Raised by an arm of `exec` whose command has no meaning in the model; no arm does so. Safe. -/
  | notModelled (mnemonic : String)
  deriving DecidableEq, Repr

/-- The machine's state. `powered` says whether the part has power; `timersRunning` whether the block
timers have been started by a parameter load since the last reset (R200). `medium` and `pm.image` are
non-volatile. `freeCount` is the model's counter for free values (Config), `pending` the model's queue of
commands. -/
structure State where
  powered : Bool
  timersRunning : Bool
  am : AxleMonitor
  sp : SlideUnit
  bpm : BrakePipe
  demand : Demand
  bc : BlendComputer
  gt : PerTruck ThermalGroup
  co : CylinderOutput
  cu : CaptureUnit
  sc : StoreController
  medium : Medium
  li : LinkInterface
  cx : Executor
  pm : ParameterMemory
  freeCount : Nat
  pending : List Instr
  deriving DecidableEq, Repr

/-- The state right after power-on, or after RESTART has proceeded, over a given store and parameter
image: every block at its reset values, the map loaded, the parameter load and the rebuild begun
(R202, R203). -/
def State.afterPower (m : Medium) (i : ParamImage) (free : Nat) (pending : List Instr) : State where
  powered := true
  timersRunning := false
  am := resetAxleMonitor
  sp := resetSlideUnit (loadedParams i).slide
  bpm := resetBrakePipe (loadedParams i).pipe
  demand := resetDemand
  bc := resetBlendComputer
  gt := .both (resetThermalGroup (loadedParams i))
  co := resetCylinderOutput
  cu := resetCaptureUnit (loadedParams i)
  sc := resetStoreController m
  medium := m
  li := resetLinkInterface
  cx := resetExecutor
  pm := resetParameterMemory i
  freeCount := free
  pending := pending

/-- The machine right after reset: a new part at power-on, its store and image never written (11.6). -/
def State.reset : State := State.afterPower blankMedium blankImage 0 []

end Sys2Proof.Machine
end

