-- ==== Sys2Proof/Machine/Flags.lean ====
section
/-! DEFINITION. The notices (R187), the conditions and the condition word (R119), the reply statuses
(R185), and the codes by which modes, states and outcomes travel (8.2, 10.8). -/

namespace Sys2Proof.Machine

/-- The 15 notices (R187). -/
inductive Notice where
  | axleFault
  | lockout
  | gridCutout
  | airFault
  | bpSensorFault
  | linkLoss
  | emergency
  | storeFull
  | storeWear
  | incidentMissed
  | paramDefaults
  | movedInSetup
  | linkOverrun
  | frameErrors
  | recordClosed
  deriving DecidableEq, Repr

/-- A notice's number (R187). -/
def noticeNumber : Notice → Nat
  | .axleFault => 0
  | .lockout => 1
  | .gridCutout => 2
  | .airFault => 3
  | .bpSensorFault => 4
  | .linkLoss => 5
  | .emergency => 6
  | .storeFull => 7
  | .storeWear => 8
  | .incidentMissed => 9
  | .paramDefaults => 10
  | .movedInSetup => 11
  | .linkOverrun => 12
  | .frameErrors => 13
  | .recordClosed => 14

/-- The notice set holding one notice, bit n for notice n (R188). -/
def noticeBit (n : Notice) : Word16 := 1 <<< noticeNumber n

/-- A notice joins the notice set; one already there adds nothing (R187). -/
def raise (n : Notice) (s : State) : State :=
  { s with cx := { s.cx with notices := s.cx.notices ||| noticeBit n } }

/-- `raise` where its cause has begun. -/
def raiseIf (b : Bool) (n : Notice) (s : State) : State := if b then raise n s else s

/-- The statuses of a reply (R185). -/
inductive Status where
  | ok
  | busy
  | overrun
  | badLength
  | unknownKind
  | unknownParameter
  | badValue
  | wrongMode
  | noRecord
  | recordFilling
  | recordGone
  | addressOverflow
  | addressMismatch
  | uncorrectable
  deriving DecidableEq, Repr

/-- A status's code (R185). -/
def statusCode : Status → Byte
  | .ok => 0x00
  | .busy => 0x01
  | .overrun => 0x02
  | .badLength => 0x03
  | .unknownKind => 0x04
  | .unknownParameter => 0x05
  | .badValue => 0x06
  | .wrongMode => 0x07
  | .noRecord => 0x08
  | .recordFilling => 0x09
  | .recordGone => 0x0A
  | .addressOverflow => 0x0B
  | .addressMismatch => 0x0C
  | .uncorrectable => 0x0D

/-- The reported reference speed (R12): the internal value over 10, rounded to nearest with halves up;
0 while invalid. -/
def reportedRef (am : AxleMonitor) : Nat := if am.refValid then divRound am.refInternal 10 else 0

/-- LINK_LOSS holds while the demand age is 4 or more (R56). -/
def linkLost (bc : BlendComputer) : Bool := decide (4 ≤ bc.demandAge)

/-- Condition number `n` in a condition word, at bit `n` (R119, 8.2.5). -/
def condBit (n : Nat) (holds : Bool) : Word32 := if holds then 1 <<< n else 0

/-- The condition word (R119): each condition from its owner. HOST_MARK is passed in; it is in a frame's
word only (assumption log 15). AIR_FAULT_g and PNEUMATIC hold with the latch and the mode as they stand, also
between two compositions (R113; assumption log 39). -/
def conditionWord (s : State) (hostMark : Bool) : Word32 :=
  condBit 0 s.bpm.emergency ||| condBit 1 s.bpm.sensorFault |||
  condBit 2 s.sp.relieveCond.a ||| condBit 3 s.sp.relieveCond.b |||
  condBit 4 s.sp.lockoutCond.a ||| condBit 5 s.sp.lockoutCond.b |||
  condBit 6 s.sp.sanding ||| condBit 7 s.am.axleFault ||| condBit 8 s.am.lockedAxle |||
  condBit 9 s.am.standstill ||| condBit 10 (linkLost s.bc) ||| condBit 11 s.bc.shortfallCond |||
  condBit 12 s.gt.a.cutout ||| condBit 13 s.gt.b.cutout |||
  condBit 14 s.co.trucks.a.airFault ||| condBit 15 s.co.trucks.b.airFault |||
  condBit 16 (s.co.trucks.any (·.mode == .pneumatic)) ||| condBit 17 hostMark

/-- Part mode code (8.2.5). -/
def modeCode : Mode → Nat
  | .startup => 0
  | .setup => 1
  | .run => 2

/-- Correction state code (8.2.5). -/
def corrCode : CorrState → Nat
  | .idle => 0
  | .relieve => 1
  | .hold => 2
  | .restore => 3
  | .lockout => 4

/-- Sensor state code (10.8). -/
def sensorCode : SensorState → Nat
  | .normal => 0
  | .stopped => 1
  | .locked => 2
  | .faulted => 3

/-- End reason code (8.2.4). -/
def endCode : EndReason → Nat
  | .complete => 1
  | .truncatedStoreFull => 2
  | .truncatedRestart => 3
  | .truncatedPower => 4

/-- The end reason of a code found in a TRAILER; a code of none reads as TRUNCATED_POWER (assumption
log 21). -/
def endOfCode : Nat → EndReason
  | 1 => .complete
  | 2 => .truncatedStoreFull
  | 3 => .truncatedRestart
  | _ => .truncatedPower

/-- Directory state code (10.8). -/
def recordCode : RecordState → Nat
  | .filling => 0
  | .held => 1
  | .released => 2

/-- Output mode code (10.8). -/
def outputCode : OutputMode → Nat
  | .ep => 0
  | .pneumatic => 1

end Sys2Proof.Machine
end

