-- ==== Sys2Proof/Machine/Operands.lean ====
section
/-! DEFINITION. The forms in which data reach and leave the part: link frames and the receiver
(R176, R177), command bodies (10.8), the CYCLE DEMAND body taken into the demand record (R52 to R54), the
demand record as its readers use it (R57), and the sections of the store (8.2). -/

namespace Sys2Proof.Machine

/-! ## Frames on the line -/

/-- A frame's bytes (R176): flag, kind, tag, length, body, checkword. -/
def frameBytes (kind tag : Byte) (body : List Byte) : List Byte :=
  let inner := kind :: tag :: le16 body.length ++ body
  0x7E :: inner ++ le16 (crc16 inner).toNat

/-- What the receiver makes of a run of bytes: a frame that arrived, or one discarded (R177). -/
inductive RxEvent where
  | arrived (kind tag : Byte) (body : List Byte)
  | discarded
  deriving DecidableEq, Repr

/-- What an open frame's bytes (after the flag) make, once the last of them is in (R177): still open, too
long at its second length byte, or ended by its checkword. -/
def frameStatus (bs : List Byte) : Receiver × Option RxEvent :=
  let len := fieldAt bs 2 2
  if bs.length < 4 then (.inFrame bs, none)
  else if bs.length = 4 ∧ 600 < len then (.hunting, some .discarded)
  else if bs.length < len + 6 then (.inFrame bs, none)
  else if fieldAt bs (len + 4) 2 = (crc16 (bs.take (len + 4))).toNat then
    (.hunting, some (.arrived (bs.getD 0 0) (bs.getD 1 0) ((bs.drop 4).take len)))
  else (.hunting, some .discarded)

/-- One byte received (R177): while hunting a 7Eh opens a frame and any other byte is passed over. -/
def feedByte : Receiver → Byte → Receiver × Option RxEvent
  | .hunting, b => (if b = 0x7E then .inFrame [] else .hunting, none)
  | .inFrame bs, b => frameStatus (bs ++ [b])

/-- A run of bytes received: what it makes at its last byte, or `none` where it makes something before
that (the run then holds more than one event, and none of the line's commands is that). -/
def receive : Receiver → List Byte → Option (Receiver × Option RxEvent)
  | r, [] => some (r, none)
  | r, b :: bs =>
    match feedByte r b with
    | (r', none) => receive r' bs
    | (r', some e) => if bs.isEmpty then some (r', some e) else none

/-! ## CYCLE DEMAND -/

/-- The direction a code gives: any code of none is NEUTRAL (R53). -/
def directionOf : Nat → Direction
  | 1 => .forward
  | 2 => .reverse
  | _ => .neutral

/-- A signed field of two bytes. -/
def signedAt (bs : List Byte) (i : Nat) : Int := (BitVec.ofNat 16 (fieldAt bs i 2)).toInt

/-- A group's report in the demand body (10.8, R53). -/
def groupReportAt (bs : List Byte) (i : Nat) : GroupReport where
  achieved := min 6000 (fieldAt bs i 2)
  available := flagAt bs (i + 2)
  blowers := flagAt bs (i + 3)

/-- The demand record an accepted CYCLE DEMAND writes, every field brought into its range
(R52, R53, R54). -/
def demandOfBody (bs : List Byte) : Demand where
  handle := min 1000 (fieldAt bs 0 2)
  independent := min 450 (fieldAt bs 2 2)
  bailOff := flagAt bs 4
  direction := directionOf (fieldAt bs 5 1)
  hostSand := flagAt bs 6
  hostEmergency := flagAt bs 7
  groups := ⟨groupReportAt bs 8, groupReportAt bs 12⟩
  groundSpeed := if flagAt bs 16 ∧ fieldAt bs 17 2 ≤ 16000 then some (fieldAt bs 17 2) else none
  ambient := if flagAt bs 19 ∧ -500 ≤ signedAt bs 20 ∧ signedAt bs 20 ≤ 600 then some (signedAt bs 20) else none
  hostTime := if flagAt bs 22 then some (fieldAt bs 23 4) else none

/-- The demand record as its readers use it: the stored record, or the values of R57 while the demand age
is 4 or more. -/
def usedDemand (s : State) : Demand :=
  if linkLost s.bc then
    { s.demand with
      handle := 0, bailOff := false, hostSand := false, groups := .both ⟨0, false, false⟩,
      groundSpeed := none, ambient := none, hostTime := none }
  else s.demand

/-! ## Commands -/

/-- The catalogue of queued commands (10.8): kind and required body length. -/
def catalogue : List (Nat × Nat) :=
  [(0x02, 0), (0x03, 0), (0x04, 2), (0x05, 4), (0x06, 2), (0x07, 6), (0x08, 0), (0x09, 0), (0x0A, 0),
   (0x0B, 14), (0x0C, 1), (0x0D, 0), (0x0E, 0), (0x0F, 5), (0x10, 6), (0x11, 2), (0x12, 1), (0x13, 0)]

/-- Kind codes of the frames LI takes itself (10.8). -/
def kindCycleDemand : Byte := 0x01
/-- CLEAR OVERRUN. -/
def kindClearOverrun : Byte := 0x1E
/-- RESTART. -/
def kindRestart : Byte := 0x1F

/-- The body length a kind requires, where the kind is in the catalogue of queued commands (R182). -/
def requiredLength (kind : Byte) : Option Nat := (catalogue.find? (·.1 == kind.toNat)).map (·.2)

/-- Whether a kind is in the catalogue of 10.8, queued or not. -/
def knownKind (kind : Byte) : Bool :=
  (requiredLength kind).isSome || kind == kindCycleDemand || kind == kindClearOverrun || kind == kindRestart

/-- A reply's kind: the kind it answers with 80h added, FFh for a kind not in the catalogue (R176). -/
def replyKind (kind : Byte) : Byte := if knownKind kind then kind + 0x80 else 0xFF

/-- The trigger entry a SET TRIGGER body carries (10.8). -/
def triggerOfBody (bs : List Byte) : TriggerEntry where
  enabled := flagAt bs 1
  mask := .ofNat 32 (fieldAt bs 2 4)
  value := .ofNat 32 (fieldAt bs 6 4)
  preCount := fieldAt bs 10 1
  postCount := fieldAt bs 11 2
  protect := flagAt bs 13

/-! ## Sections of the store -/

/-- A frame's 56 bytes, with its index (8.2.5). -/
def framePlace (f : Frame) (index : Nat) : List Byte :=
  le16 index ++ le16 f.vRef ++ flagByte f.refValid ++ le8 f.period ++
  (f.speeds.toList.flatMap le16) ++
  (le16 f.dbRequest.a ++ le16 f.achieved.a ++ le16 f.pCmd.a ++ le16 f.measured.a ++
    le8 (corrCode f.corr.a) ++ le16 f.cap.a) ++
  (le16 f.dbRequest.b ++ le16 f.achieved.b ++ le16 f.pCmd.b ++ le16 f.measured.b ++
    le8 (corrCode f.corr.b) ++ le16 f.cap.b) ++
  le16 f.pipe ++ le16 f.handle ++ le16 f.independent ++ le32 f.conditions.toNat ++
  flagByte f.sandForward ++ flagByte f.sandReverse ++ le8 (modeCode f.mode) ++ le16 f.shortfall ++ le8 0

/-- Section kinds (8.2.1). -/
def kindHeader : Nat := 1
/-- FRAME. -/
def kindFrame : Nat := 2
/-- TRAILER. -/
def kindTrailer : Nat := 3

/-- A section's bytes 0 to 509 (8.2.1): the common fields, the body filled up with 00h to byte 507, and
the checkword over bytes 0 to 507 (R141). -/
def sectionOf (kind : Nat) (protect : Bool) (number index addr frames : Nat) (body : List Byte) :
    List Byte :=
  let front := padTo 508 (le8 kind ++ flagByte protect ++ le16 number ++ le16 index ++ le16 addr ++
    le16 frames ++ body)
  front ++ le16 (crc16 front).toNat

/-- HEADER body (8.2.2). -/
def headerBody (seq : Word32) (r : OpenRecord) : List Byte :=
  let item := r.triggers.headD ⟨0, 0, 0⟩
  le32 seq.toNat ++ flagByte r.openTime.isSome ++ le32 (r.openTime.getD 0) ++ le8 item.entry ++
  le16 item.index ++ le32 item.conditions.toNat ++ le8 r.preTaken ++ le16 r.missed

/-- A trigger item's 7 bytes (8.2.4). -/
def itemBytes (i : TriggerItem) : List Byte := le8 i.entry ++ le16 i.index ++ le32 i.conditions.toNat

/-- TRAILER body (8.2.4). -/
def trailerBody (t : TrailerInfo) : List Byte :=
  le16 t.frameCount ++ le16 t.lostCount ++ le16 t.missed ++ le16 t.extraTriggers ++ le8 (endCode t.reason) ++
  le8 t.triggers.length ++ padTo 56 (t.triggers.flatMap itemBytes)

/-- Fields of a section read back (8.2.1). -/
def sectionKind (bs : List Byte) : Nat := fieldAt bs 0 1
/-- Protect byte. -/
def sectionProtect (bs : List Byte) : Bool := flagAt bs 1
/-- Record number field. -/
def sectionNumber (bs : List Byte) : Nat := fieldAt bs 2 2
/-- Section index field. -/
def sectionIndex (bs : List Byte) : Nat := fieldAt bs 4 2
/-- Logical section address field. -/
def sectionAddr (bs : List Byte) : Nat := fieldAt bs 6 2
/-- Frame count field. -/
def sectionFrames (bs : List Byte) : Nat := fieldAt bs 8 2
/-- Whether the stored checkword is the one computed over bytes 0 to 507 (R141). -/
def checkwordPasses (bs : List Byte) : Bool := fieldAt bs 508 2 == (crc16 (bs.take 508)).toNat
/-- Whether a TRAILER's release mark reads as released: at least four of its bits are 0 (R149). -/
def markReleased (bs : List Byte) : Bool :=
  decide (4 ≤ ((List.range 8).filter (fun i => !((bs.getD 510 0xFF).getLsbD i))).length)

end Sys2Proof.Machine
end

