-- ==== Sys2Proof/Machine/Ops.lean ====
section
/-! DEFINITION. The shared operations: the form of a meaning's answer, the bytes of the incident store
(R138), the sending of replies and reports (R179, R186), and the answer of an executed command (R181,
R182). -/

namespace Sys2Proof.Machine

/-! ## Answers -/

/-- The answer of a command that takes the part from `s` to `t`. A part without power takes nothing: it
stands as it is until POWER ON (assumption log 5). -/
def done (s t : State) : Host.Outcome State Fault Refusal := .next (if s.powered then t else s)

/-- The step `t` from `s` where it is the event a row names, and no event otherwise (assumption log 1). -/
def onOccasion (occurs : Bool) (s t : State) : Host.Outcome State Fault Refusal :=
  done s (if occurs then t else s)

/-- One microsecond passes: the timer counts modulo 2^32 (R1). -/
def tick (s : State) : State :=
  if s.powered then { s with am := { s.am with timer := s.am.timer + 1 } } else s

/-! ## The bytes of the store -/

/-- Bytes of one section (R138). -/
def sectionSize : Nat := 512
/-- Bytes of the store: 136 blocks of 16 sections. -/
def storeBytes : Nat := 136 * 16 * 512
/-- What an unlisted byte of the store reads as: FFh, as an erased byte does (R138). -/
def erasedByte : Byte := 0xFF

/-- One byte of the store. -/
def readByte (cells : List Host.Cell) (a : Nat) : Byte :=
  match cells.find? (·.1 == a) with
  | some c => c.2
  | none => erasedByte

/-- The cells of a run of bytes from address `a`, those that read FFh left out. -/
def cellsFrom : Nat → List Byte → List Host.Cell
  | _, [] => []
  | a, b :: bs => if b = erasedByte then cellsFrom (a + 1) bs else (a, b) :: cellsFrom (a + 1) bs

/-- The cells with a run of bytes written from address `a`. -/
def writeRun (cells : List Host.Cell) (a : Nat) (bs : List Byte) : List Host.Cell :=
  cells.filter (·.1 < a) ++ cellsFrom a bs ++ cells.filter (a + bs.length ≤ ·.1)

/-- The cells with every byte from `a` up to `a + n` made FFh. -/
def clearRun (cells : List Host.Cell) (a n : Nat) : List Host.Cell :=
  cells.filter (fun c => c.1 < a || a + n ≤ c.1)

/-- Addresses strictly rise and no cell reads as an unlisted one does. -/
def cellsCanonical : List Host.Cell → Bool
  | [] => true
  | [c] => c.2 != erasedByte
  | c :: d :: rest => c.2 != erasedByte && decide (c.1 < d.1) && cellsCanonical (d :: rest)

/-- The store's canonical form: cells canonical and within the 136 blocks. -/
def Medium.wf (m : Medium) : Bool := cellsCanonical m.cells && m.cells.all (fun c => decide (c.1 < storeBytes))

/-- The cells of one physical section. -/
def sectionCells (m : Medium) (phys : Nat) : List Host.Cell :=
  m.cells.filter (fun c => phys * sectionSize ≤ c.1 && c.1 < (phys + 1) * sectionSize)

/-- The 512 bytes of a physical section as last written. -/
def sectionBytes (m : Medium) (phys : Nat) : List Byte :=
  match sectionCells m phys with
  | [] => List.replicate sectionSize erasedByte
  | cells => (List.range sectionSize).map (fun i => readByte cells (phys * sectionSize + i))

/-- Whether a physical section is erased: its contents determined, every byte FFh (R138). -/
def isErased (m : Medium) (phys : Nat) : Bool := !m.unknown.contains phys && (sectionCells m phys).isEmpty

/-- The medium outcome of a read of a physical section: an erased one reads CLEAN, whatever outcome the
command names (R138); any other as the command names it. -/
def readOutcome (m : Medium) (phys : Nat) (o : MediumOutcome) : MediumOutcome :=
  if isErased m phys then .clean else o

/-- `n` bytes whose values the manual does not determine. -/
def freeBytes (free n : Nat) : List Byte := (List.range n).map (fun i => Config.freeByte (free + i))

/-- What a read of a physical section returns (R138): its bytes; free bytes where its contents are not
determined; and for an UNCORRECTABLE read free bytes in 0 to 509, the correction code's span, with the
spare bytes as they stand. -/
def readSection (m : Medium) (free phys : Nat) (o : MediumOutcome) : List Byte :=
  if m.unknown.contains phys then freeBytes free sectionSize
  else match o with
    | .uncorrectable => freeBytes free 510 ++ (sectionBytes m phys).drop 510
    | _ => sectionBytes m phys

/-- The store with one section's bytes 0 to 509 programmed (R138); beyond block 135 there is no section to
program. -/
def programSection (m : Medium) (phys : Nat) (bs : List Byte) : Medium :=
  if phys < 136 * 16 then { m with cells := writeRun m.cells (phys * sectionSize) (bs.take 510) } else m

/-- The store with a section's contents no longer determined (R138: after a failed program). -/
def spoilSection (m : Medium) (phys : Nat) : Medium :=
  { m with unknown := if m.unknown.contains phys then m.unknown else m.unknown ++ [phys] }

/-- The store with one byte written; there is no byte beyond block 135. -/
def writeStoreByte (m : Medium) (a : Nat) (b : Byte) : Medium :=
  if a < storeBytes then { m with cells := writeRun m.cells a [b] } else m

/-- The store with a block erased: every byte FFh, every section determined (R138). -/
def eraseBlock (m : Medium) (block : Nat) : Medium :=
  { m with
    cells := clearRun m.cells (block * 16 * sectionSize) (16 * sectionSize)
    unknown := m.unknown.filter (fun p => !(p / 16 == block)) }

/-- The store with every section of a block no longer determined (R138: after a failed erase). -/
def spoilBlock (m : Medium) (block : Nat) : Medium :=
  (List.range 16).foldl (fun m i => spoilSection m (block * 16 + i)) m

/-! ## Sending -/

/-- The CYCLE REPORT body (R179, 10.8), from each source as its owner last left it. -/
def cycleReportBody (s : State) : List Byte :=
  [statusCode .ok] ++ le16 s.bc.trucks.a.dbRequest ++ le16 s.bc.trucks.b.dbRequest ++
  le16 s.bc.trucks.a.pBlend ++ le16 s.bc.trucks.b.pBlend ++
  le16 (s.co.trucks.a.pCmd.getD 0) ++ le16 (s.co.trucks.b.pCmd.getD 0) ++
  le8 (outputCode s.co.trucks.a.mode) ++ flagByte s.co.trucks.a.dump ++
  le8 (outputCode s.co.trucks.b.mode) ++ flagByte s.co.trucks.b.dump ++
  le8 (corrCode s.sp.trucks.a.state) ++ le8 (corrCode s.sp.trucks.b.state) ++
  le16 s.sp.trucks.a.cap ++ le16 s.sp.trucks.b.cap ++ le16 s.bc.shortfall ++
  le16 (reportedRef s.am) ++ flagByte s.am.refValid ++ le8 (modeCode s.cx.mode) ++
  le32 (conditionWord s false).toNat ++ le16 (s.cx.notices &&& s.cx.noticeEnable).toNat ++
  flagByte (s.sp.sandForward.state == .opened) ++ flagByte (s.sp.sandReverse.state == .opened)

/-- The frame of a report entry, built when its transmission begins (R178, R179). -/
def reportFrame (s : State) : ReportEntry → List Byte
  | .report tag => frameBytes (replyKind kindCycleDemand) tag (cycleReportBody s)
  | .badLength tag => frameBytes (replyKind kindCycleDemand) tag [statusCode .badLength]

/-- What LI does at a frame boundary (R186): with the line idle, the oldest pending report is sent, or
else the oldest pending command reply. It leaves its list as its transmission begins (assumption log 45). -/
def startTx (s : State) : State :=
  match s.li.tx with
  | some _ => s
  | none =>
    match s.li.reports, s.li.replies with
    | e :: rest, _ => { s with li := { s.li with reports := rest, tx := some ⟨reportFrame s e, .plain⟩ } }
    | [], r :: rest =>
      { s with li := { s.li with replies := rest, tx := some ⟨frameBytes r.kind r.tag r.body, r.role⟩ } }
    | [], [] => s

/-- A reply placed at the tail of the pending command reply list (R186). -/
def placeReply (r : Reply) (s : State) : State :=
  startTx { s with li := { s.li with replies := s.li.replies ++ [r] } }

/-- A reply of R180, R183 or R184 placed on arrival: only while the list holds fewer than 16, and
LINK_OVERRUN otherwise (R186). -/
def placeArrivalReply (r : Reply) (s : State) : State :=
  if s.li.replies.length < 16 then placeReply r s else raise .linkOverrun s

/-- An entry placed in the pending report list, which holds up to 8; LINK_OVERRUN otherwise (R186). -/
def placeReport (e : ReportEntry) (s : State) : State :=
  if s.li.reports.length < 8 then startTx { s with li := { s.li with reports := s.li.reports ++ [e] } }
  else raise .linkOverrun s

/-- A status-only reply (R185). -/
def statusReply (kind tag : Byte) (st : Status) : Reply := ⟨replyKind kind, tag, [statusCode st], .plain⟩

/-! ## Executing queued commands -/

/-- CX is free: no READ INCIDENT or VERIFY INCIDENT is in execution and no SAVE PARAMETERS (R181). -/
def cxFree (s : State) : Bool := s.sc.readOut.isNone && !s.pm.saving

/-- CX may take the head command (R181, R193): CX free, fewer than 20 replies pending, the parameter load
ended, and no RESTART accepted. -/
def cxMayTake (s : State) : Bool :=
  cxFree s && decide (s.li.replies.length < 20) && s.cx.loadEnded && !s.li.closing

/-- The head command leaves the queue (R181). -/
def popCommand (s : State) : State := { s with li := { s.li with queue := s.li.queue.tail } }

/-- The final reply of the head command is placed and it leaves the queue (R181). -/
def finishCommand (r : Reply) (s : State) : State := popCommand (placeReply r s)

/-- A refused command: one status-only reply, and its execution ends (R182). -/
def refuseCommand (c : Command) (st : Status) (s : State) : State :=
  finishCommand (statusReply c.kind c.tag st) s

/-- A command answered with a status-only OK. -/
def answerOk (c : Command) (s : State) : State := finishCommand (statusReply c.kind c.tag .ok) s

/-- A command answered with a body of its own. -/
def answerWith (c : Command) (body : List Byte) (s : State) : State :=
  finishCommand ⟨replyKind c.kind, c.tag, body, .plain⟩ s

/-- CX takes the head command where it is of the given kind, checks its length (R182), and then goes on
with `rule`; where the head is of another kind, or CX may not take it, this is not what CX does. -/
def takeCommand (kind : Byte) (len : Nat) (rule : Command → State → State) (s : State) : State :=
  match s.li.queue with
  | [] => s
  | c :: _ =>
    if c.kind = kind ∧ cxMayTake s then
      if c.body.length = len then rule c s else refuseCommand c .badLength s
    else s

end Sys2Proof.Machine
end

