-- ==== Sys2Proof/Machine/AxleMonitor.lean ====
section
/-! DEFINITION. AM (Chapter 1): edge capture, the window evaluation of each axle, the reference speed and
AM's conditions. -/

namespace Sys2Proof.Machine

/-- The fields of an axle that becomes FAULTED (R9). -/
def faultedFields : SpeedFields := { resetSpeedFields with sensor := .faulted }

/-- One edge of an axle at time `stamp` (R1): counted and timestamped unless the axle is FAULTED; k
saturates at 255. -/
def captureEdge (stamp : Word32) (x : SpeedFields) : SpeedFields :=
  if x.sensor = .faulted then x
  else { x with edgeCount := satInc 255 x.edgeCount, windowEdge := some stamp }

/-- The candidate speed (R5): k × D × 355 × 360000 over 113 × ppr × t, rounded to nearest with halves up
and clamped to 16000; 16000 where t is 0. -/
def candidateSpeed (k d ppr t : Nat) : Nat :=
  if t = 0 then 16000 else min 16000 (divRound (k * d * 355 * 360000) (113 * ppr * t))

/-- The plausibility check of a candidate against the held speed (R6). -/
def takeCandidate (c : Nat) (x : SpeedFields) : SpeedFields :=
  if x.measured ∧ (x.speed + 2000 < c ∨ c + 2000 < x.speed) then
    if 3 ≤ x.implausible + 1 then faultedFields else { x with implausible := x.implausible + 1 }
  else { x with speed := c, measured := true, implausible := 0 }

/-- The interval of R4: from the stored edge to this window's last edge, modulo 2^32, where it is usable. -/
def usableInterval (stored current : Option Word32) : Option Nat :=
  match stored, current with
  | some l, some e => if (e - l).toNat ≤ 250000 then some (e - l).toNat else none
  | _, _ => none

/-- A window with edges (R4): the quiet count 0, STOPPED or LOCKED made NORMAL, the candidate taken where
an earlier edge is usable, and this window's last edge stored. `x` has its previous speed set. -/
def edgeWindow (d ppr : Nat) (x : SpeedFields) : SpeedFields :=
  let y := { x with
    quiet := 0
    sensor := if x.sensor = .stopped ∨ x.sensor = .locked then .normal else x.sensor
    lastEdge := x.windowEdge
    edgeCount := 0
    windowEdge := none }
  match usableInterval x.lastEdge x.windowEdge with
  | some t => takeCandidate (candidateSpeed x.edgeCount d ppr t) y
  | none => y

/-- A quiet window (R7), against the reference of the previous window. -/
def quietWindow (vRef : Nat) (x : SpeedFields) : SpeedFields :=
  let y := { x with quiet := satInc 255 x.quiet, edgeCount := 0, windowEdge := none }
  if 25 ≤ y.quiet then
    { y with
      speed := 0
      measured := false
      lastEdge := none
      sensor := if 1000 ≤ vRef then .locked else .stopped }
  else if 3 ≤ y.quiet ∧ 1000 ≤ vRef then { y with sensor := .locked }
  else y

/-- One axle's window evaluation (R3 steps 1 and 2); a FAULTED axle's changes nothing (R9). -/
def axleWindow (d ppr vRef : Nat) (x : SpeedFields) : SpeedFields :=
  if x.sensor = .faulted then x
  else
    let x := { x with prevSpeed := x.speed }
    if x.edgeCount = 0 then quietWindow vRef x else edgeWindow d ppr x

/-- The greatest speed among the axles that are not FAULTED, where there is one (R11). -/
def greatestSpeed (axles : PerAxle SpeedFields) : Option Nat :=
  ((axles.toList.filter (fun x => x.sensor != .faulted)).map (·.speed)).max?

/-- The ground speed, where the ground-speed source is chosen (R10): the demand record holds one and the
demand age is 0 or 1. -/
def groundSource (d : Demand) (age : Nat) : Option Nat := if age ≤ 1 then d.groundSpeed else none

/-- The internal reference moved toward a candidate by at most one step (R11). -/
def slewToward (decelLimit accelLimit cand ref : Nat) : Nat :=
  if cand < ref then max cand (ref - decelLimit)
  else if ref < cand then min cand (ref + accelLimit)
  else ref

/-- The internal reference and its validity after the axles are evaluated (R10, R11). -/
def nextReference (p : MotionParams) (ground : Option Nat) (axles : PerAxle SpeedFields) (ref : Nat) :
    Nat × Bool :=
  match ground with
  | some g => (g * 10, true)
  | none =>
    match greatestSpeed axles with
    | some v => (slewToward p.decelLimit p.accelLimit (v * 10) ref, true)
    | none => (0, false)

/-- STANDSTILL (R14). -/
def standstillHolds (ground : Option Nat) (axles : PerAxle SpeedFields) : Bool :=
  if axles.toList.all (fun x => x.sensor == .faulted) then ground == some 0
  else axles.toList.all (fun x => x.sensor == .faulted || x.sensor == .stopped)

/-- AM's evaluation at a window close (R3): the axles, the reference, the conditions (R13). -/
def amWindow (s : State) : AxleMonitor :=
  let p := s.pm.params.motion
  let vRef := reportedRef s.am
  let axles := PerAxle.ofFn (fun i => axleWindow (p.diameter.get i) p.ppr vRef (s.am.axles.get i))
  let ground := groundSource s.demand s.bc.demandAge
  let ref := nextReference p ground axles s.am.refInternal
  { s.am with
    axles := axles
    refInternal := ref.1
    refValid := ref.2
    standstill := standstillHolds ground axles
    lockedAxle := axles.toList.any (fun x => x.sensor == .locked)
    axleFault := axles.toList.any (fun x => x.sensor == .faulted) }

/-- A FAULTED axle's entry on entry to SETUP (R16): as after reset, but STOPPED with quiet count 25. -/
def clearedFields : SpeedFields := { resetSpeedFields with sensor := .stopped, quiet := 25 }

end Sys2Proof.Machine
end

