-- ==== Sys2Proof/Machine/SlideProtection.lean ====
section
/-! DEFINITION. SP (Chapter 2): the evaluation of R18, its slide detection, sensor-fault decision, truck
correction state machine, adhesion cap and sand valves. -/

namespace Sys2Proof.Machine

/-- The air effort of a cylinder pressure (R63, R26): 0 up to P_touch, (P − P_touch) × k_air / 100
above. -/
def airEffort (p : BlendParams) (pressure : Nat) : Nat :=
  if pressure ≤ p.pTouch then 0 else (pressure - p.pTouch) * p.kAir / 100

/-! ## Steps 1 to 3: the axles -/

/-- The low-speed inhibit (R19): the reported reference below 300, or invalid. -/
def lowSpeed (am : AxleMonitor) : Bool := decide (reportedRef am < 300) || !am.refValid

/-- Creep in ‰ of the reference, clamped to 0..1000 (R21). -/
def creepOf (vRef v : Nat) : Nat := min 1000 ((vRef - v) * 1000 / vRef)

/-- Whether any on-condition of R22 holds. -/
def onCondition (p : SlideParams) (vRef : Nat) (x : SpeedFields) (creep hits : Nat) : Bool :=
  decide (p.creepOn ≤ creep) || decide (vRef < 1500 ∧ x.speed + p.lowSpeed ≤ vRef) ||
  hits == 2 || x.sensor == .locked

/-- The slide fields of an axle that is or becomes FAULTED (R24). -/
def faultedSlide (y : SlideFields) : SlideFields :=
  { y with creep := 0, decel := 0, decelHits := 0, sliding := false, faultTime := 0 }

/-- Step 2 for one axle (R19 to R22, R24). -/
def slideAxle (p : SlideParams) (low : Bool) (vRef : Nat) (x : SpeedFields) (y : SlideFields) :
    SlideFields :=
  if x.sensor = .faulted then faultedSlide y
  else
    let decel : Int := x.prevSpeed - x.speed
    if low then { y with creep := 0, decel := decel, decelHits := 0, sliding := false, faultTime := 0 }
    else
      let hits := if (p.decelOn : Int) ≤ decel then satInc 2 y.decelHits else 0
      let creep := creepOf vRef x.speed
      let sliding :=
        if onCondition p vRef x creep hits then true
        else y.sliding && !(decide (creep ≤ p.creepOff ∧ decel ≤ 0))
      { y with creep := creep, decel := decel, decelHits := hits, sliding := sliding }

/-- Whether some other axle of the truck is NORMAL with creep at most creep_off (R23). -/
def companionTrue (p : SlideParams) (axles : PerAxle SpeedFields) (slides : PerAxle SlideFields)
    (i : AxleNo) : Bool :=
  (axlesOf (truckOf i)).any (fun j =>
    j != i && (axles.get j).sensor == .normal && decide ((slides.get j).creep ≤ p.creepOff))

/-- The sensor-fault condition of R23 on axle `i`, with `trucks` as they stood before the evaluation. -/
def sensorFaultCondition (p : SlideParams) (trucks : PerTruck TruckRecord) (axles : PerAxle SpeedFields)
    (slides : PerAxle SlideFields) (i : AxleNo) : Bool :=
  (axles.get i).sensor == .locked &&
  ((trucks.get (truckOf i)).state == .relieve || (trucks.get (truckOf i)).state == .hold) &&
  companionTrue p axles slides i

/-- The fault time of axle `i` after step 3 (R19, R23). Outside RUN, where R23 makes no test, it is 0 (assumption
log 51). R23 reads the state before the evaluation, so step 3 of the evaluation that enters LOCKOUT still advances
and tests it; step 5 then makes it 0 (`leftSlide`; assumption log 37). -/
def faultTimeAfter (p : SlideParams) (tested : Bool) (trucks : PerTruck TruckRecord)
    (axles : PerAxle SpeedFields) (slides : PerAxle SlideFields) (i : AxleNo) : Nat :=
  if tested && sensorFaultCondition p trucks axles slides i then (slides.get i).faultTime + 10 else 0

/-- Whether step 3 makes axle `i` FAULTED (R23). -/
def sensorFaulted (p : SlideParams) (tested : Bool) (trucks : PerTruck TruckRecord)
    (axles : PerAxle SpeedFields) (slides : PerAxle SlideFields) (i : AxleNo) : Bool :=
  (axles.get i).sensor != .faulted && tested && sensorFaultCondition p trucks axles slides i &&
  decide (p.sensorFaultTime ≤ (slides.get i).faultTime + 10)

/-! ## Step 5: the truck correction state machine -/

/-- A truck record come to IDLE at the end of an episode or a lockout (R19, R30, R32, R35). -/
def toIdle (t : TruckRecord) : TruckRecord :=
  { t with
    state := .idle, episode := 0, holdTimer := 0, lockoutTimer := 0, limit := none, sandDemand := false }

/-- The floor effort (R34). -/
def floorEffort (p : SlideParams) : Nat := p.nominalCap * p.floor / 1000

/-- The adhesion cap cut at a slide (R26, R29). -/
def cutCap (p : SlideParams) (eOnset cap : Nat) : Nat :=
  max (floorEffort p) (min cap (eOnset * p.adhesionCut / 1000))

/-- A slide on an IDLE truck (R26). -/
def enterRelieve (p : SlideParams) (eOnset : Nat) (t : TruckRecord) : TruckRecord :=
  { t with
    state := .relieve
    episode := 0
    holdTimer := 0
    limit := some (eOnset * p.relieveFactor / 1000)
    cap := cutCap p eOnset t.cap
    sandDemand := true }

/-- A slide in HOLD or RESTORE (R29): back to RELIEVE within the episode, L_g not raised. -/
def reenterRelieve (p : SlideParams) (eOnset : Nat) (t : TruckRecord) : TruckRecord :=
  { t with
    state := .relieve
    holdTimer := 0
    limit := some (match t.limit with
      | some l => min l (eOnset * p.relieveFactor / 1000)
      | none => eOnset * p.relieveFactor / 1000)
    cap := cutCap p eOnset t.cap }

/-- The episode time-out (R31). -/
def enterLockout (t : TruckRecord) : TruckRecord :=
  { t with state := .lockout, limit := none, lockoutTimer := 0 }

/-- RESTORE without a slide (R30): L_g raised by the restore step; IDLE where it reaches Cap_g. -/
def restoreStep (p : SlideParams) (t : TruckRecord) : TruckRecord :=
  let l := min 6000 (t.limit.getD 0 + p.restoreStep)
  if t.cap ≤ l then toIdle t else { t with limit := some l }

/-- HOLD without a slide (R28). -/
def holdStep (p : SlideParams) (t : TruckRecord) : TruckRecord :=
  let t := { t with holdTimer := t.holdTimer + 10 }
  if p.holdTime ≤ t.holdTimer then { t with state := .restore } else t

/-- LOCKOUT (R32). -/
def lockoutStep (p : SlideParams) (t : TruckRecord) : TruckRecord :=
  let t := { t with lockoutTimer := t.lockoutTimer + 10 }
  if p.lockoutTime ≤ t.lockoutTimer then toIdle t else t

/-- One step of an episode in progress, after the low-speed test: the episode timer advances, the time-out
is tested, then the rule of the present state (R25, R27 to R31). -/
def episodeStep (p : SlideParams) (slide : Bool) (eOnset : Nat) (t : TruckRecord) : TruckRecord :=
  let t := { t with episode := t.episode + 10 }
  if p.corrMax ≤ t.episode then enterLockout t
  else match t.state with
    | .relieve => if slide then t else { t with state := .hold, holdTimer := 0 }
    | .hold => if slide then reenterRelieve p eOnset t else holdStep p t
    | .restore => if slide then reenterRelieve p eOnset t else restoreStep p t
    | _ => t

/-- Step 5 for one truck (R25). Outside RUN every truck is IDLE with its timers 0, and its sand demand is lowered with
them (assumption log 49); an unprotected truck is held in IDLE (R35). -/
def truckStep (p : SlideParams) (run low slide : Bool) (eOnset : Nat) (t : TruckRecord) : TruckRecord :=
  if !run then toIdle t
  else if !t.isProtected then (if t.state = .idle then t else toIdle t)
  else match t.state with
    | .idle => if !low && slide then enterRelieve p eOnset t else t
    | .lockout => lockoutStep p t
    | _ => if low then toIdle t else episodeStep p slide eOnset t

/-- Step 6 for one truck (R34). -/
def capStep (p : SlideParams) (run : Bool) (t : TruckRecord) : TruckRecord :=
  if !t.isProtected then { t with cap := max (floorEffort p) (p.nominalCap * p.unprotectedFactor / 1000) }
  else if run then t
  else { t with cap := p.nominalCap }

/-- E_onset (R26): the achieved effort of the group and the air effort of the measured cylinder pressure,
clamped to 6000. -/
def eOnset (s : State) (g : Truck) : Nat :=
  min 6000 (((usedDemand s).groups.get g).achieved +
    airEffort s.pm.params.blend (s.co.trucks.get g).measured)

/-! ## Step 7: the sand valves -/

/-- The sand request of a direction (R38). -/
def sandRequest (d : Demand) (standstill : Bool) (trucks : PerTruck TruckRecord) (dir : Direction) : Bool :=
  d.direction == dir && !standstill && (trucks.any (·.sandDemand) || d.hostSand)

/-- One sand valve's move (R39). -/
def valveStep (p : SlideParams) (request : Bool) (v : SandValve) : SandValve :=
  match v.state with
  | .closed => if request then { v with state := .opened, openTime := 0 } else v
  | .opened =>
    if request then
      let v := { v with openTime := v.openTime + 10 }
      if p.sandMax * 1000 ≤ v.openTime then { v with state := .resting, restTime := 0 } else v
    else { v with state := .closed, openTime := 0 }
  | .resting =>
    let v := { v with restTime := v.restTime + 10 }
    if p.sandRest * 1000 ≤ v.restTime then { v with state := .closed } else v

/-! ## The evaluation -/

/-- Steps 2 and 3 of the evaluation (R18): AM's table and the slide fields, with the axles that the
sensor-fault decision makes FAULTED so set (R9, R24). -/
def spAxles (s : State) : PerAxle SpeedFields × PerAxle SlideFields :=
  let p := s.pm.params.slide
  let low := lowSpeed s.am
  let vRef := reportedRef s.am
  let slides := PerAxle.ofFn (fun i => slideAxle p low vRef (s.am.axles.get i) (s.sp.axles.get i))
  let tested := (s.cx.mode == .run) && !low
  let bad := fun i => sensorFaulted p tested s.sp.trucks s.am.axles slides i
  (PerAxle.ofFn (fun i => if bad i then faultedFields else s.am.axles.get i),
   PerAxle.ofFn (fun i =>
    if bad i then faultedSlide (slides.get i)
    else if (s.am.axles.get i).sensor = .faulted then slides.get i
    else { slides.get i with faultTime := faultTimeAfter p tested s.sp.trucks s.am.axles slides i }))

/-- Whether a slide is present on a truck: one of its axles that is not FAULTED slides (R25). -/
def slidePresent (axles : PerAxle SpeedFields) (slides : PerAxle SlideFields) (g : Truck) : Bool :=
  (axlesOf g).any (fun i => (axles.get i).sensor != .faulted && (slides.get i).sliding)

/-- Whether a truck is protected: not all three of its axles FAULTED (R35). -/
def protectedBy (axles : PerAxle SpeedFields) (g : Truck) : Bool :=
  !((axlesOf g).all (fun i => (axles.get i).sensor == .faulted))

/-- Steps 4 to 6 for one truck (R18). -/
def spTruck (s : State) (axles : PerAxle SpeedFields) (slides : PerAxle SlideFields) (g : Truck) :
    TruckRecord :=
  let p := s.pm.params.slide
  let run := s.cx.mode == .run
  let t := { s.sp.trucks.get g with isProtected := protectedBy axles g }
  capStep p run (truckStep p run (lowSpeed s.am) (slidePresent axles slides g) (eOnset s g) t)

/-- The slide fields an evaluation leaves of axle `i`, `trucks` being the truck records it leaves: the fault time of
an axle whose truck is in LOCKOUT is 0 from its entry on (R32), and the axle's sensor state is kept for the next
evaluation's AXLE_FAULT (R24). -/
def leftSlide (trucks : PerTruck TruckRecord) (axles : PerAxle SpeedFields) (slides : PerAxle SlideFields)
    (i : AxleNo) : SlideFields :=
  { slides.get i with
    faultTime := if (trucks.get (truckOf i)).state = .lockout then 0 else (slides.get i).faultTime
    wasFaulted := (axles.get i).sensor == .faulted }

/-- SP's evaluation of a window whose AM evaluation has left its results in `s` (R18), the notices
included (R24, R40). -/
def spEvaluate (s : State) : State :=
  let p := s.pm.params.slide
  let axles := (spAxles s).1
  let slides := (spAxles s).2
  let trucks := PerTruck.ofFn (spTruck s axles slides)
  let d := usedDemand s
  let fwd := valveStep p (sandRequest d s.am.standstill trucks .forward) s.sp.sandForward
  let rev := valveStep p (sandRequest d s.am.standstill trucks .reverse) s.sp.sandReverse
  let newFault := allAxles.any (fun i =>
    (axles.get i).sensor == .faulted && !(s.sp.axles.get i).wasFaulted)
  let newLockout := (s.sp.trucks.a.state != .lockout && trucks.a.state == .lockout) ||
    (s.sp.trucks.b.state != .lockout && trucks.b.state == .lockout)
  raiseIf newFault .axleFault <| raiseIf newLockout .lockout
    { s with
      am := { s.am with axles := axles }
      sp :=
        { axles := PerAxle.ofFn (leftSlide trucks axles slides)
          trucks := trucks
          sandForward := fwd
          sandReverse := rev
          relieveCond := trucks.map (fun t => t.state == .relieve || t.state == .hold)
          lockoutCond := trucks.map (fun t => t.state == .lockout)
          sanding := fwd.state == .opened || rev.state == .opened } }

/-- One truck's adhesion recovery step (R33). -/
def recoverCap (p : SlideParams) (run : Bool) (t : TruckRecord) : TruckRecord :=
  if run ∧ t.isProtected ∧ t.state = .idle then
    { t with cap := min p.nominalCap (t.cap + p.recoveryRate * p.nominalCap / 1000) }
  else t

end Sys2Proof.Machine
end

