-- ==== Sys2Proof/Machine/Cylinder.lean ====
section
/-! DEFINITION. CO (Chapter 6): the composition of R101. -/

namespace Sys2Proof.Machine

/-- A transducer reading taken as a pressure (R43, R102): valid from 0 to 1050 kPa, 1001 to 1050 taken as
1000; `none` for an invalid reading. -/
def validReading : Reading → Option Nat
  | .kPa p => if 0 ≤ p ∧ p ≤ 1050 then some (min 1000 p.toNat) else none
  | .openCircuit => none

/-- Step 1 for one truck (R102). -/
def sampleCylinder (r : Reading) (o : TruckOutput) : TruckOutput :=
  match validReading r with
  | some p => { o with measured := p, measuredValid := true }
  | none => { o with measuredValid := false }

/-- Step 2 (R103): whether a truck is PNEUMATIC. -/
def outputModeOf (mode : Mode) (pipeFault moved airFault : Bool) : OutputMode :=
  if mode == .startup || pipeFault || airFault || moved then .pneumatic else .ep

/-- The base command (R105, R106): P_em in emergency; otherwise the greater of the blend pressure (in RUN)
or P_auto (outside RUN) and P_ind, clamped to P_fs. -/
def baseCommand (p : BlendParams) (run emergency : Bool) (pBlend pAuto pInd : Nat) : Nat :=
  if emergency then p.pEm else min p.pFs (max (if run then pBlend else pAuto) pInd)

/-- The RESTORE limit (R107). -/
def restoreLimit (p : BlendParams) (limit achieved : Nat) : Nat :=
  p.pTouch + divUp ((limit - achieved) * 100) p.kAir

/-- The correction override of R107, which acts in RUN. -/
def overrideCommand (p : BlendParams) (run : Bool) (t : TruckRecord) (achieved base : Nat) : Nat :=
  if !run then base
  else match t.state with
    | .idle => base
    | .lockout => base
    | .relieve => 0
    | .hold => 0
    | .restore =>
      if achieved < t.limit.getD 0 then min base (restoreLimit p (t.limit.getD 0) achieved) else 0

/-- Whether the deviation of an EP truck holds (R110). -/
def deviates (tolerance cmd : Nat) (o : TruckOutput) : Bool :=
  !o.measuredValid || decide (cmd + tolerance < o.measured ∨ o.measured + tolerance < cmd)

/-- Step 4 for one truck whose mode is set and whose command is `cmd` (R110, R111): the deviation timer,
and the air-fault latch with the turn to PNEUMATIC. -/
def supervise (p : SupervisionParams) (cmd : Nat) (o : TruckOutput) : TruckOutput :=
  match o.mode with
  | .pneumatic => { o with deviation := 0 }
  | .ep =>
    if deviates p.airFaultTolerance cmd o then
      if p.airFaultTime ≤ o.deviation + 10 then
        { o with deviation := 0, airFault := true, mode := .pneumatic }
      else { o with deviation := o.deviation + 10 }
    else { o with deviation := 0 }

/-- Step 5 for one truck (R108, R109). -/
def driveOutputs (t : TruckRecord) (cmd : Nat) (o : TruckOutput) : TruckOutput :=
  match o.mode with
  | .ep => { o with pCmd := some cmd, dump := false }
  | .pneumatic => { o with pCmd := none, dump := t.state == .relieve || t.state == .hold }

/-- The command composed for truck `g` at step 3 (R105 to R107). -/
def composeCommand (s : State) (g : Truck) : Nat :=
  let p := s.pm.params.blend
  let run := s.cx.mode == .run
  let d := usedDemand s
  overrideCommand p run (s.sp.trucks.get g) (d.groups.get g).achieved
    (baseCommand p run s.bpm.emergency (s.bc.trucks.get g).pBlend s.bc.pAuto d.independent)

/-- Steps 1 to 5 for one truck, `moved` the moved-in-setup latch after its test (R101). -/
def composeTruck (s : State) (moved : Bool) (r : Reading) (g : Truck) : TruckOutput :=
  let o := sampleCylinder r (s.co.trucks.get g)
  let o := { o with mode := outputModeOf s.cx.mode s.bpm.sensorFault moved o.airFault }
  let cmd := composeCommand s g
  driveOutputs (s.sp.trucks.get g) cmd (supervise s.pm.params.supervision cmd o)

/-- CO's composition at the end of a window's chain (R101), the notices included (R111 to R113). -/
def compose (cylA cylB : Reading) (s : State) : State :=
  let moved := s.co.movedInSetup || (s.cx.mode == .setup && !s.am.standstill)
  let a := composeTruck s moved cylA .a
  let b := composeTruck s moved cylB .b
  let newFault := (!s.co.trucks.a.airFault && a.airFault) || (!s.co.trucks.b.airFault && b.airFault)
  raiseIf newFault .airFault <| raiseIf (!s.co.movedInSetup && moved) .movedInSetup
    { s with co := { trucks := ⟨a, b⟩, movedInSetup := moved } }

end Sys2Proof.Machine
end

