-- ==== Sys2Proof/Machine/BrakePipe.lean ====
section
/-! DEFINITION. BPM (Chapter 3): one sample of the brake pipe, R43 to R49, in the order of their rules,
and the rows that name a bound reached at a sample. -/

namespace Sys2Proof.Machine

/-- The value of P_bp before a sample joins the history at its newest end; the history keeps the 10 newest
(R43). -/
def pushHistory (history : List Nat) (p : Nat) : List Nat :=
  (history ++ [p]).drop (history.length + 1 - 10)

/-- The reduction (R45): P_rel − P_bp clamped to 0..r_fs, and 0 below the deadband. -/
def reductionOf (p : PipeParams) (pressure : Nat) : Nat :=
  let r := min p.rFs (p.pRel - pressure)
  if r < p.rDb then 0 else r

/-- The rate-hit count (R47), `history` and `pressure` as this sample leaves them. -/
def rateHitsAfter (p : PipeParams) (valid : Bool) (history : List Nat) (pressure hits : Nat) : Nat :=
  if valid && history.length == 10 && decide (pressure + p.emFall ≤ history.headD 0) then satInc 2 hits
  else 0

/-- P_bp, the history and the invalid count with its latch (R43, R44). -/
def takeReading (r : Reading) (b : BrakePipe) : BrakePipe :=
  let b := { b with history := pushHistory b.history b.pressure }
  match validReading r with
  | some p => { b with pressure := p, invalidCount := 0 }
  | none =>
    let n := satInc 5 b.invalidCount
    { b with invalidCount := n, sensorFault := b.sensorFault || n == 5 }

/-- The reduction and the rate-hit count from P_bp as just set (R45, R47). -/
def deriveFall (p : PipeParams) (valid : Bool) (b : BrakePipe) : BrakePipe :=
  { b with
    reduction := reductionOf p b.pressure
    rateHits := rateHitsAfter p valid b.history b.pressure b.rateHits }

/-- Whether a trigger of R46 or R47 holds. -/
def triggersHold (p : PipeParams) (hostEmergency : Bool) (b : BrakePipe) : Bool :=
  decide (b.pressure < p.emThreshold) || hostEmergency || b.rateHits == 2

/-- The recovery condition (R49). -/
def recoveryHolds (p : PipeParams) (standstill hostEmergency : Bool) (b : BrakePipe) : Bool :=
  decide (p.pRecover ≤ b.pressure) && standstill && !hostEmergency &&
  !triggersHold p hostEmergency b && !b.sensorFault

/-- The emergency latch and the recovery timer (R46 to R49). -/
def latchEmergency (p : PipeParams) (standstill hostEmergency : Bool) (b : BrakePipe) : BrakePipe :=
  if triggersHold p hostEmergency b then { b with emergency := true, recovery := 0 }
  else if b.emergency then
    if recoveryHolds p standstill hostEmergency b then
      if 10000 ≤ b.recovery + 10 then { b with emergency := false, recovery := 0 }
      else { b with recovery := b.recovery + 10 }
    else { b with recovery := 0 }
  else b

/-- The brake pipe record after a sample (R43 to R49). -/
def samplePipe (p : PipeParams) (standstill hostEmergency : Bool) (r : Reading) (b : BrakePipe) :
    BrakePipe :=
  latchEmergency p standstill hostEmergency
    (deriveFall p (validReading r).isSome (takeReading r b))

/-- BPM's sample, whole, with its notices (R44, R48). It is taken in every part mode once the block timers
run (R43). BP_SENSOR_FAULT is raised as its latch goes from clear to set (assumption log 38). -/
def bpmSample (r : Reading) (s : State) : State :=
  if s.timersRunning then
    let b := samplePipe s.pm.params.pipe s.am.standstill s.demand.hostEmergency r s.bpm
    raiseIf (!s.bpm.sensorFault && b.sensorFault) .bpSensorFault <|
      raiseIf (!s.bpm.emergency && b.emergency) .emergency { s with bpm := b }
  else s

/-- BP SAMPLE (R43). -/
def execBpSample (pipe : Reading) (s : State) : Host.Outcome State Fault Refusal :=
  done s (bpmSample pipe s)

/-- The sample at which the rate trigger holds (R47): its rate-hit count is 2. -/
def execRateTrigger (pipe : Reading) (s : State) : Host.Outcome State Fault Refusal :=
  let t := bpmSample pipe s
  onOccasion (s.timersRunning && t.bpm.rateHits == 2) s t

/-- The sample at which the fifth consecutive invalid sample sets the sensor-fault latch (R44). -/
def execBpSensorFault (pipe : Reading) (s : State) : Host.Outcome State Fault Refusal :=
  let t := bpmSample pipe s
  onOccasion (!s.bpm.sensorFault && t.bpm.sensorFault) s t

/-- The sample at which the recovery timer reaches 10000 and the emergency latch clears (R49). -/
def execEmergencyRecovery (pipe : Reading) (s : State) : Host.Outcome State Fault Refusal :=
  let t := bpmSample pipe s
  onOccasion (s.bpm.emergency && !t.bpm.emergency) s t

end Sys2Proof.Machine
end

