-- ==== Sys2Proof/Machine/Thermal.lean ====
section
/-! DEFINITION. The dynamic-brake curve and GT (Chapter 5). -/

namespace Sys2Proof.Machine

/-- The effort on the segment from `a` to `b` at speed `v` (R85): the product formed in full, the division
toward zero. -/
def segmentEffort (a b : Breakpoint) (v : Nat) : Nat :=
  ((a.effort : Int) + (((b.effort : Int) - a.effort) * ((v : Int) - a.speed)).tdiv
    ((b.speed : Int) - a.speed)).toNat

/-- The curve effort at a speed (R85), along the breakpoints from the one held as `a`: the first segment
whose end lies above `v`, or the last effort. -/
def effortAlong (v : Nat) (a : Breakpoint) : List Breakpoint → Nat
  | [] => a.effort
  | b :: rest => if v < b.speed then segmentEffort a b v else effortAlong v b rest

/-- The curve effort at a speed (R85). -/
def curveEffort (t : ThermalParams) (v : Nat) : Nat :=
  effortAlong v t.c1 [t.c2, t.c3, t.c4, t.c5, t.c6, t.c7, t.c8]

/-- The power of a group in kW (R89). -/
def gridPower (achieved vRef : Nat) : Nat := achieved * vRef / 3600

/-- The heat of one second (R90). -/
def gridHeat (hg power : Nat) : Nat := power * hg / 1000

/-- The cooling of one second (R92), negative below the ambient. -/
def gridCooling (kc : Nat) (ambient : Int) (theta : Nat) : Int := (((theta : Int) - ambient) * kc).tdiv 1000

/-- The new temperature (R92). -/
def nextTheta (t : ThermalParams) (ambient : Int) (vRef : Nat) (r : GroupReport) (theta : Nat) : Nat :=
  let kc := if r.blowers then t.blowerOn else t.blowerOff
  (clampInt 0 9000 ((theta : Int) + (gridHeat t.hg (gridPower r.achieved vRef) : Nat) -
    gridCooling kc ambient theta)).toNat

/-- The cutout latch from the new temperature (R94, R95). -/
def nextCutout (t : ThermalParams) (theta : Nat) (latch : Bool) : Bool :=
  if latch then decide (t.thetaRearm < theta) else decide (t.thetaCut ≤ theta)

/-- The thermal cap (R93). -/
def thermalCap (t : ThermalParams) (fDbMax theta : Nat) (latch : Bool) : Nat :=
  if latch then 0
  else if theta ≤ t.thetaDerate then fDbMax
  else fDbMax * (t.thetaCut - theta) / (t.thetaCut - t.thetaDerate)

/-- One group's update (R88). -/
def thermalStep (p : ParamSet) (ambient : Int) (vRef : Nat) (r : GroupReport) (g : ThermalGroup) :
    ThermalGroup :=
  let theta := nextTheta p.thermal ambient vRef r g.theta
  let cutout := nextCutout p.thermal theta g.cutout
  { theta := theta, cap := thermalCap p.thermal p.blend.fDbMax theta cutout, cutout := cutout }

/-- The ambient temperature of an update (R91). -/
def ambientOf (s : State) : Int := (usedDemand s).ambient.getD s.pm.params.thermal.ambient

/-- GT's update of both groups, with the notice GRID_CUTOUT at an onset (R88, R94). -/
def thermalUpdate (s : State) : State :=
  if s.timersRunning then
    let step := fun g =>
      thermalStep s.pm.params (ambientOf s) (reportedRef s.am) ((usedDemand s).groups.get g) (s.gt.get g)
    let gt := PerTruck.ofFn step
    raiseIf ((!s.gt.a.cutout && gt.a.cutout) || (!s.gt.b.cutout && gt.b.cutout)) .gridCutout
      { s with gt := gt }
  else s

/-- THERMAL UPDATE (R88). -/
def execThermalUpdate (s : State) : Host.Outcome State Fault Refusal := done s (thermalUpdate s)

end Sys2Proof.Machine
end

