-- ==== Sys2Proof/Machine/Blend.lean ====
section
/-! DEFINITION. BC (Chapter 4): one blend run, R59 to R79, and LINK LOSS. -/

namespace Sys2Proof.Machine

/-- Whether a truck's cylinder is being released by a correction. -/
def releasing (st : CorrState) : Bool := st == .relieve || st == .hold

/-! ## What a run reads of each truck -/

/-- The inputs of one truck's computation, read once at the start of the run (R59), with the figures that
R63 to R66 derive from them. -/
structure TruckInputs where
  share : Nat
  lim : Nat
  capability : Nat
  state : CorrState
  ep : Bool
  isProtected : Bool
  airMeas : Nat
  achieved : Nat
  deriving DecidableEq, Repr

/-- P_auto (R63). -/
def pAutoOf (p : BlendParams) (reduction : Nat) : Nat := min p.pFs (reduction * p.ratio / 10)

/-- The handle demand F_hnd (R64). -/
def handleDemand (p : BlendParams) (handle : Nat) : Nat := handle * p.fDbMax / 1000

/-- The share S_g (R64). -/
def shareOf (fAuto fHnd : Nat) (bailOff : Bool) : Nat := if bailOff then fHnd else max fAuto fHnd

/-- The total limit Lim_g (R65). -/
def totalLimit (t : TruckRecord) : Nat :=
  match t.limit with
  | some l => min t.cap l
  | none => t.cap

/-- The capability C_g (R66). -/
def capabilityOf (s : State) (d : Demand) (age : Nat) (g : Truck) : Nat :=
  if (d.groups.get g).available ∧ age ≤ 3 ∧ s.am.refValid then
    min (curveEffort s.pm.params.thermal (reportedRef s.am))
      (min (s.gt.get g).cap (totalLimit (s.sp.trucks.get g)))
  else 0

/-- The inputs of truck `g`; `d` is the demand record as the run uses it. -/
def truckInputs (s : State) (d : Demand) (age : Nat) (g : Truck) : TruckInputs :=
  let p := s.pm.params.blend
  { share := shareOf (airEffort p (pAutoOf p s.bpm.reduction)) (handleDemand p d.handle) d.bailOff
    lim := totalLimit (s.sp.trucks.get g)
    capability := capabilityOf s d age g
    state := (s.sp.trucks.get g).state
    ep := (s.co.trucks.get g).mode == .ep
    isProtected := (s.sp.trucks.get g).isProtected
    airMeas := airEffort p (s.co.trucks.get g).measured
    achieved := (d.groups.get g).achieved }

/-! ## The regimes -/

/-- What a regime gives a truck: the planned own DB and air and the residual. -/
structure OwnPlan where
  db : Nat
  air : Nat
  residual : Nat
  deriving DecidableEq, Repr

/-- Aeff_max (R63). -/
def airEffortMax (p : BlendParams) : Nat := airEffort p p.pFs

/-- Own service in the blended regime (R67, R68). -/
def blendedOwn (p : BlendParams) (i : TruckInputs) : OwnPlan :=
  if i.ep then
    let db := min i.share i.capability
    let air := if releasing i.state then 0 else min (i.share - db) (min (airEffortMax p) (i.lim - db))
    ⟨db, air, i.share - db - air⟩
  else
    let db := min i.capability (min (i.share - i.airMeas) (i.lim - i.airMeas))
    ⟨db, 0, i.share - db - i.airMeas⟩

/-- Own service in the non-blended regime (R76). -/
def nonBlendedOwn (fHnd fAir : Nat) (i : TruckInputs) : OwnPlan :=
  if i.ep then
    let db := min fHnd i.capability
    let air := if releasing i.state then 0 else min fAir (i.lim - db)
    ⟨db, air, (fHnd - db) + (fAir - air)⟩
  else
    let db := min fHnd (min i.capability (i.lim - i.airMeas))
    ⟨db, 0, fHnd - db⟩

/-- Own service in the emergency regime (R77, R78). -/
def emergencyOwn (p : BlendParams) (i : TruckInputs) : OwnPlan :=
  let eEm := airEffort p p.pEm
  let db := if p.dbRetained then min i.capability (i.lim - eEm) else 0
  if i.ep then
    let air := if releasing i.state then 0 else min eEm (i.lim - db)
    ⟨db, air, i.share - db - air⟩
  else ⟨db, 0, i.share - db - i.airMeas⟩

/-- The extra DB and air truck h receives of the other truck's residual (R69). -/
def transferTo (p : BlendParams) (offered : Nat) (i : TruckInputs) (own : OwnPlan) : Nat × Nat :=
  if p.transfer && i.ep && i.state == .idle && i.isProtected then
    let x := min offered (min (i.capability - own.db) (i.lim - own.db - own.air))
    (x, min (offered - x) (min (airEffortMax p - own.air) (i.lim - own.db - own.air - x)))
  else (0, 0)

/-- The ramp of a DB request toward its target (R72). -/
def rampToward (up down target dbr : Nat) : Nat :=
  if dbr < target then min target (dbr + up)
  else if target < dbr then max target (dbr - down)
  else dbr

/-- The DB request stored by a run in RUN (R72, R73). -/
def dbRequestAfter (p : BlendParams) (st : CorrState) (capability target dbr : Nat) : Nat :=
  let r := rampToward p.upStep p.downStep target dbr
  min capability (if releasing st ∧ target < r then target else r)

/-- The blend pressure that gives an air effort, under a ceiling (R75, R77). -/
def blendPressure (p : BlendParams) (ceiling airCmd : Nat) : Nat :=
  if airCmd = 0 then 0 else min ceiling (p.pTouch + divUp (airCmd * 100) p.kAir)

/-- The air command of the blended regime (R74); 0 for a PNEUMATIC truck (R68). -/
def blendedAirCmd (p : BlendParams) (i : TruckInputs) (own : OwnPlan) (x y : Nat) : Nat :=
  if !i.ep || releasing i.state then 0
  else min (own.air + y + (own.db + x - i.achieved)) (min (airEffortMax p) (i.lim - i.achieved))

/-- The fields of a truck outside the blended regime, from its own plan (R76, R77): no transfer, and no
fill from achieved DB. -/
def plainTruck (p : BlendParams) (ceiling dbr : Nat) (i : TruckInputs) (own : OwnPlan) : BlendTruck where
  share := i.share
  capability := i.capability
  ownDb := own.db
  ownAir := own.air
  residual := own.residual
  extraDb := 0
  extraAir := 0
  unmet := own.residual
  dbRequest := dbRequestAfter p i.state i.capability own.db dbr
  airCmd := own.air
  pBlend := blendPressure p ceiling own.air

/-- The fields of a truck in the blended regime (R67 to R75): `got` is what it receives of the other
truck's residual, `gave` what the other receives of its own. -/
def blendedTruck (p : BlendParams) (dbr : Nat) (i : TruckInputs) (own : OwnPlan) (got gave : Nat × Nat) :
    BlendTruck where
  share := i.share
  capability := i.capability
  ownDb := own.db
  ownAir := own.air
  residual := own.residual
  extraDb := got.1
  extraAir := got.2
  unmet := own.residual - gave.1 - gave.2
  dbRequest := dbRequestAfter p i.state i.capability (own.db + got.1) dbr
  airCmd := blendedAirCmd p i own got.1 got.2
  pBlend := blendPressure p p.pFs (blendedAirCmd p i own got.1 got.2)

/-- Both trucks in the blended regime (R67 to R70). -/
def blendedTrucks (p : BlendParams) (dbr : PerTruck Nat) (a b : TruckInputs) : PerTruck BlendTruck :=
  let ownA := blendedOwn p a
  let ownB := blendedOwn p b
  let toB := transferTo p ownA.residual b ownB
  let toA := transferTo p ownB.residual a ownA
  ⟨blendedTruck p dbr.a a ownA toA toB, blendedTruck p dbr.b b ownB toB toA⟩

/-- Both trucks' fields in RUN, by the regime of R61. -/
def runTrucks (p : BlendParams) (emergency : Bool) (fAuto fHnd : Nat) (bailOff : Bool)
    (dbr : PerTruck Nat) (a b : TruckInputs) : PerTruck BlendTruck :=
  if emergency then
    ⟨plainTruck p p.pEm dbr.a a (emergencyOwn p a), plainTruck p p.pEm dbr.b b (emergencyOwn p b)⟩
  else if p.nonBlended then
    let fAir := if bailOff then 0 else fAuto
    ⟨plainTruck p p.pFs dbr.a a (nonBlendedOwn fHnd fAir a),
     plainTruck p p.pFs dbr.b b (nonBlendedOwn fHnd fAir b)⟩
  else blendedTrucks p dbr a b

/-! ## The run -/

/-- The DB requests that a run ramps from (R72): 0 in the first run in RUN (R62, R84), and those of the
previous run in any other. -/
def rampStart (b : BlendComputer) : PerTruck Nat :=
  if b.freshRun then .both 0 else b.trucks.map (·.dbRequest)

/-- The blend result record, SHORTFALL and the demand age after a run (R55, R59 to R79). -/
def blendResult (s : State) : BlendComputer :=
  let p := s.pm.params.blend
  let age := satInc 255 s.bc.demandAge
  let d := usedDemand { s with bc := { s.bc with demandAge := age } }
  let pAuto := pAutoOf p s.bpm.reduction
  let fAuto := airEffort p pAuto
  if s.cx.mode == .run then
    let trucks := runTrucks p s.bpm.emergency fAuto (handleDemand p d.handle) d.bailOff
      (rampStart s.bc) (truckInputs s d age .a) (truckInputs s d age .b)
    let shortfall := trucks.a.unmet + trucks.b.unmet
    { pAuto := pAuto, fAuto := fAuto, trucks := trucks, shortfall := shortfall
      shortfallCond := decide (p.shortfallThreshold < shortfall), demandAge := age, freshRun := false }
  else
    { pAuto := pAuto, fAuto := fAuto, trucks := .both zeroBlendTruck, shortfall := 0
      shortfallCond := false, demandAge := age, freshRun := false }

/-- BC's run, whole, with the notice LINK_LOSS at its onset (R56, R59). -/
def blendRun (s : State) : State :=
  if s.timersRunning then
    raiseIf (s.bc.demandAge == 3) .linkLoss { s with bc := blendResult s }
  else s

/-- BLEND RUN (R59). -/
def execBlendRun (s : State) : Host.Outcome State Fault Refusal := done s (blendRun s)

/-- The run whose increment brings the demand age to 4 (R56). -/
def execLinkLoss (s : State) : Host.Outcome State Fault Refusal :=
  let t := blendRun s
  onOccasion (s.timersRunning && s.bc.demandAge == 3) s t

end Sys2Proof.Machine
end

