-- ==== Sys2Proof/Machine/Directory.lean ====
section
/-! DEFINITION. The record directory and the open record as SC and CU share them: extents, reclaiming
(R125), the opening's number (R144), truncation (R133, R135), the closing of a record (R134, R151), and
the erase-ahead examination with the store-full state (R147, R148). -/

namespace Sys2Proof.Machine

/-- `s` with SC's state changed. -/
def withSc (f : StoreController → StoreController) (s : State) : State := { s with sc := f s.sc }

/-- `s` with CU's state changed. -/
def withCu (f : CaptureUnit → CaptureUnit) (s : State) : State := { s with cu := f s.cu }

/-! ## The capture ring -/

/-- The frame index of an undrained frame. -/
def undrainedIndex (f : RingFrame) : Option Nat :=
  match f.standing with
  | .undrained i => some i
  | _ => none

/-- The undrained frames of the open record, in index order, with their indices (R129). -/
def undrained (cu : CaptureUnit) : List (Nat × Frame) :=
  cu.ring.reverse.filterMap (fun f => (undrainedIndex f).map (fun i => (i, f.frame)))

/-- How many frames are undrained (R129). -/
def undrainedCount (cu : CaptureUnit) : Nat := (undrained cu).length

/-- The frames of a programmed section become drained (R130). -/
def drainFrame (indices : List Nat) (f : RingFrame) : RingFrame :=
  match f.standing with
  | .undrained i => if indices.contains i then { f with standing := .drained i } else f
  | _ => f

/-- Undrained frames not in `keep` leave the record and become free (R133, R135). -/
def releaseFrame (keep : List Nat) (f : RingFrame) : RingFrame :=
  match f.standing with
  | .undrained i => if keep.contains i then f else { f with standing := .free }
  | _ => f

/-- Every frame of a closed record is free. -/
def freeFrame (f : RingFrame) : RingFrame := { f with standing := .free }

/-! ## Directory entries -/

/-- The FILLING entry: the open record's (R143). -/
def fillingEntry (sc : StoreController) : Option DirEntry :=
  sc.directory.find? (fun e => e.state == .filling)

/-- `f` applied to the FILLING entry. -/
def onFilling (f : DirEntry → DirEntry) (sc : StoreController) : StoreController :=
  { sc with directory := sc.directory.map (fun e => if e.state == .filling then f e else e) }

/-- The entry that carries a record number. -/
def entryOf (sc : StoreController) (number : Nat) : Option DirEntry :=
  sc.directory.find? (fun e => e.number == number)

/-- The offset of a logical section from a record's first section, modulo 2048 (R140). -/
def offsetOf (first logical : Nat) : Nat := (logical + 2048 - first % 2048) % 2048

/-- The logical section at an offset from a record's first section. -/
def sectionAt (first offset : Nat) : Nat := (first + offset) % 2048

/-- Whether a record has a section in a logical block (R147). -/
def hasSectionIn (block : Nat) (e : DirEntry) : Bool :=
  (List.range 16).any (fun slot => decide (offsetOf e.first (block * 16 + slot) < e.sectionCount))

/-- Whether a record may be dropped: RELEASED, or HELD with protect false (R125, R147). -/
def reclaimable (e : DirEntry) : Bool := e.state == .released || (e.state == .held && !e.protect)

/-- The records that pass a test are dropped whole; a pending release mark of a dropped record leaves its
list (R147, R149). -/
def dropRecords (p : DirEntry → Bool) (sc : StoreController) : StoreController :=
  { sc with
    directory := sc.directory.filter (fun e => !p e)
    pendingMarks := sc.pendingMarks.filter (fun n =>
      !(sc.directory.any (fun e => p e && e.number == n))) }

/-- The record R125 drops to make room: the oldest RELEASED, else the oldest unprotected HELD. -/
def victim (dir : List DirEntry) : Option DirEntry :=
  match dir.find? (fun e => e.state == .released) with
  | some e => some e
  | none => dir.find? (fun e => e.state == .held && !e.protect)

/-- Whether SC grants an opening (R125). -/
def grantsOpening (s : State) : Bool :=
  s.cx.mode != .startup && !s.sc.storeFull &&
  (decide (s.sc.directory.length < 32) || (victim s.sc.directory).isSome)

/-- A directory of 32 makes room by dropping one record (R125). -/
def makeRoom (sc : StoreController) : StoreController :=
  if sc.directory.length < 32 then sc
  else
    match victim sc.directory with
    | some v => dropRecords (fun e => e.number == v.number && e.sequence == v.sequence) sc
    | none => sc

/-- The number after `n`: 65535 is followed by 1 (R144). -/
def followNumber (n : Nat) : Nat := if 65535 ≤ n then 1 else n + 1

/-- The number an opening takes: `nextNumber`, numbers held by an entry passed over (R144). -/
def openingNumber (sc : StoreController) : Nat :=
  findFrom followNumber (fun n => !(sc.directory.any (fun e => e.number == n))) 32 sc.nextNumber

/-- SC's part of an opening that it grants (R144): room made, number and sequence assigned, the FILLING
entry appended at the writer's position. -/
def openEntry (protect : Bool) (sc : StoreController) : StoreController :=
  let sc := makeRoom sc
  let number := openingNumber sc
  { sc with
    directory := sc.directory ++
      [{ number := number, sequence := sc.nextSequence, state := .filling, protect := protect
         first := sc.position, sectionCount := 0, frameCount := 0, endReason := none, trailer := none }]
    nextNumber := followNumber number
    nextSequence := sc.nextSequence + 1 }

/-! ## Truncation and closing -/

/-- Frames the directory counts as programmed for the open record. -/
def programmedFrames (sc : StoreController) : Nat :=
  match fillingEntry sc with
  | some e => e.frameCount
  | none => 0

/-- The open record is truncated (R133, R135): undrained frames outside `keep` leave it, the capture count
becomes the frames programmed or in `keep` plus the lost count, and it is CLOSING with the given reason. -/
def truncateOpen (reason : EndReason) (keep : List Nat) (s : State) : State :=
  match s.cu.opened with
  | none => s
  | some r =>
    withCu (fun cu =>
      { cu with
        ring := cu.ring.map (releaseFrame keep)
        opened := some { r with
          phase := .closing
          captureCount := programmedFrames s.sc + keep.length + r.lostCount
          endReason := some reason } }) s

/-- CU's open record becomes absent (R134); its frames are free. -/
def dropOpen (cu : CaptureUnit) : CaptureUnit :=
  { cu with opened := none, ring := cu.ring.map freeFrame }

/-- SC closes the open record without a TRAILER (R151): its entry becomes HELD with the record's end
reason and no TRAILER section, and RECORD_CLOSED is not raised (R134). In the closing steps of RESTART that reason stays
the record's, TRUNCATED_RESTART by R135, and not the TRUNCATED_STORE_FULL of R151: the model's choice (DESIGN CHOICE,
assumption log 65). -/
def closeWithoutTrailer (s : State) : State :=
  match s.cu.opened with
  | none => s
  | some r =>
    withCu dropOpen <| withSc (onFilling (fun e =>
      { e with state := .held, protect := r.protect, endReason := r.endReason, trailer := none })) s

/-- The open record is closed TRUNCATED_STORE_FULL; where no section can be programmed it keeps no TRAILER
(R148, R151). -/
def truncateStoreFull (s : State) : State :=
  let t := truncateOpen .truncatedStoreFull [] s
  if t.sc.seat = .normal then t else closeWithoutTrailer t

/-- The store-full state begins (R148): at its onset STORE_FULL is raised and the open record closed
TRUNCATED_STORE_FULL, a record that RESTART has truncated among them (R160; assumption log 42). -/
def beginStoreFull (s : State) : State :=
  if s.sc.storeFull then s
  else truncateStoreFull (raise .storeFull (withSc (fun sc => { sc with storeFull := true }) s))

/-! ## Erase-ahead -/

/-- The logical block that holds a logical section. -/
def blockOf (logical : Nat) : Nat := logical / 16

/-- The logical block after another on the ring (R140). -/
def nextBlock (block : Nat) : Nat := (block + 1) % 128

/-- The logical block whose erase is the writer's: the ahead block, or the block at whose slot 0 the
position stands while that block is not erased (R140, R147, R159; assumption log 54). -/
def eraseTarget (sc : StoreController) : Nat :=
  if sc.seat = .unerased then blockOf sc.position else nextBlock (blockOf sc.position)

/-- The physical block of a logical block; 136, which no block has, where the map gives none. -/
def physicalBlock (m : BlockMap) (logical : Nat) : Nat := m.phys.getD logical 136

/-- The map with a physical block's state set. -/
def setBlockState (b : Nat) (st : BlockState) (m : BlockMap) : BlockMap :=
  { m with states := m.states.set b st }

/-- A relocation is abandoned (R155): its target returns to SPARE, one that has failed and awaits its RETIRED among
them (assumption log 55), and the result of its operation in progress is discarded. -/
def abandonRelocation (sc : StoreController) : StoreController :=
  match sc.relocation with
  | none => sc
  | some r =>
    { sc with
      relocation := none
      map := setBlockState r.target .spare sc.map
      port := sc.port.map (fun p => if p.agent = .relocator then { p with discard := true } else p) }

/-- The relocation of a physical block, if it is the one in progress, is abandoned. -/
def abandonRelocationOf (block : Nat) (sc : StoreController) : StoreController :=
  match sc.relocation with
  | some r => if r.block = block then abandonRelocation sc else sc
  | none => sc

/-- The examination of the block to be erased (R147): every record with a section in it dropped and the
erase permitted, or the store-full state begun where one of them is HELD and protected. A FILLING record is
not among them. -/
def examine (s : State) : State :=
  let block := eraseTarget s.sc
  let found := fun e => e.state != .filling && hasSectionIn block e
  let s := withSc (abandonRelocationOf (physicalBlock s.sc.map block)) s
  if (s.sc.directory.filter found).all reclaimable then
    withSc (fun sc => { dropRecords found sc with eraseAhead := .due true }) s
  else beginStoreFull (withSc (fun sc => { sc with eraseAhead := .due false }) s)

/-- The rebuild examines at moments of its own (R159); after it, and in the closing steps of RESTART, the
writer examines as its position enters a block (R147). -/
def examinesOnEntry (s : State) : Bool := s.cx.rebuildEnded || s.li.closing

/-- A block has been entered: an erase-ahead becomes due and its block is examined (R147). -/
def enterBlock (s : State) : State :=
  let t := withSc (fun sc => { sc with seat := .normal, eraseAhead := .due false }) s
  if examinesOnEntry s then examine t else t

/-- The position advances by one section (R140). Past slot 15 it enters the ahead block; where that block
is not erased the position waits at its slot 0, and a record still open then keeps no TRAILER if none can
come (R204); its end reason in the closing steps of RESTART is the model's choice (assumption log 65). -/
def advancePosition (s : State) : State :=
  let next := (s.sc.position + 1) % 2048
  let t := withSc (fun sc => { sc with position := next }) s
  if next % 16 ≠ 0 then t
  else if s.sc.eraseAhead = .done then enterBlock t
  else
    let t := withSc (fun sc => { sc with seat := .unerased }) t
    if s.sc.storeFull || s.li.closing then closeWithoutTrailer t else t

end Sys2Proof.Machine
end

