-- ==== Sys2Proof/Machine/Store.lean ====
section
/-! DEFINITION. SC's agents and the store port (Chapter 8): the writer's work and its recovery (R146 to
R151), the relocator (R152 to R155), the arbiter (R156), and the completion of each operation. -/

namespace Sys2Proof.Machine

/-! ## The writer's work -/

/-- The section of the open record that is ready to be programmed (R144, R129, R131): the HEADER while none
has been programmed at the record's first section; 8 undrained frames, or the last ones once CLOSING; the
TRAILER once CLOSING with none left. -/
def sectionReady (s : State) : Option SectionJob :=
  match s.cu.opened, fillingEntry s.sc with
  | some r, some e =>
    let waiting := undrained s.cu
    if e.sectionCount = 0 ∧ s.sc.position = e.first then some .header
    else if 8 ≤ waiting.length then some (.frames ((waiting.take 8).map (·.1)))
    else if r.phase = .closing then
      if waiting.isEmpty then some .trailer else some (.frames (waiting.map (·.1)))
    else none
  | _, _ => none

/-- The section the writer programs next, where its seat allows one (R146): the TRAILER the rebuild owes, or
a section of the open record. -/
def sectionDue (s : State) : Option SectionJob :=
  if s.sc.seat = .normal then
    if s.sc.rebuildTrailer.isSome then some .rebuildTrailer else sectionReady s
  else none

/-- The erase-ahead is due and permitted, and no RESTART keeps it from being performed (R146, R160). -/
def eraseReady (s : State) : Bool := s.sc.eraseAhead == .due true && !s.li.closing

/-- Whether the writer has work (R146). -/
def writerWaits (s : State) : Bool :=
  s.sc.recovery.isSome || eraseReady s || (sectionDue s).isSome || !s.sc.pendingMarks.isEmpty

/-- Whether the writer's request is urgent (R129, R146). -/
def writerUrgent (s : State) : Bool := writerWaits s && decide (384 < undrainedCount s.cu)

/-- The TRAILER contents CU hands over for the open record (R131, R133). -/
def trailerOf (r : OpenRecord) (first : Nat) : TrailerInfo where
  number := r.number
  first := first
  protect := r.protect
  frameCount := r.captureCount - r.lostCount
  lostCount := r.lostCount
  missed := r.missed
  extraTriggers := r.extraTriggers
  reason := r.endReason.getD .complete
  triggers := r.triggers

/-- The bytes of a TRAILER at a logical section (8.2.4). -/
def trailerSection (t : TrailerInfo) (logical : Nat) : List Byte :=
  sectionOf kindTrailer t.protect t.number (offsetOf t.first logical) logical 0 (trailerBody t)

/-- The bytes of a section job at a logical section (8.2), from the records as they stand at the grant. -/
def jobBytes (s : State) (job : SectionJob) (logical : Nat) : List Byte :=
  match job with
  | .rebuildTrailer => (s.sc.rebuildTrailer.map (fun t => trailerSection t logical)).getD []
  | _ =>
    match s.cu.opened, fillingEntry s.sc with
    | some r, some e =>
      let index := offsetOf e.first logical
      match job with
      | .header => sectionOf kindHeader r.protect r.number index logical 0 (headerBody e.sequence r)
      | .frames indices =>
        let frames := (undrained s.cu).filter (fun f => indices.contains f.1)
        sectionOf kindFrame r.protect r.number index logical frames.length
          (frames.flatMap (fun f => framePlace f.2 f.1))
      | _ => trailerSection (trailerOf r e.first) logical
    | _, _ => []

/-- The program of a section job at the writer's position. -/
def programOp (s : State) (job : SectionJob) : StoreOp :=
  let at_ := s.sc.position
  .program job at_ (physicalBlock s.sc.map (blockOf at_) * 16 + at_ % 16) (jobBytes s job at_)

/-- Whether the relocation in progress has already copied a slot of its block (R149). -/
def alreadyCopied (r : Relocation) (slot : Nat) : Bool :=
  match r.step with
  | .copy next => decide (slot < next)
  | .switch => true
  | _ => false

/-- The physical sections a release mark is written to (R149): the TRAILER's, and its copy where the
relocator has made one. -/
def markSections (sc : StoreController) (number : Nat) : List Nat :=
  match (entryOf sc number).bind (·.trailer) with
  | none => []
  | some t =>
    let block := physicalBlock sc.map (blockOf t)
    (block * 16 + t % 16) ::
      (match sc.relocation with
        | some r => if r.block = block ∧ alreadyCopied r (t % 16) then [r.target * 16 + t % 16] else []
        | none => [])

/-- The next operation of a writer recovery (R150). -/
def recoveryOp (s : State) (r : Recovery) : StoreOp :=
  match r.step with
  | .erase => .erase r.target
  | .copy slot => .copy (r.failed * 16 + slot) (r.target * 16 + slot)
  | .map => .mapWrite (.replace r.logical r.failed r.target)
  | .retire => .mapWrite (.retire r.target)
  | .reprogram => programOp s (r.job.getD .trailer)

/-- The writer's next operation, from the first kind of work that has one to do (R146). -/
def writerOp (s : State) : Option StoreOp :=
  match s.sc.recovery with
  | some r => some (recoveryOp s r)
  | none =>
    if eraseReady s then some (.erase (physicalBlock s.sc.map (eraseTarget s.sc)))
    else
      match sectionDue s with
      | some job => some (programOp s job)
      | none => s.sc.pendingMarks.head?.map (fun n => .mark n (markSections s.sc n))

/-! ## The relocator and the reader at the port -/

/-- The logical block a physical block holds. -/
def logicalOf (m : BlockMap) (block : Nat) : Nat := m.phys.findIdx (· == block)

/-- The relocator's next operation (R154). -/
def relocatorOp (sc : StoreController) : Option StoreOp :=
  sc.relocation.map (fun r =>
    match r.step with
    | .erase => .erase r.target
    | .copy slot => .copy (r.block * 16 + slot) (r.target * 16 + slot)
    | .switch => .mapWrite (.replace (logicalOf sc.map r.block) r.block r.target)
    | .retire => .mapWrite (.retire r.target))

/-- The reader's next operation (R165), through the map in force. -/
def readerOp (sc : StoreController) : Option StoreOp :=
  (sc.readOut.bind (·.asking)).map (fun logical =>
    .read logical (physicalBlock sc.map (blockOf logical) * 16 + logical % 16))

/-! ## The arbiter -/

/-- The operation an agent asks the port for. -/
def requestOf (s : State) : Agent → Option StoreOp
  | .writer => writerOp s
  | .relocator => relocatorOp s.sc
  | .reader => readerOp s.sc

/-- The agent after another in the cyclic order (R156). -/
def nextAgent : Agent → Agent
  | .writer => .relocator
  | .relocator => .reader
  | .reader => .writer

/-- The agent the arbiter grants (R156), where one waits: an urgent writer also ahead of a reader whose section was
tested before its record was dropped (R169; assumption log 52). -/
def chosenAgent (s : State) : Option Agent :=
  let waits := fun a => (requestOf s a).isSome
  let n1 := nextAgent s.sc.lastGranted
  let n2 := nextAgent n1
  let n3 := nextAgent n2
  if writerUrgent s then some .writer
  else if waits n1 then some n1
  else if waits n2 then some n2
  else if waits n3 then some n3
  else none

/-- The physical blocks an operation acts on. -/
def opBlocks : StoreOp → List Nat
  | .erase b => [b]
  | .program _ _ p _ => [p / 16]
  | .mark _ ps => ps.map (· / 16)
  | .read _ p => [p / 16]
  | .copy a b => [a / 16, b / 16]
  | .mapWrite _ => []

/-- Whether the arbiter may decide a grant: the port is free, and the rebuild, which holds the port
throughout, has ended (R156, R157). -/
def portOpen (s : State) : Bool := s.sc.port.isNone && (s.cx.rebuildEnded || s.li.closing)

/-- STORE GRANT (R156). An operation on a block that does not exist faults (R138). -/
def execStoreGrant (s : State) : Host.Outcome State Fault Refusal :=
  if !s.powered || !portOpen s then .next s
  else
    match chosenAgent s with
    | none => .next s
    | some a =>
      match requestOf s a with
      | none => .next s
      | some op =>
        match (opBlocks op).find? (fun b => decide (136 ≤ b)) with
        | some b => .fault (.noSuchBlock b)
        | none =>
          .next (withSc (fun sc => { sc with port := some ⟨a, op, false⟩, lastGranted := a }) s)

/-! ## Spares -/

/-- The lowest-numbered SPARE block (R150, R153). -/
def lowestSpare (m : BlockMap) : Option Nat :=
  (List.range 136).find? (fun b => m.states[b]? == some .spare)

/-- How many blocks are SPARE (R189). -/
def spareCount (m : BlockMap) : Nat := m.states.count .spare

/-- The block the writer's recovery takes as its target (R150): the lowest SPARE, or else the relocator's
TARGET, whose relocation is then abandoned and its entry discarded, also where that target has failed and
awaits its RETIRED (assumption log 40). -/
def takeTarget (sc : StoreController) : Option (Nat × StoreController) :=
  match lowestSpare sc.map with
  | some b => some (b, { sc with map := setBlockState b .target sc.map })
  | none => sc.relocation.map (fun r => (r.target, { sc with relocation := none }))

/-! ## Completions of the writer -/

/-- The port is free again. -/
def freePort (s : State) : State := withSc (fun sc => { sc with port := none }) s

/-- A section of the open record has been programmed (R145): the entry, the frames drained, and at the
TRAILER the record closed (R134). -/
def sectionDone (job : SectionJob) (logical : Nat) (s : State) : State :=
  match job with
  | .header => withSc (onFilling (fun e => { e with sectionCount := offsetOf e.first logical + 1 })) s
  | .frames indices =>
    withCu (fun cu => { cu with ring := cu.ring.map (drainFrame indices) }) <|
      withSc (onFilling (fun e =>
        { e with
          sectionCount := offsetOf e.first logical + 1
          frameCount := e.frameCount + indices.length })) s
  | .trailer =>
    let reason := s.cu.opened.bind (·.endReason)
    raise .recordClosed <| withCu dropOpen <| withSc (onFilling (fun e =>
      { e with
        sectionCount := offsetOf e.first logical + 1, state := .held, endReason := reason
        trailer := some logical })) s
  | .rebuildTrailer =>
    match s.sc.rebuildTrailer with
    | none => s
    | some t =>
      withSc (fun sc =>
        { sc with
          rebuildTrailer := none
          directory := sc.directory.map (fun e =>
            if e.number == t.number then
              { e with sectionCount := offsetOf e.first logical + 1, trailer := some logical }
            else e) }) s

/-- Whether a section job belongs to the open record. -/
def ofOpenRecord : SectionJob → Bool
  | .rebuildTrailer => false
  | _ => true

/-- A program failure with no block to recover with (R151). Of a TRAILER that the rebuild owes, the ahead block counts
as not erased, whatever the scan found of it, and the TRAILER is given up (assumption log 56). -/
def wearOut (job : SectionJob) (s : State) : State :=
  let s := raise .storeWear (withSc (fun sc => { sc with recovery := none, rebuildTrailer := none }) s)
  if s.sc.eraseAhead = .done then
    let s := if ofOpenRecord job then truncateOpen .truncatedStoreFull [] s else s
    enterBlock (withSc (fun sc => { sc with position := nextBlock (blockOf sc.position) * 16 }) s)
  else
    let s := withSc (fun sc => { sc with seat := .abandoned }) s
    let s := if ofOpenRecord job then truncateStoreFull s else s
    examine (beginStoreFull s)

/-- An erase failure of the erase-ahead with no block to recover with (R151). -/
def eraseWornOut (s : State) : State :=
  beginStoreFull <| raise .storeWear <|
    withSc (fun sc => { sc with recovery := none, eraseAhead := .due false }) s

/-- A writer recovery begins, or begins again from its first step (R150); with no block for it, R151. -/
def beginRecovery (job : Option SectionJob) (logical slot failed : Nat) (s : State) : State :=
  match takeTarget s.sc with
  | some (target, sc) =>
    { s with sc := { sc with recovery := some ⟨job, logical, slot, failed, target, .erase⟩ } }
  | none =>
    match job with
    | some j => wearOut j s
    | none => eraseWornOut s

/-- The writer's program of a section completes with success (R145, R140). -/
def programDone (job : SectionJob) (logical : Nat) (s : State) : State :=
  advancePosition (sectionDone job logical (withSc (fun sc => { sc with recovery := none }) s))

/-- PROGRAM COMPLETE (R145, R150). -/
def programComplete (ok : Bool) (s : State) : State :=
  match s.sc.port with
  | some ⟨.writer, .program job logical phys bytes, _⟩ =>
    if ok then programDone job logical (freePort { s with medium := programSection s.medium phys bytes })
    else
      beginRecovery (some job) (blockOf logical) (logical % 16) (phys / 16)
        (withSc (fun sc => { sc with recovery := none })
          (freePort { s with medium := spoilSection s.medium phys }))
  | _ => s

/-- PROGRAM COMPLETE. -/
def execProgramComplete (ok : Bool) (s : State) : Host.Outcome State Fault Refusal :=
  done s (programComplete ok s)

/-- The store after a mark program (R138, R149): 00h in byte 510 of each section, or a byte the manual does
not determine where the program failed or was cut short. A second mark of a byte that an earlier one left reading HELD
does the same (assumption log 60). -/
def markStore (ok : Bool) (free : Nat) (m : Medium) : List Nat → Medium
  | [] => m
  | p :: ps => markStore ok (free + 1)
      (writeStoreByte m (p * sectionSize + 510) (if ok then 0 else Config.freeByte free)) ps

/-- MARK PROGRAM COMPLETE (R149): the record leaves the pending list; a failed mark is not repeated. -/
def markComplete (ok : Bool) (s : State) : State :=
  match s.sc.port with
  | some ⟨.writer, .mark number sections, _⟩ =>
    let t := freePort { s with
      medium := markStore ok s.freeCount s.medium sections
      freeCount := s.freeCount + sections.length }
    withSc (fun sc => { sc with pendingMarks := sc.pendingMarks.filter (fun n => !(n == number)) }) t
  | _ => s

/-- MARK PROGRAM COMPLETE. -/
def execMarkProgramComplete (ok : Bool) (s : State) : Host.Outcome State Fault Refusal :=
  done s (markComplete ok s)

/-- The block the writer was to erase is erased (R147, R148, R151): the store-full state ends; a position
that waited for the block stands at its slot 0, and the block beyond becomes due, but where the rebuild has erased that
one ahead already (R159, assumption log 54). -/
def eraseAheadDone (s : State) : State :=
  let t := withSc (fun sc => { sc with storeFull := false, recovery := none }) s
  match s.sc.seat with
  | .normal => withSc (fun sc => { sc with eraseAhead := .done }) t
  | .unerased =>
    if s.sc.aheadErased then
      withSc (fun sc => { sc with seat := .normal, eraseAhead := .done, aheadErased := false }) t
    else enterBlock t
  | .abandoned => enterBlock (withSc (fun sc => { sc with position := eraseTarget s.sc * 16 }) t)

/-- A physical block leaves the relocation queue, and a relocation of it is abandoned (R147, R152). -/
def forgetBlock (block : Nat) (sc : StoreController) : StoreController :=
  let sc := abandonRelocationOf block sc
  { sc with relocQueue := sc.relocQueue.filter (fun b => !(b == block)) }

/-- The step of a recovery after its target has been erased, or slot `slot - 1` copied (R150). -/
def copyOrMap (r : Recovery) (slot : Nat) : RecoveryStep :=
  if r.job.isSome ∧ slot < r.slot then .copy slot else .map

/-- The recovery goes on to a step. -/
def recoveryTo (r : Recovery) (step : RecoveryStep) (s : State) : State :=
  withSc (fun sc => { sc with recovery := some { r with step := step } }) s

/-- The relocation goes on to a step. -/
def relocationTo (r : Relocation) (step : RelocStep) (s : State) : State :=
  withSc (fun sc => { sc with relocation := some { r with step := step } }) s

/-- A writer's erase completes (R147, R150, R151). -/
def writerErased (ok : Bool) (block : Nat) (s : State) : State :=
  match s.sc.recovery with
  | some r => if ok then recoveryTo r (copyOrMap r 0) s else recoveryTo r .retire s
  | none =>
    if ok then eraseAheadDone (withSc (forgetBlock block) s)
    else beginRecovery none (eraseTarget s.sc) 0 block s

/-- A relocator's erase completes (R154). -/
def relocatorErased (ok : Bool) (s : State) : State :=
  match s.sc.relocation with
  | some r => if ok then relocationTo r (.copy 0) s else relocationTo r .retire s
  | none => s

/-- ERASE COMPLETE (R138, R147, R150, R154); the result of a discarded operation goes nowhere (R155). -/
def eraseComplete (ok : Bool) (s : State) : State :=
  match s.sc.port with
  | some ⟨agent, .erase block, discard⟩ =>
    let t := freePort { s with
      medium := if ok then eraseBlock s.medium block else spoilBlock s.medium block }
    if discard then t
    else match agent with
      | .writer => writerErased ok block t
      | .relocator => relocatorErased ok t
      | .reader => t
  | _ => s

/-- ERASE COMPLETE. -/
def execEraseComplete (ok : Bool) (s : State) : Host.Outcome State Fault Refusal :=
  done s (eraseComplete ok s)

/-! ## Copies -/

/-- Contents read UNCORRECTABLE as the copy programs them (R154): undetermined, but such that the checkword
test fails. -/
def damaged (bs : List Byte) : List Byte :=
  if checkwordPasses bs then bs.take 508 ++ [bs.getD 508 0 ^^^ 1] ++ bs.drop 509 else bs

/-- What a copy programs of a section read UNCORRECTABLE (R154): the fields before the body (bytes 0 to 9) as
they stand where they are determined, so that a later read stops at the checkword and not before (R168); the
rest undetermined, with a checkword that fails (assumption log 26). -/
def damagedCopy (m : Medium) (src : Nat) (bs : List Byte) : List Byte :=
  damaged (if m.unknown.contains src then bs else (sectionBytes m src).take 10 ++ bs.drop 10)

/-- A section that reads erased: CLEAN with every byte FFh (R138). -/
def readsErased (o : MediumOutcome) (bs : List Byte) : Bool := o == .clean && bs.all (· == erasedByte)

/-- The store after a spare byte is copied (R138): a byte that read FFh is left erased. -/
def copySpare (bs : List Byte) (dst i : Nat) (m : Medium) : Medium :=
  if bs.getD i erasedByte = erasedByte then m
  else writeStoreByte m (dst * sectionSize + i) (bs.getD i erasedByte)

/-- The store after a copy from `src` that succeeds (R138, R154). -/
def copySection (o : MediumOutcome) (bs : List Byte) (src dst : Nat) (m : Medium) : Medium :=
  if readsErased o bs then m
  else
    copySpare bs dst 511 (copySpare bs dst 510
      (programSection m dst (if o = .uncorrectable then damagedCopy m src bs else bs)))

/-- A copy of the writer's recovery completes (R150). -/
def writerCopied (ok : Bool) (s : State) : State :=
  match s.sc.recovery with
  | some r =>
    if ok then
      match r.step with
      | .copy slot => recoveryTo r (copyOrMap r (slot + 1)) s
      | _ => s
    else recoveryTo r .retire s
  | none => s

/-- A copy of the relocator completes (R154). -/
def relocatorCopied (ok : Bool) (s : State) : State :=
  match s.sc.relocation with
  | some r =>
    if ok then
      match r.step with
      | .copy slot => relocationTo r (if slot < 15 then .copy (slot + 1) else .switch) s
      | _ => s
    else relocationTo r .retire s
  | none => s

/-- COPY COMPLETE (R138, R150, R154): `outcome` is the medium's of the read, `ok` its report of the
programs. Of a section that reads erased nothing is programmed, so that no program of it can fail. -/
def copyComplete (outcome : MediumOutcome) (ok : Bool) (s : State) : State :=
  match s.sc.port with
  | some ⟨agent, .copy src dst, discard⟩ =>
    let o := readOutcome s.medium src outcome
    let bs := readSection s.medium s.freeCount src o
    let ok := ok || readsErased o bs
    let t := freePort { s with
      medium := if ok then copySection o bs src dst s.medium else spoilSection s.medium dst
      freeCount := s.freeCount + sectionSize }
    if discard then t
    else match agent with
      | .writer => writerCopied ok t
      | .relocator => relocatorCopied ok t
      | .reader => t
  | _ => s

/-- COPY COMPLETE. -/
def execCopyComplete (outcome : MediumOutcome) (ok : Bool) (s : State) :
    Host.Outcome State Fault Refusal :=
  done s (copyComplete outcome ok s)

/-! ## Map writes -/

/-- The map with a change made (R139, R150, R154). A replacement puts its own target on the logical block whatever
holds it, also where the relocator's switch came first, whose target then stays MAPPED to none (assumption
log 62). -/
def changeMap (c : MapChange) (m : BlockMap) : BlockMap :=
  match c with
  | .initial => initialMap
  | .replace logical old target =>
    setBlockState target .mapped (setBlockState old .retired { m with phys := m.phys.set logical target })
  | .retire block => setBlockState block .retired m

/-- The map as it is written to a copy: TARGET as SPARE (R139). -/
def mapForCopy (m : BlockMap) : BlockMap :=
  { m with states := m.states.map (fun st => if st = .target then .spare else st) }

/-- The copy a map write goes to (R139): the one whose write failed, to be repeated, or else the one that does
not hold the newest valid map. Where the relocation of a failed write has been abandoned, the next map write goes to
that copy too, whatever it changes (assumption log 50). -/
def mapSide (retry : Option MapSide) (m : Medium) : MapSide :=
  retry.getD (if newestIsSecond m || !m.copy1.valid then .first else .second)

/-- The generation one above the map that another copy holds; 1 where that copy is not valid (R139). -/
def generationAbove (c : MapCopy) : Word32 := if c.valid then c.generation + 1 else 1

/-- The map area with the whole map written into one copy, one generation above the other (R139); `valid`
says whether the written copy's checkword then passes. -/
def writeMapCopy (map : BlockMap) (valid : Bool) (retry : Option MapSide) (m : Medium) : Medium :=
  match mapSide retry m with
  | .first => { m with copy1 := ⟨generationAbove m.copy2, mapForCopy map, valid⟩ }
  | .second => { m with copy2 := ⟨generationAbove m.copy1, mapForCopy map, valid⟩ }

/-- The writer's map write completes (R150). The block it retires leaves the relocation queue (R152), and a relocation
of it still in progress is abandoned (assumption log 61). -/
def writerMapped (c : MapChange) (s : State) : State :=
  match s.sc.recovery, c with
  | some r, .replace _ old _ =>
    let t := withSc (forgetBlock old) s
    match r.job with
    | some _ => recoveryTo r .reprogram t
    | none => eraseAheadDone t
  | some r, .retire _ => beginRecovery r.job r.logical r.slot r.failed s
  | _, _ => s

/-- A relocation begins on another spare, or is given up (R154). -/
def restartRelocation (block : Nat) (s : State) : State :=
  match lowestSpare s.sc.map with
  | some b => withSc (fun sc =>
      { sc with map := setBlockState b .target sc.map, relocation := some ⟨block, b, .erase⟩ }) s
  | none => raise .storeWear (withSc (fun sc => { sc with relocation := none }) s)

/-- The relocator's map write completes (R154). -/
def relocatorMapped (c : MapChange) (s : State) : State :=
  match s.sc.relocation, c with
  | some _, .replace _ _ _ => withSc (fun sc => { sc with relocation := none }) s
  | some r, .retire _ => restartRelocation r.block s
  | _, _ => s

/-- MAP WRITE COMPLETE (R139): the change takes effect; a map write that fails is repeated as a new
operation, into the same copy, so that the other holds the previous map meanwhile. -/
def mapWriteComplete (ok : Bool) (s : State) : State :=
  match s.sc.port with
  | some ⟨agent, .mapWrite change, discard⟩ =>
    let map := changeMap change s.sc.map
    if ok then
      let t := withSc (fun sc => { sc with mapRetry := none })
        (freePort { s with medium := writeMapCopy map true s.sc.mapRetry s.medium })
      if discard then t
      else
        let t := withSc (fun sc => { sc with map := map }) t
        match agent with
        | .writer => writerMapped change t
        | .relocator => relocatorMapped change t
        | .reader => t
    else
      let t := withSc (fun sc => { sc with mapRetry := some (mapSide sc.mapRetry s.medium) }) { s with
        medium := writeMapCopy map (Config.freeBit s.freeCount) s.sc.mapRetry s.medium
        freeCount := s.freeCount + 1 }
      if change = .initial then t else freePort t
  | _ => s

/-- MAP WRITE COMPLETE. -/
def execMapWriteComplete (ok : Bool) (s : State) : Host.Outcome State Fault Refusal :=
  done s (mapWriteComplete ok s)

/-! ## Relocation -/

/-- A physical block joins the relocation queue (R152). -/
def queueBlock (block : Nat) (sc : StoreController) : StoreController :=
  let under := match sc.relocation with
    | some r => r.block == block
    | none => false
  if sc.relocQueue.contains block || under || decide (4 ≤ sc.relocQueue.length) then sc
  else { sc with relocQueue := sc.relocQueue ++ [block] }

/-- The oldest queue entry that is not the writer's current block (R153). -/
def eligibleEntry (sc : StoreController) : Option Nat :=
  sc.relocQueue.find? (fun b => !(b == physicalBlock sc.map (blockOf sc.position)))

/-- RELOCATION START (R153): the idle relocator takes the entry and reserves the lowest SPARE, or discards
the entry with STORE_WEAR. None starts after RESTART is accepted (assumption log 64). -/
def relocationStart (s : State) : State :=
  if s.cx.rebuildEnded && !s.li.closing && s.sc.relocation.isNone then
    match eligibleEntry s.sc with
    | none => s
    | some block =>
      restartRelocation block
        (withSc (fun sc => { sc with relocQueue := sc.relocQueue.filter (fun b => !(b == block)) }) s)
  else s

/-- RELOCATION START. -/
def execRelocationStart (s : State) : Host.Outcome State Fault Refusal := done s (relocationStart s)

end Sys2Proof.Machine
end

