-- ==== Sys2Proof/Machine/Capture.lean ====
section
/-! DEFINITION. CU (Chapter 7): the frame, the ring, the trigger table, the open record, and RECORD END. -/

namespace Sys2Proof.Machine

/-- The frame of an expiry (R118): every value from its owner as last left; `word` is its condition
word. An axle is in it by its speed alone, 0 where it is FAULTED, since 8.2.5 has no place for its sensor state (R9;
assumption log 58). -/
def frameNow (s : State) (word : Word32) : Frame where
  vRef := reportedRef s.am
  refValid := s.am.refValid
  period := s.cu.interval
  speeds := s.am.axles.map (·.speed)
  dbRequest := s.bc.trucks.map (·.dbRequest)
  achieved := (usedDemand s).groups.map (·.achieved)
  pCmd := s.co.trucks.map (·.pCmd.getD 0)
  measured := s.co.trucks.map (·.measured)
  corr := s.sp.trucks.map (·.state)
  cap := s.sp.trucks.map (·.cap)
  pipe := s.bpm.pressure
  handle := (usedDemand s).handle
  independent := (usedDemand s).independent
  conditions := word
  sandForward := s.sp.sandForward.state == .opened
  sandReverse := s.sp.sandReverse.state == .opened
  mode := s.cx.mode
  shortfall := s.bc.shortfall

/-- Frames the ring holds (R120). -/
def ringSize : Nat := 512

/-- Whether the frame just taken is dropped (R121). -/
def dropsFrame (ring : List RingFrame) : Bool :=
  decide (ringSize ≤ ring.length) && ((ring.getLast?.bind undrainedIndex).isSome)

/-- A frame joins the ring at its head (R120). -/
def joinRing (f : RingFrame) (ring : List RingFrame) : List RingFrame := f :: ring.take (ringSize - 1)

/-- The frame joins the ring, and the CAPTURING record where one is open, or is dropped (R120, R121,
R128). -/
def takeFrame (f : Frame) (cu : CaptureUnit) : CaptureUnit :=
  let drop := dropsFrame cu.ring
  match cu.opened with
  | some r =>
    if r.phase = .capturing then
      { cu with
        ring := if drop then cu.ring else joinRing ⟨f, .undrained r.nextIndex⟩ cu.ring
        opened := some { r with
          nextIndex := r.nextIndex + 1
          captureCount := r.captureCount + 1
          lostCount := if drop then r.lostCount + 1 else r.lostCount } }
    else { cu with ring := if drop then cu.ring else joinRing ⟨f, .free⟩ cu.ring }
  | none => { cu with ring := if drop then cu.ring else joinRing ⟨f, .free⟩ cu.ring }

/-- Whether an entry matches a condition word (R122). -/
def entryMatches (e : TriggerEntry) (word : Word32) : Bool := (word &&& e.mask) == e.value

/-- Whether an entry is a trigger on HOST_MARK: its value asks for that condition (R119). -/
def onHostMark (e : TriggerEntry) : Bool := e.value.getLsbD 17

/-- The previous match flags as the firing test reads them (R122). Each marked frame is an onset of its own (R119), so
that the flag of a trigger on HOST_MARK does not hold it back from the next marked frame, once it has been seen not to
match (R123; assumption log 59). -/
def heldBack (es : List TriggerEntry) (cu : CaptureUnit) : List Bool :=
  cu.prevMatch.mapIdx (fun i p => p && !((es[i]?.any onHostMark) && cu.armed.getD i false))

/-- Whether each entry has been seen not to match, after a frame: a disabled entry has not (R122, R123). -/
def armAfter (es : List TriggerEntry) (word : Word32) (armed : List Bool) : List Bool :=
  armed.mapIdx (fun i a => match es[i]? with
    | some e => e.enabled && (a || !entryMatches e word)
    | none => a)

/-- A missed incident (R126). -/
def missIncident (s : State) : State :=
  raise .incidentMissed (withCu (fun cu => { cu with missed := satInc 65535 cu.missed }) s)

/-- The ring at an opening (R124): the trigger frame at the head takes index `p`, the `p` frames before it
take `p - 1` down to 0, all undrained. -/
def takeIntoRecord (p : Nat) (ring : List RingFrame) : List RingFrame :=
  ring.mapIdx (fun j f => if j ≤ p then { f with standing := .undrained (p - j) } else f)

/-- The record formed at a granted opening (R124). -/
def newRecord (number p entry : Nat) (e : TriggerEntry) (word : Word32) (missed : Nat)
    (hostTime : Option Nat) : OpenRecord where
  number := number
  phase := .capturing
  nextIndex := p + 1
  endIndex := min (p + e.postCount) 1199
  captureCount := p + 1
  lostCount := 0
  preTaken := p
  protect := e.protect
  missed := missed
  openTime := hostTime
  triggers := [⟨entry, p, word⟩]
  extraTriggers := 0
  endReason := none

/-- A firing with no record open (R124 to R126). -/
def openRecord (entry : Nat) (e : TriggerEntry) (word : Word32) (s : State) : State :=
  if grantsOpening s then
    let p := min e.preCount (s.cu.ring.length - 1)
    let number := openingNumber (makeRoom s.sc)
    withCu (fun cu =>
      { cu with
        ring := takeIntoRecord p cu.ring
        opened := some (newRecord number p entry e word cu.missed (usedDemand s).hostTime)
        missed := 0 }) (withSc (openEntry e.protect) s)
  else missIncident s

/-- A firing while the record is CAPTURING (R127), `f` the present frame's index in it. -/
def joinRecord (entry f : Nat) (e : TriggerEntry) (word : Word32) (r : OpenRecord) : OpenRecord :=
  { r with
    triggers := if r.triggers.length < 8 then r.triggers ++ [⟨entry, f, word⟩] else r.triggers
    extraTriggers := if r.triggers.length < 8 then r.extraTriggers else satInc 65535 r.extraTriggers
    endIndex := max r.endIndex (min (f + e.postCount) 1199)
    protect := r.protect || e.protect }

/-- A firing (R122): R124 with no record open, R127 while CAPTURING, R132 while CLOSING. -/
def fireEntry (entry : Nat) (e : TriggerEntry) (word : Word32) (s : State) : State :=
  match s.cu.opened with
  | none => openRecord entry e word s
  | some r =>
    match r.phase with
    | .capturing =>
      withSc (onFilling (fun d => { d with protect := d.protect || e.protect })) <|
        withCu (fun cu => { cu with opened := some (joinRecord entry (r.nextIndex - 1) e word r) }) s
    | .closing => missIncident s

/-- One entry's evaluation (R122): the state after it, and its previous match flag. -/
def evalEntry (entry : Nat) (e : TriggerEntry) (prev : Bool) (word : Word32) (s : State) : State × Bool :=
  if !e.enabled then (s, true)
  else
    let m := entryMatches e word
    (if m && !prev then fireEntry entry e word s else s, m)

/-- The evaluation of the table from entry number `entry` on, in order (R122). -/
def evalEntries (word : Word32) : Nat → List TriggerEntry → List Bool → State → State × List Bool
  | entry, e :: es, p :: ps, s =>
    let r := evalEntry entry e p word s
    let rest := evalEntries word (entry + 1) es ps r.1
    (rest.1, r.2 :: rest.2)
  | _, _, ps, s => (s, ps)

/-- The end test after the table's evaluation (R131). -/
def endRecord (cu : CaptureUnit) : CaptureUnit :=
  match cu.opened with
  | some r =>
    if r.phase = .capturing ∧ r.nextIndex = r.endIndex + 1 then
      { cu with opened := some { r with phase := .closing, endReason := some .complete } }
    else cu
  | none => cu

/-- Whether the capture timer can expire: it runs once the load has ended (R117), and no frame is taken
after RESTART is accepted (R135). -/
def capturesNow (s : State) : Bool := s.timersRunning && !s.li.closing

/-- One capture (R117 to R131): the frame with a pending mark consumed, the ring, the trigger table, the
end test; the interval that starts here has the parameter's length. -/
def capture (s : State) : State :=
  if capturesNow s then
    let word := conditionWord s s.cu.markPending
    let t := withCu (fun cu =>
      { takeFrame (frameNow s word) cu with
        markPending := false, interval := s.pm.params.capturePeriod }) s
    let r := evalEntries word 1 t.pm.params.triggers (heldBack t.pm.params.triggers t.cu) t
    withCu (fun cu => endRecord { cu with
      prevMatch := r.2, armed := armAfter t.pm.params.triggers word cu.armed }) r.1
  else s

/-- CAPTURE (R117). -/
def execCapture (s : State) : Host.Outcome State Fault Refusal := done s (capture s)

/-- Whether CU's open record is CLOSING. -/
def isClosing (cu : CaptureUnit) : Bool :=
  match cu.opened with
  | some r => r.phase == .closing
  | none => false

/-- The capture whose frame has the record's end index, so that the record enters CLOSING with COMPLETE
(R131). -/
def execRecordEnd (s : State) : Host.Outcome State Fault Refusal :=
  let t := capture s
  onOccasion (!isClosing s.cu && isClosing t.cu) s t

end Sys2Proof.Machine
end

