-- ==== Sys2Proof/Machine/Reader.lean ====
section
/-! DEFINITION. The incident read-out (Chapter 9): the reader's tests and checks, its replies, and the five
store commands. -/

namespace Sys2Proof.Machine

/-- `s` with the read-out replaced. -/
def withReadOut (r : Option ReadOut) (s : State) : State := withSc (fun sc => { sc with readOut := r }) s

/-- The directory entry of a read-out's record (R165): the entry with both its number and its opening
sequence. -/
def readOutEntry (sc : StoreController) (r : ReadOut) : Option DirEntry :=
  sc.directory.find? (fun e => e.number == r.number && e.sequence == r.sequence)

/-- The still-filling flag (R167). -/
def stillFilling (sc : StoreController) (r : ReadOut) : Bool :=
  match readOutEntry sc r with
  | some e => e.state == .filling
  | none => false

/-- A section's place in a READ INCIDENT reply (10.8). -/
def gatheredPlace (g : Gathered) : List Byte := flagByte g.corrected ++ g.bytes

/-- The body of a READ INCIDENT reply (R167, 10.8). -/
def readBody (s : State) (st : Status) (r : ReadOut) : List Byte :=
  [statusCode st] ++ le16 r.number ++ le16 r.nextIndex ++ le16 r.remaining ++
  flagByte (stillFilling s.sc r) ++ le8 r.gathered.length ++ r.gathered.flatMap gatheredPlace

/-- The count not verified (R171). -/
def notVerified (r : ReadOut) : Nat :=
  if r.whole then (match r.firstFailing with
    | some i => r.limitSeen - i
    | none => 0)
  else r.remaining

/-- The body of a VERIFY INCIDENT reply (R171, 10.8); an absent first failing index is sent as 0000h
(assumption log 44). -/
def verifyBody (s : State) (st : Status) (r : ReadOut) : List Byte :=
  [statusCode st] ++ le16 r.number ++ le16 r.verified ++ flagByte r.firstFailing.isSome ++
  le16 (r.firstFailing.getD 0) ++ le16 (notVerified r) ++ le16 r.corrected ++
  flagByte (stillFilling s.sc r)

/-- Kind of READ INCIDENT (10.8). -/
def kindRead : Byte := 0x0F
/-- Kind of VERIFY INCIDENT (10.8). -/
def kindVerify : Byte := 0x10

/-- The read-out ends (R167, R171): its final reply is placed with the status of its end, it becomes absent,
and its command's execution ends. -/
def endReadOut (st : Status) (r : ReadOut) (s : State) : State :=
  let reply : Reply := match r.kind with
    | .read => ⟨replyKind kindRead, r.tag, readBody s st r, .plain⟩
    | .verify => ⟨replyKind kindVerify, r.tag, verifyBody s st r, .plain⟩
  withReadOut none (finishCommand reply s)

/-- A VERIFY ends OK (R171): its first failing index is absent. -/
def endVerify (r : ReadOut) (s : State) : State := endReadOut .ok { r with firstFailing := none } s

/-- A check stops the read-out (R165, R166): for a verify, at its first failing index (R171). -/
def stopReadOut (st : Status) (r : ReadOut) (s : State) : State :=
  endReadOut st (if r.kind = .verify then { r with firstFailing := some r.nextIndex } else r) s

/-- The reader turns to the section at the next index (R165): the directory test, the limit test, and the
request for the port. The limit ends a whole-record verify that has verified a section (R170). A section whose request
waits as its record is dropped is not tested again (R169; assumption log 52). -/
def turnReader (r : ReadOut) (s : State) : State :=
  match readOutEntry s.sc r with
  | none => stopReadOut .recordGone r s
  | some e =>
    let r := { r with limitSeen := e.sectionCount }
    if e.sectionCount ≤ r.nextIndex then
      if r.kind = .verify ∧ r.whole ∧ 0 < r.verified then endVerify r s
      else stopReadOut .addressOverflow r s
    else withReadOut (some { r with asking := some (sectionAt e.first r.nextIndex) }) s

/-- The checks of a completed read (R166), in their order; `none` where all pass. The order holds for a section
of another record too: read UNCORRECTABLE it stops so (assumption log 43). -/
def checkSection (r : ReadOut) (logical : Nat) (o : MediumOutcome) (bs : List Byte) : Option Status :=
  if o = .uncorrectable then some .uncorrectable
  else if ¬(sectionNumber bs = r.number ∧ sectionIndex bs = r.nextIndex ∧ sectionAddr bs = logical) then
    some .addressMismatch
  else if checkwordPasses bs then none
  else some .uncorrectable

/-- A section gathered for a READ (R166). -/
def gatherSection (o : MediumOutcome) (bs : List Byte) (r : ReadOut) : ReadOut :=
  { r with
    gathered := r.gathered ++ [⟨o == .corrected, bs⟩]
    nextIndex := r.nextIndex + 1
    remaining := r.remaining - 1 }

/-- A section verified (R170). -/
def countSection (o : MediumOutcome) (r : ReadOut) : ReadOut :=
  { r with
    verified := r.verified + 1
    corrected := if o = .corrected then r.corrected + 1 else r.corrected
    nextIndex := r.nextIndex + 1
    remaining := r.remaining - 1 }

/-- A READ goes on after a section has been gathered (R167). -/
def afterGather (r : ReadOut) (s : State) : State :=
  if r.remaining = 0 then endReadOut .ok r s
  else if r.burst ≤ r.gathered.length then
    placeReply ⟨replyKind kindRead, r.tag, readBody s .ok r, .readPart⟩
      (withReadOut (some { r with gathered := [], waiting := true }) s)
  else turnReader r s

/-- A VERIFY goes on after a section has passed (R170, R171). -/
def afterVerify (r : ReadOut) (s : State) : State :=
  if !r.whole && r.remaining == 0 then endVerify r s else turnReader r s

/-- READ COMPLETE (R166): the result of a read-out that RESTART ended is discarded (R175). -/
def readComplete (o : MediumOutcome) (s : State) : State :=
  match s.sc.port with
  | some ⟨.reader, .read logical phys, discard⟩ =>
    let o := readOutcome s.medium phys o
    let bs := readSection s.medium s.freeCount phys o
    let t := freePort { s with freeCount := s.freeCount + sectionSize }
    if discard then t
    else match s.sc.readOut with
      | none => t
      | some r =>
        let r := { r with asking := none }
        let t := if o = .corrected then withSc (queueBlock (phys / 16)) t else t
        match checkSection r logical o bs with
        | some st => stopReadOut st r t
        | none =>
          match r.kind with
          | .read => afterGather (gatherSection o bs r) t
          | .verify => afterVerify (countSection o r) t
  | _ => s

/-- READ COMPLETE. -/
def execReadComplete (outcome : MediumOutcome) (s : State) : Host.Outcome State Fault Refusal :=
  done s (readComplete outcome s)

/-- What LI's report of a READ INCIDENT reply sent in full does (R167): the reader turns to the next
section. -/
def readReplySent (s : State) : State :=
  match s.sc.readOut with
  | some r => if r.waiting then turnReader { r with waiting := false } s else s
  | none => s

/-! ## The store commands -/

/-- The mode check of a store command (R161). -/
def storeCommand (rule : Command → State → State) (c : Command) (s : State) : State :=
  if s.cx.mode = .startup then refuseCommand c .wrongMode s else rule c s

/-- The read-out READ INCIDENT forms (R164). -/
def newRead (c : Command) (e : DirEntry) (burst : Nat) : ReadOut where
  kind := .read
  tag := c.tag
  number := e.number
  sequence := e.sequence
  nextIndex := fieldAt c.body 2 2
  remaining := if fieldAt c.body 4 1 = 0 then 16 else fieldAt c.body 4 1
  whole := false
  limitSeen := 0
  gathered := []
  verified := 0
  corrected := 0
  firstFailing := none
  waiting := false
  burst := burst
  asking := none

/-- The read-out VERIFY INCIDENT forms (R170). -/
def newVerify (c : Command) (e : DirEntry) (burst : Nat) : ReadOut where
  kind := .verify
  tag := c.tag
  number := e.number
  sequence := e.sequence
  nextIndex := fieldAt c.body 2 2
  remaining := fieldAt c.body 4 2
  whole := fieldAt c.body 4 2 == 0
  limitSeen := 0
  gathered := []
  verified := 0
  corrected := 0
  firstFailing := none
  waiting := false
  burst := burst
  asking := none

/-- READ INCIDENT past its length and mode (R164, R161). The look-up and the first directory test are one moment
(assumption log 63). -/
def readIncident (c : Command) (s : State) : State :=
  if 16 < fieldAt c.body 4 1 then refuseCommand c .badValue s
  else
    match entryOf s.sc (fieldAt c.body 0 2) with
    | none => refuseCommand c .noRecord s
    | some e => turnReader (newRead c e s.sc.burst) s

/-- READ INCIDENT (R164). -/
def execReadIncident (s : State) : Host.Outcome State Fault Refusal :=
  done s (takeCommand 0x0F 5 (storeCommand readIncident) s)

/-- VERIFY INCIDENT past its length and mode (R170, R161), as READ INCIDENT in one moment with its first directory test
(assumption log 63). -/
def verifyIncident (c : Command) (s : State) : State :=
  if 2048 < fieldAt c.body 4 2 then refuseCommand c .badValue s
  else
    match entryOf s.sc (fieldAt c.body 0 2) with
    | none => refuseCommand c .noRecord s
    | some e => turnReader (newVerify c e s.sc.burst) s

/-- VERIFY INCIDENT (R170). -/
def execVerifyIncident (s : State) : Host.Outcome State Fault Refusal :=
  done s (takeCommand 0x10 6 (storeCommand verifyIncident) s)

/-- A HELD record becomes RELEASED, and joins the pending release mark list when it has a TRAILER (R149,
R172). -/
def releaseRecord (e : DirEntry) (sc : StoreController) : StoreController :=
  { sc with
    directory := sc.directory.map (fun d => if d.number == e.number then { d with state := .released } else d)
    pendingMarks :=
      if e.trailer.isSome && !sc.pendingMarks.contains e.number then sc.pendingMarks ++ [e.number]
      else sc.pendingMarks }

/-- What an accepted RELEASE INCIDENT does to the store-full state (R148): a fresh examination, unless the
erase is already permitted. -/
def reexamine (s : State) : State :=
  if s.sc.storeFull && s.sc.eraseAhead == .due false then examine s else s

/-- RELEASE INCIDENT past its length and mode (R172). -/
def releaseIncident (c : Command) (s : State) : State :=
  match entryOf s.sc (fieldAt c.body 0 2) with
  | none => refuseCommand c .noRecord s
  | some e =>
    match e.state with
    | .filling => refuseCommand c .recordFilling s
    | .held => reexamine (answerOk c (withSc (releaseRecord e) s))
    | .released => reexamine (answerOk c s)

/-- RELEASE INCIDENT (R172). -/
def execReleaseIncident (s : State) : Host.Outcome State Fault Refusal :=
  done s (takeCommand 0x11 2 (storeCommand releaseIncident) s)

/-- An entry of the LIST INCIDENTS reply (R162, 10.8). -/
def listPlace (e : DirEntry) : List Byte :=
  le16 e.number ++ le32 e.sequence.toNat ++ le8 (recordCode e.state) ++ flagByte e.protect ++
  le16 e.first ++ le8 e.sectionCount ++ le16 e.frameCount ++
  le8 (match e.endReason with
    | some r => endCode r
    | none => 0)

/-- The body of the LIST INCIDENTS reply (R162). -/
def listBody (sc : StoreController) : List Byte :=
  [statusCode .ok] ++ le8 sc.directory.length ++ sc.directory.flatMap listPlace

/-- LIST INCIDENTS past its length and mode (R162). -/
def listIncidents (c : Command) (s : State) : State := answerWith c (listBody s.sc) s

/-- LIST INCIDENTS (R162). -/
def execListIncidents (s : State) : Host.Outcome State Fault Refusal :=
  done s (takeCommand 0x0E 0 (storeCommand listIncidents) s)

/-- SET READ BURST (R163): 1, 2 or 4 becomes the burst; another value is refused and the burst becomes 1. -/
def setReadBurst (c : Command) (s : State) : State :=
  let v := fieldAt c.body 0 1
  if v = 1 ∨ v = 2 ∨ v = 4 then answerOk c (withSc (fun sc => { sc with burst := v }) s)
  else refuseCommand c .badValue (withSc (fun sc => { sc with burst := 1 }) s)

/-- SET READ BURST. -/
def execSetReadBurst (s : State) : Host.Outcome State Fault Refusal :=
  done s (takeCommand 0x12 1 setReadBurst s)

end Sys2Proof.Machine
end

