-- ==== Sys2Proof/Machine/Modes.lean ====
section
/-! DEFINITION. The effects of each change of part mode on the blocks' records (R196), by R16, R34,
R42, R84 and R112. -/

namespace Sys2Proof.Machine

/-- AM's table on entry to SETUP: FAULTED axles cleared (R16). -/
def clearFaultedAxles (axles : PerAxle SpeedFields) : PerAxle SpeedFields :=
  axles.map (fun x => if x.sensor = .faulted then clearedFields else x)

/-- The slide fields of an axle on entry to SETUP: those of an axle whose FAULTED state is cleared are as
after reset (R42). -/
def clearSlide (x : SpeedFields) (y : SlideFields) : SlideFields :=
  if x.sensor = .faulted then { resetSlideFields with wasFaulted := y.wasFaulted } else y

/-- SP on entry to SETUP (R42). -/
def setupSlideUnit (p : SlideParams) (axles : PerAxle SpeedFields) (u : SlideUnit) : SlideUnit :=
  { u with
    axles := PerAxle.ofFn (fun i => clearSlide (axles.get i) (u.axles.get i))
    trucks := .both (resetTruckRecord p)
    sandForward := resetSandValve
    sandReverse := resetSandValve }

/-- CO on entry to SETUP (R196): air-fault latches, deviation timers and the moved-in-setup latch clear. -/
def setupCylinderOutput (c : CylinderOutput) : CylinderOutput where
  trucks := c.trucks.map (fun o => { o with deviation := 0, airFault := false })
  movedInSetup := false

/-- Entry to SETUP (R193, R194, R196). -/
def enterSetup (s : State) : State :=
  { s with
    am := { s.am with axles := clearFaultedAxles s.am.axles }
    sp := setupSlideUnit s.pm.params.slide s.am.axles s.sp
    co := setupCylinderOutput s.co
    cx := { s.cx with mode := .setup } }

/-- SP on entry to RUN (R34, R196): each protected truck's cap at the nominal cap. -/
def runSlideUnit (p : SlideParams) (u : SlideUnit) : SlideUnit :=
  { u with trucks := u.trucks.map (fun t => if t.isProtected then { t with cap := p.nominalCap } else t) }

/-- Entry to RUN (R195, R196, R112, R34): the next blend run is the first in RUN (R84). -/
def enterRun (s : State) : State :=
  { s with
    sp := runSlideUnit s.pm.params.slide s.sp
    bc := { s.bc with freshRun := true }
    co := { s.co with movedInSetup := false }
    cx := { s.cx with mode := .run } }

end Sys2Proof.Machine
end

