-- ==== Sys2Proof/Machine/Rebuild.lean ====
section
/-! DEFINITION. The start-up rebuild (R157 to R159), which REBUILD END completes: the scan of the store,
the candidate records, the directory, the writer's position, and the operations that end it. -/

namespace Sys2Proof.Machine

/-- What the scan finds of a section that is not erased (R157): a usable section's bytes, or a section
neither usable nor erased. -/
inductive Found where
  | usable (bytes : List Byte)
  | other
  deriving DecidableEq, Repr

/-- A section's standing by R157; `none` for an erased section. -/
def standingOf (logical : Nat) (o : MediumOutcome) (bs : List Byte) : Option Found :=
  if sectionKind bs = 0xFF ∧ o = .clean then none
  else if o ≠ .uncorrectable ∧ 1 ≤ sectionKind bs ∧ sectionKind bs ≤ 3 ∧ sectionAddr bs = logical ∧
      checkwordPasses bs then
    some (.usable bs)
  else some .other

/-- The medium outcome of the rebuild's read of a logical section: as the command gives it, CLEAN where it
names none. -/
def outcomeAt (reads : List (Nat × MediumOutcome)) (logical : Nat) : MediumOutcome :=
  match reads.find? (fun r => r.1 == logical) with
  | some r => r.2
  | none => .clean

/-- The physical section of a logical one, through the map in force (R140). -/
def physicalSection (m : BlockMap) (logical : Nat) : Nat :=
  physicalBlock m (blockOf logical) * 16 + logical % 16

/-- What the rebuild's reads find, in address order: the sections that are not erased (R157). -/
def scanStore (reads : List (Nat × MediumOutcome)) (s : State) : List (Nat × Found) :=
  (List.range 2048).filterMap (fun a =>
    let phys := physicalSection s.sc.map a
    let o := readOutcome s.medium phys (outcomeAt reads a)
    (standingOf a o (readSection s.medium (s.freeCount + a * sectionSize) phys o)).map (fun f => (a, f)))

/-- What the scan found at a logical section; `none` for an erased one. -/
def foundAt (scan : List (Nat × Found)) (logical : Nat) : Option Found :=
  (scan.find? (fun f => f.1 == logical)).map (·.2)

/-- The sections read CORRECTED, whose blocks join the relocation queue (R152, R157). An erased section is
not among them: it reads CLEAN (R138). -/
def weakSections (reads : List (Nat × MediumOutcome)) (scan : List (Nat × Found)) : List Nat :=
  (scan.map (·.1)).filter (fun a => outcomeAt reads a == .corrected)

/-! ## Candidates -/

/-- A member of a candidate record: its offset and bytes. -/
structure Member where
  offset : Nat
  bytes : List Byte
  deriving DecidableEq, Repr

/-- The walk from a HEADER (R158), from offset `k` on: the members found, in order. -/
def walkRecord (scan : List (Nat × Found)) (number first : Nat) : Nat → Nat → List Member
  | 0, _ => []
  | fuel + 1, k =>
    match foundAt scan (sectionAt first k) with
    | none => []
    | some .other => walkRecord scan number first fuel (k + 1)
    | some (.usable bs) =>
      if sectionNumber bs = number ∧ sectionIndex bs = k then
        if sectionKind bs = kindTrailer then [⟨k, bs⟩]
        else ⟨k, bs⟩ :: walkRecord scan number first fuel (k + 1)
      else []

/-- A candidate record (R158): its HEADER's bytes and its members, the HEADER first. -/
structure Candidate where
  number : Nat
  sequence : Word32
  first : Nat
  members : List Member
  deriving DecidableEq, Repr

/-- The candidate a usable HEADER begins (R158), whatever its own section index (assumption log 41). -/
def candidateAt (scan : List (Nat × Found)) (first : Nat) (bs : List Byte) : Candidate where
  number := sectionNumber bs
  sequence := .ofNat 32 (fieldAt bs 10 4)
  first := first
  members := ⟨0, bs⟩ :: walkRecord scan (sectionNumber bs) first 2047 1

/-- Every candidate the scan gives, in address order (R158). -/
def candidates (scan : List (Nat × Found)) : List Candidate :=
  scan.filterMap (fun f =>
    match f.2 with
    | .usable bs => if sectionKind bs = kindHeader then some (candidateAt scan f.1 bs) else none
    | .other => none)

/-- Sections of a candidate's extent: from the HEADER to the last member (R158). -/
def extentOf (c : Candidate) : Nat := (c.members.getLast?.map (·.offset + 1)).getD 1

/-- The last member, where it is a TRAILER. -/
def trailerMember (c : Candidate) : Option Member :=
  c.members.getLast?.bind (fun m => if sectionKind m.bytes = kindTrailer then some m else none)

/-- Whether two candidates cannot both stand: one number, or a section in both extents (R158). -/
def conflicting (a b : Candidate) : Bool :=
  a.number == b.number || decide (offsetOf a.first b.first < extentOf a) ||
  decide (offsetOf b.first a.first < extentOf b)

/-- Whether sequence `a` was opened after `b`, compared modulo 2^32 (assumption log 17). -/
def openedAfter (a b : Word32) : Bool := newerGeneration a b

/-- A candidate put into its place in a list held newest first. -/
def insertNewest (c : Candidate) : List Candidate → List Candidate
  | [] => [c]
  | d :: ds => if openedAfter d.sequence c.sequence then d :: insertNewest c ds else c :: d :: ds

/-- The candidates, newest first. -/
def newestFirst (cs : List Candidate) : List Candidate := cs.foldr insertNewest []

/-- The candidates that remain (R158): taken newest first, one that conflicts with a newer one already kept
is dropped. -/
def keepNewest (kept : List Candidate) : List Candidate → List Candidate
  | [] => kept
  | c :: cs => keepNewest (if kept.any (conflicting c) then kept else kept ++ [c]) cs

/-! ## Directory entries -/

/-- The highest frame index of a FRAME member, plus 1; 0 without frames (R158). -/
def indexBound (m : Member) : Nat :=
  if sectionKind m.bytes = kindFrame then
    ((List.range (min 8 (sectionFrames m.bytes))).map (fun j => fieldAt m.bytes (10 + 56 * j) 2 + 1)).foldl
      max 0
  else 0

/-- The frames a candidate without a TRAILER holds (R158). -/
def framesFound (c : Candidate) : Nat := (c.members.map (fun m => sectionFrames m.bytes)).foldl (· + ·) 0

/-- A record's protect flag: true when any member carries protect (R158). -/
def protectFound (c : Candidate) : Bool := c.members.any (fun m => sectionProtect m.bytes)

/-- The directory entry of a candidate (R158). -/
def entryFound (c : Candidate) : DirEntry :=
  match trailerMember c with
  | some m =>
    { number := c.number, sequence := c.sequence
      state := if markReleased m.bytes then .released else .held
      protect := protectFound c, first := c.first, sectionCount := extentOf c
      frameCount := fieldAt m.bytes 10 2, endReason := some (endOfCode (fieldAt m.bytes 18 1))
      trailer := some (sectionAt c.first m.offset) }
  | none =>
    { number := c.number, sequence := c.sequence, state := .held, protect := protectFound c
      first := c.first, sectionCount := extentOf c, frameCount := framesFound c
      endReason := some .truncatedPower, trailer := none }

/-- The TRAILER owed to a record found without one (R158, R159). -/
def owedTrailer (c : Candidate) : TrailerInfo :=
  let header := (c.members.headD ⟨0, []⟩).bytes
  { number := c.number, first := c.first, protect := protectFound c, frameCount := framesFound c
    lostCount := (c.members.map indexBound).foldl max 0 - framesFound c
    missed := fieldAt header 27 2, extraTriggers := 0, reason := .truncatedPower
    triggers := [⟨fieldAt header 19 1, fieldAt header 20 2, .ofNat 32 (fieldAt header 22 4)⟩] }

/-- The entry R158 drops from a directory of more than 32: the oldest RELEASED, then the oldest unprotected
HELD, then the oldest. -/
def surplusEntry (dir : List DirEntry) : Option DirEntry :=
  match victim dir with
  | some e => some e
  | none => dir.head?

/-- The directory brought down to 32 entries (R158). -/
def trimDirectory : Nat → List DirEntry → List DirEntry
  | 0, dir => dir
  | fuel + 1, dir =>
    if dir.length ≤ 32 then dir
    else
      match surplusEntry dir with
      | some e => trimDirectory fuel (dir.erase e)
      | none => dir

/-! ## The position and the steps that end the rebuild -/

/-- The slots of a position's block from the position on that are not erased, in order. -/
def usedSlots (scan : List (Nat × Found)) (a : Nat) : List Nat :=
  (List.range 16).filter (fun k => decide (a % 16 ≤ k) && (foundAt scan (a / 16 * 16 + k)).isSome)

/-- The position moved forward past each section of its block that is not erased (R159): to the section after the
last of them, so that every section from it to slot 15 is erased (R140). At slot 0 it stays, since R159 has that block
examined and erased (assumption log 57). -/
def skipUsed (scan : List (Nat × Found)) (a : Nat) : Nat :=
  if a % 16 = 0 then a
  else
    match (usedSlots scan a).getLast? with
    | none => a
    | some k => (a / 16 * 16 + k + 1) % 2048

/-- SC after R158 and the first part of R159, from the records that remain, newest first. -/
def placeWriter (scan : List (Nat × Found)) (kept : List Candidate) (sc : StoreController) :
    StoreController :=
  match kept with
  | [] =>
    { sc with
      directory := [], position := 0, seat := .unerased, eraseAhead := .due true, aheadErased := false
      nextNumber := 1, nextSequence := 0, rebuildTrailer := none }
  | newest :: _ =>
    let position := skipUsed scan (sectionAt newest.first (extentOf newest))
    { sc with
      directory := trimDirectory kept.length (kept.reverse.map entryFound)
      position := position
      seat := if position % 16 = 0 then .unerased else .normal
      eraseAhead := .due false
      aheadErased := false
      nextNumber := followNumber newest.number
      nextSequence := newest.sequence + 1
      rebuildTrailer := if (trailerMember newest).isSome then none else some (owedTrailer newest) }

/-- One operation of the writer during the rebuild, which holds the port throughout (R157), completed with
the medium's report: the outcome of a copy's read, and success. -/
def runOp (op : StoreOp) (report : MediumOutcome × Bool) (s : State) : State :=
  let s := withSc (fun sc => { sc with port := some ⟨.writer, op, false⟩ }) s
  match op with
  | .erase _ => eraseComplete report.2 s
  | .program _ _ _ _ => programComplete report.2 s
  | .mark _ _ => markComplete report.2 s
  | .read _ _ => freePort s
  | .copy _ _ => copyComplete report.1 report.2 s
  | .mapWrite _ => mapWriteComplete report.2 s

/-- The writer's work of the rebuild done to its end (R159), each operation with the next of the reports
given, and a CLEAN read and success after them. -/
def settle : Nat → List (MediumOutcome × Bool) → State → State × List (MediumOutcome × Bool)
  | 0, results, s => (s, results)
  | fuel + 1, results, s =>
    match writerOp s with
    | none => (s, results)
    | some op => settle fuel results.tail (runOp op (results.headD (.clean, true)) s)

/-- Operations that the rebuild's work can take with the reports given: each recovery takes at most 20
operations for every failure. -/
def settleFuel (results : List (MediumOutcome × Bool)) : Nat := 40 * (results.length + 3)

/-- The block at whose slot 0 the position stands is examined and erased (R159); where it may not be
erased the record owed a TRAILER keeps none. -/
def clearSeat (s : State × List (MediumOutcome × Bool)) : State × List (MediumOutcome × Bool) :=
  let t :=
    if s.1.sc.seat = .unerased ∧ s.1.sc.eraseAhead ≠ .due true ∧ !s.1.sc.storeFull then examine s.1 else s.1
  let r := settle (settleFuel s.2) s.2 t
  if r.1.sc.seat = .normal then r
  else (withSc (fun sc => { sc with rebuildTrailer := none }) r.1, r.2)

/-- An erase-ahead performed (R147): the examination, and where it permits the erase, that and its recovery. -/
def eraseAheadNow (s : State × List (MediumOutcome × Bool)) : State × List (MediumOutcome × Bool) :=
  settle (settleFuel s.2) s.2 (examine s.1)

/-- SC with its own block set aside, so that the erase-ahead is of the block after it. -/
def seatAside (sc : StoreController) : StoreController := { sc with seat := .normal }

/-- SC with the position waiting again for its own block, whose erase stays due and keeps the store-full state, and
with what has become of the block after it (assumption log 54). -/
def seatAwaits (sc : StoreController) : StoreController :=
  { sc with
    seat := .unerased, storeFull := true, eraseAhead := .due false, aheadErased := sc.eraseAhead == .done }

/-- The erase-ahead of the block after the current block (R159), also where the current block, at whose slot 0 the
position stands, could not be erased itself. -/
def eraseAheadStep (s : State × List (MediumOutcome × Bool)) : State × List (MediumOutcome × Bool) :=
  if s.1.sc.seat = .unerased then
    let r := eraseAheadNow (withSc seatAside s.1, s.2)
    (withSc seatAwaits r.1, r.2)
  else eraseAheadNow s

/-- The steps of R159: the position's block cleared where it must be, the TRAILER owed, the block cleared
again where the TRAILER took the last section of its block, and the erase-ahead. -/
def endSteps (results : List (MediumOutcome × Bool)) (s : State) : State :=
  (eraseAheadStep (clearSeat (clearSeat (s, results)))).1

/-- The rebuild (R157 to R159). -/
def rebuild (reads : List (Nat × MediumOutcome)) (results : List (MediumOutcome × Bool)) (s : State) : State :=
  let scan := scanStore reads s
  let s := { s with
    freeCount := s.freeCount + 2048 * sectionSize
    sc := (weakSections reads scan).foldl (fun sc a => queueBlock (physicalBlock sc.map (blockOf a)) sc) s.sc }
  let kept := keepNewest [] (newestFirst (candidates scan))
  endSteps results (withSc (placeWriter scan kept) s)

/-- SC reports the rebuild ended (R159); where the load has ended too the part enters SETUP (R193). -/
def rebuildEnded (s : State) : State :=
  let t := { s with cx := { s.cx with rebuildEnded := true } }
  if t.cx.loadEnded then enterSetup t else t

/-- Whether a rebuild is in progress: in STARTUP, the map loaded and no RESTART accepted. A rebuild that RESTART finds
still running is given up, and SC rebuilds after the reset (R203; assumption log 53). -/
def rebuilding (s : State) : Bool :=
  s.cx.mode == .startup && !s.cx.rebuildEnded && !s.li.closing && s.sc.port.isNone

/-- REBUILD END (R159). A map that names a block the store does not have faults (R138). -/
def execRebuildEnd (reads : List (Nat × MediumOutcome)) (results : List (MediumOutcome × Bool)) (s : State) :
    Host.Outcome State Fault Refusal :=
  if !s.powered || !rebuilding s then .next s
  else
    match ((List.range 128).map (physicalBlock s.sc.map)).find? (fun b => decide (136 ≤ b)) with
    | some b => .fault (.noSuchBlock b)
    | none => .next (rebuildEnded (rebuild reads results s))

end Sys2Proof.Machine
end

