-- ==== Sys2Proof/Machine/Link.lean ====
section
/-! DEFINITION. LI (Chapter 10): what arrives on the line, what is sent, and RESTART's acceptance with the
closing steps that take place at once (R184, R203). -/

namespace Sys2Proof.Machine

/-! ## Arrivals -/

/-- A run of bytes from the line that ends with the event a row names (R177): `rule` acts on the state with
the receiver moved on. After RESTART is accepted everything received is passed over (R184). -/
def onLine (bytes : List Byte) (rule : RxEvent → State → State) (s : State) : State :=
  if s.li.closing then s
  else
    match receive s.li.receiver bytes with
    | some (r, some e) => rule e { s with li := { s.li with receiver := r } }
    | _ => s

/-- A frame of one of the rows' kinds: `rule` of its kind, tag and body where `accepts` takes the kind; not
this row's event otherwise, so that nothing changes. -/
def onFrame (bytes : List Byte) (accepts : Byte → Bool) (rule : Byte → Byte → List Byte → State → State)
    (s : State) : State :=
  onLine bytes (fun e t =>
    match e with
    | .arrived kind tag body => if accepts kind then rule kind tag body t else s
    | .discarded => s) s

/-- CYCLE DEMAND on arrival (R178, R52): with 27 body bytes the demand record is written whole, the demand
age is 0, and a CYCLE REPORT is owed; with another length BAD LENGTH is. -/
def takeDemand (tag : Byte) (body : List Byte) (s : State) : State :=
  if body.length = 27 then
    placeReport (.report tag)
      { s with demand := demandOfBody body, bc := { s.bc with demandAge := 0 } }
  else placeReport (.badLength tag) s

/-- CYCLE DEMAND (R178). -/
def execCycleDemand (bytes : List Byte) (s : State) : Host.Outcome State Fault Refusal :=
  done s (onFrame bytes (fun k => k == kindCycleDemand) (fun _ tag body => takeDemand tag body) s)

/-- Whether a frame of a kind is a queued command (R180). -/
def queuedKind (k : Byte) : Bool := !(k == kindCycleDemand || k == kindClearOverrun || k == kindRestart)

/-- A queued command on arrival (R180): refused OVERRUN, queued, or refused BUSY with the latch set. -/
def queueCommand (kind tag : Byte) (body : List Byte) (s : State) : State :=
  if s.li.overrun then placeArrivalReply (statusReply kind tag .overrun) s
  else if s.li.queue.length < 4 then
    { s with li := { s.li with queue := s.li.queue ++ [⟨kind, tag, body⟩] } }
  else
    placeArrivalReply (statusReply kind tag .busy)
      (raise .linkOverrun { s with li := { s.li with overrun := true } })

/-- QUEUED COMMAND ARRIVAL (R180). -/
def execQueuedCommandArrival (bytes : List Byte) (s : State) : Host.Outcome State Fault Refusal :=
  done s (onFrame bytes queuedKind queueCommand s)

/-- FRAME DISCARD (R177): a length over 600 or a checkword mismatch. -/
def execFrameDiscard (bytes : List Byte) (s : State) : Host.Outcome State Fault Refusal :=
  done s (onLine bytes (fun e t =>
    match e with
    | .discarded => raise .frameErrors t
    | .arrived _ _ _ => s) s)

/-- FRAME GAP (R177): `bytes` leave a frame open, more than 1 ms passes, and `after`, the byte that ends the
gap, is examined as a possible flag. -/
def frameGap (bytes : List Byte) (after : Byte) (s : State) : State :=
  if s.li.closing then s
  else
    match receive s.li.receiver bytes with
    | some (.inFrame _, none) =>
      raise .frameErrors { s with li := { s.li with receiver := (feedByte .hunting after).1 } }
    | _ => s

/-- FRAME GAP. -/
def execFrameGap (bytes : List Byte) (after : Byte) (s : State) : Host.Outcome State Fault Refusal :=
  done s (frameGap bytes after s)

/-- CLEAR OVERRUN on arrival (R183). -/
def clearOverrun (tag : Byte) (body : List Byte) (s : State) : State :=
  if body.length = 0 then
    placeArrivalReply (statusReply kindClearOverrun tag .ok) { s with li := { s.li with overrun := false } }
  else placeArrivalReply (statusReply kindClearOverrun tag .badLength) s

/-- CLEAR OVERRUN. -/
def execClearOverrun (bytes : List Byte) (s : State) : Host.Outcome State Fault Refusal :=
  done s (onFrame bytes (fun k => k == kindClearOverrun) (fun _ tag body => clearOverrun tag body) s)

/-! ## Sending -/

/-- FRAME SENT (R186): a READ INCIDENT reply that is not the last is reported to the reader (R167), the
RESTART reply ends LI's closing step (R203), and the next frame is chosen. -/
def frameSent (s : State) : State :=
  match s.li.tx with
  | none => s
  | some f =>
    let t := { s with li := { s.li with tx := none } }
    startTx (match f.role with
      | .plain => t
      | .readPart => readReplySent t
      | .restartDone => { t with li := { t.li with restartSent := true } })

/-- FRAME SENT. -/
def execFrameSent (s : State) : Host.Outcome State Fault Refusal := done s (frameSent s)

/-! ## RESTART -/

/-- The section of the open record handed to the writer and not yet completed: in progress at the port, or
under recovery. -/
def handedJob (sc : StoreController) : Option SectionJob :=
  match sc.recovery with
  | some r => r.job
  | none =>
    match sc.port with
    | some ⟨.writer, .program job _ _ _, _⟩ => some job
    | _ => none

/-- The frames handed to the writer (R130). -/
def handedFrames (sc : StoreController) : List Nat :=
  match handedJob sc with
  | some (.frames indices) => indices
  | _ => []

/-- The open record at the acceptance of RESTART (R135, R204): closed TRUNCATED_RESTART with the frames
programmed or being programmed; a record whose TRAILER is being programmed keeps its reason. A record that can have no
TRAILER closes at once and keeps TRUNCATED_RESTART (R135) as its entry's end reason, where R151, which R204 names, gives
TRUNCATED_STORE_FULL: the model's choice (DESIGN CHOICE, assumption log 65). -/
def restartRecord (s : State) : State :=
  if handedJob s.sc = some .trailer then s
  else
    let t := truncateOpen .truncatedRestart (handedFrames s.sc) s
    if t.sc.seat = .normal then t else closeWithoutTrailer t

/-- A truck output record at the acceptance of RESTART (R116, R203). -/
def withdrawOutput (o : TruckOutput) : TruckOutput :=
  { o with mode := .pneumatic, pCmd := none, dump := false, deviation := 0 }

/-- SC at the acceptance of RESTART (R155, R160, R175): the read-out ends and a read in progress is
discarded, the burst is 1, a relocation is abandoned. -/
def restartStore (sc : StoreController) : StoreController :=
  abandonRelocation
    { sc with
      readOut := none
      burst := 1
      port := sc.port.map (fun p => if p.agent = .reader then { p with discard := true } else p) }

/-- LI at the acceptance of RESTART (R184). A SAVE PARAMETERS in progress stays the head until its
read-back. The pending report list is kept whole, BAD LENGTH answers among it (assumption log 46). -/
def restartLink (tag : Byte) (saving : Bool) (l : LinkInterface) : LinkInterface :=
  { l with
    queue := if saving then l.queue.take 1 else []
    replies := [⟨replyKind kindRestart, tag, [statusCode .ok], .restartDone⟩]
    closing := true
    restartSent := false }

/-- RESTART accepted (R184, R203). -/
def acceptRestart (tag : Byte) (s : State) : State :=
  startTx <| restartRecord
    { s with
      li := restartLink tag s.pm.saving s.li
      cx := { s.cx with mode := .startup, loadEnded := false, rebuildEnded := false }
      co := { s.co with trucks := s.co.trucks.map withdrawOutput }
      sc := restartStore s.sc }

/-- RESTART on arrival (R184). -/
def takeRestart (tag : Byte) (body : List Byte) (s : State) : State :=
  if body.length = 0 then acceptRestart tag s
  else placeArrivalReply (statusReply kindRestart tag .badLength) s

/-- RESTART. -/
def execRestart (bytes : List Byte) (s : State) : Host.Outcome State Fault Refusal :=
  done s (onFrame bytes (fun k => k == kindRestart) (fun _ tag body => takeRestart tag body) s)

end Sys2Proof.Machine
end

