-- ==== Sys2Proof/Machine/Window.lean ====
section
/-! DEFINITION. The steps of the 10 ms window: TACHOMETER EDGE, WINDOW CLOSE with AM, SP and CO in their
chain (R3, R18, R101), the rows that name a bound reached at a window close, and ADHESION RECOVERY. -/

namespace Sys2Proof.Machine

/-- A rising tachometer edge (R1, R2), `delay` µs after the timer's present value (assumption log 6). An
edge before the first window opens, that is before the block timers have started, is not counted. -/
def execTachometerEdge (axle : AxleNo) (delay : Word32) (s : State) : Host.Outcome State Fault Refusal :=
  let now := s.am.timer + delay
  let axles := if s.timersRunning then
      s.am.axles.set axle (captureEdge now (s.am.axles.get axle))
    else s.am.axles
  done s { s with am := { s.am with timer := now, axles := axles } }

/-- The window close, whole (R3, R18, R101): AM's evaluation, SP's evaluation of the same window, CO's
composition. Without running timers no window closes (R2). -/
def windowClose (cylA cylB : Reading) (s : State) : State :=
  if s.timersRunning then compose cylA cylB (spEvaluate { s with am := amWindow s }) else s

/-- WINDOW CLOSE (R3). -/
def execWindowClose (cylA cylB : Reading) (s : State) : Host.Outcome State Fault Refusal :=
  done s (windowClose cylA cylB s)

/-- The window close at which axle `axle`'s quiet count, 3 to 24, makes it LOCKED (R7 item 2). -/
def execLocked (axle : AxleNo) (cylA cylB : Reading) (s : State) : Host.Outcome State Fault Refusal :=
  let t := windowClose cylA cylB s
  let q := ((amWindow s).axles.get axle).quiet
  onOccasion
    (s.timersRunning && (s.am.axles.get axle).sensor != .faulted &&
      (s.am.axles.get axle).edgeCount == 0 && decide (3 ≤ q ∧ q < 25 ∧ 1000 ≤ reportedRef s.am)) s t

/-- The window close at which axle `axle`'s quiet count is 25 or more (R7 item 1). -/
def execQuietSilence (axle : AxleNo) (cylA cylB : Reading) (s : State) : Host.Outcome State Fault Refusal :=
  let t := windowClose cylA cylB s
  onOccasion
    (s.timersRunning && (s.am.axles.get axle).sensor != .faulted &&
      (s.am.axles.get axle).edgeCount == 0 && decide (25 ≤ ((amWindow s).axles.get axle).quiet)) s t

/-- The window close at which a third consecutive implausible candidate makes axle `axle` FAULTED (R6,
R9). -/
def execImplausibleFault (axle : AxleNo) (cylA cylB : Reading) (s : State) :
    Host.Outcome State Fault Refusal :=
  let t := windowClose cylA cylB s
  onOccasion
    (s.timersRunning && (s.am.axles.get axle).sensor != .faulted &&
      ((amWindow s).axles.get axle).sensor == .faulted) s t

/-- The window close at which axle `axle`'s fault time reaches the sensor-fault time (R23). -/
def execSensorFaultTime (axle : AxleNo) (cylA cylB : Reading) (s : State) :
    Host.Outcome State Fault Refusal :=
  let t := windowClose cylA cylB s
  onOccasion
    (s.timersRunning && ((amWindow s).axles.get axle).sensor != .faulted &&
      (t.am.axles.get axle).sensor == .faulted) s t

/-- The window close at which truck `truck`'s hold timer reaches the hold time (R28). -/
def execHoldTimeEnd (truck : Truck) (cylA cylB : Reading) (s : State) : Host.Outcome State Fault Refusal :=
  let t := windowClose cylA cylB s
  onOccasion ((s.sp.trucks.get truck).state == .hold && (t.sp.trucks.get truck).state == .restore) s t

/-- The window close at which truck `truck`'s episode timer reaches T_corr_max (R31). -/
def execEpisodeTimeout (truck : Truck) (cylA cylB : Reading) (s : State) :
    Host.Outcome State Fault Refusal :=
  let t := windowClose cylA cylB s
  onOccasion ((s.sp.trucks.get truck).state != .lockout && (t.sp.trucks.get truck).state == .lockout) s t

/-- The window close at which truck `truck`'s lockout timer reaches T_lockout (R32): in RUN and protected,
it leaves LOCKOUT. -/
def execLockoutEnd (truck : Truck) (cylA cylB : Reading) (s : State) : Host.Outcome State Fault Refusal :=
  let t := windowClose cylA cylB s
  onOccasion
    (s.cx.mode == .run && (t.sp.trucks.get truck).isProtected &&
      (s.sp.trucks.get truck).state == .lockout && (t.sp.trucks.get truck).state == .idle) s t

/-- The sand valve of a direction. -/
def valveOf (u : SlideUnit) : SandDir → SandValve
  | .forward => u.sandForward
  | .reverse => u.sandReverse

/-- The window close at which a sand valve's open time reaches T_sand_max (R39). -/
def execSandMaxTime (valve : SandDir) (cylA cylB : Reading) (s : State) : Host.Outcome State Fault Refusal :=
  let t := windowClose cylA cylB s
  onOccasion ((valveOf s.sp valve).state == .opened && (valveOf t.sp valve).state == .resting) s t

/-- The window close at which a sand valve's rest time reaches T_sand_rest (R39). -/
def execSandRestEnd (valve : SandDir) (cylA cylB : Reading) (s : State) : Host.Outcome State Fault Refusal :=
  let t := windowClose cylA cylB s
  onOccasion ((valveOf s.sp valve).state == .resting && (valveOf t.sp valve).state == .closed) s t

/-- The window close at which truck `truck`'s deviation timer reaches the air-fault time (R111). -/
def execAirFault (truck : Truck) (cylA cylB : Reading) (s : State) : Host.Outcome State Fault Refusal :=
  let t := windowClose cylA cylB s
  onOccasion (!(s.co.trucks.get truck).airFault && (t.co.trucks.get truck).airFault) s t

/-- ADHESION RECOVERY: a step of SP's 1 s recovery timer (R33). -/
def execAdhesionRecovery (s : State) : Host.Outcome State Fault Refusal :=
  done s
    (if s.timersRunning then
      { s with sp := { s.sp with
          trucks := s.sp.trucks.map (recoverCap s.pm.params.slide (s.cx.mode == .run)) } }
    else s)

end Sys2Proof.Machine
end

