-- ==== Sys2Proof/Machine/Executor.lean ====
section
/-! DEFINITION. CX's queued commands but for the store commands: status and tables (R189, R190), notices
(R188), parameters (R198, R199, R201), modes (R194, R195), the trigger table (R123) and marks (R119). -/

namespace Sys2Proof.Machine

/-! ## Status and tables -/

/-- A truck output record as READ STATUS returns it (R189). -/
def outputPlace (o : TruckOutput) : List Byte :=
  le8 (outputCode o.mode) ++ le16 (o.pCmd.getD 0xFFFF) ++ flagByte o.dump ++ le16 o.measured ++
  flagByte o.measuredValid ++ le16 o.deviation ++ flagByte o.airFault

/-- GT's fields of a group as READ STATUS returns them (R189). -/
def groupPlace (g : ThermalGroup) : List Byte := le16 g.theta ++ le16 g.cap ++ flagByte g.cutout

/-- The body of the READ STATUS reply (R189, 10.8). -/
def statusBody (s : State) : List Byte :=
  [statusCode .ok] ++ le8 (modeCode s.cx.mode) ++ le8 s.bc.demandAge ++ le16 s.bpm.pressure ++
  le16 s.bpm.reduction ++ flagByte s.bpm.emergency ++ flagByte s.bpm.sensorFault ++
  groupPlace s.gt.a ++ groupPlace s.gt.b ++ outputPlace s.co.trucks.a ++ outputPlace s.co.trucks.b ++
  flagByte s.co.movedInSetup ++ flagByte s.sc.storeFull ++ le8 (spareCount s.sc.map) ++
  le8 s.sc.directory.length ++ flagByte s.li.overrun ++ le8 s.li.queue.length

/-- READ STATUS (R189). -/
def execReadStatus (s : State) : Host.Outcome State Fault Refusal :=
  done s (takeCommand 0x02 0 (fun c t => answerWith c (statusBody t) t) s)

/-- An axle's entry of the READ AXLE TABLE reply (R190, 10.8). -/
def axlePlace (x : SpeedFields) (y : SlideFields) : List Byte :=
  le16 x.speed ++ le16 x.prevSpeed ++ flagByte x.measured ++ le8 x.quiet ++ le8 x.implausible ++
  le8 (sensorCode x.sensor) ++ le16 y.creep ++ le16 (BitVec.ofInt 16 y.decel).toNat ++ le8 y.decelHits ++
  flagByte y.sliding ++ le16 y.faultTime

/-- The body of the READ AXLE TABLE reply (R190). -/
def axleTableBody (s : State) : List Byte :=
  [statusCode .ok] ++ allAxles.flatMap (fun i => axlePlace (s.am.axles.get i) (s.sp.axles.get i)) ++
  le16 (reportedRef s.am) ++ flagByte s.am.refValid ++ flagByte s.am.standstill

/-- Whether the next command of the queue is the close of a window. -/
def windowNext (s : State) : Bool :=
  match s.pending with
  | .windowClose _ _ :: _ => s.timersRunning
  | _ => false

/-- READ AXLE TABLE past its length (R190). Directly ahead of a window close it falls before it, or between AM's
evaluation of that window and SP's, so that speeds of the new window stand beside slide fields of the old: a free
value says which (assumption log 36). -/
def readAxleTable (c : Command) (s : State) : State :=
  if windowNext s then
    answerWith c (axleTableBody (if Config.freeBit s.freeCount then { s with am := amWindow s } else s))
      { s with freeCount := s.freeCount + 1 }
  else answerWith c (axleTableBody s) s

/-- READ AXLE TABLE (R190). -/
def execReadAxleTable (s : State) : Host.Outcome State Fault Refusal :=
  done s (takeCommand 0x13 0 readAxleTable s)

/-- A head command of a kind not in the catalogue (R182): refused with UNKNOWN KIND. -/
def unknownKind (s : State) : State :=
  match s.li.queue with
  | [] => s
  | c :: _ =>
    if (requiredLength c.kind).isNone ∧ cxMayTake s then refuseCommand c .unknownKind s else s

/-- UNKNOWN KIND. -/
def execUnknownKind (s : State) : Host.Outcome State Fault Refusal := done s (unknownKind s)

/-! ## Notices -/

/-- A notice set carried at byte `i` of a body. -/
def noticesAt (bs : List Byte) (i : Nat) : Word16 := .ofNat 16 (fieldAt bs i 2)

/-- READ NOTICES (R188). -/
def execReadNotices (s : State) : Host.Outcome State Fault Refusal :=
  done s (takeCommand 0x03 0 (fun c t =>
    answerWith c ([statusCode .ok] ++ le16 t.cx.notices.toNat ++ le16 t.cx.noticeEnable.toNat) t) s)

/-- CLEAR NOTICES past its length (R188). -/
def clearNotices (c : Command) (s : State) : State :=
  let set := noticesAt c.body 0
  if set.msb then refuseCommand c .badValue s
  else answerOk c { s with cx := { s.cx with notices := s.cx.notices &&& ~~~set } }

/-- CLEAR NOTICES. -/
def execClearNotices (s : State) : Host.Outcome State Fault Refusal :=
  done s (takeCommand 0x04 2 clearNotices s)

/-- SET NOTICE ENABLE past its length (R188): a notice in both lists becomes enabled. -/
def setNoticeEnable (c : Command) (s : State) : State :=
  let on := noticesAt c.body 0
  let off := noticesAt c.body 2
  if on.msb || off.msb then refuseCommand c .badValue s
  else answerOk c { s with cx := { s.cx with noticeEnable := (s.cx.noticeEnable &&& ~~~off) ||| on } }

/-- SET NOTICE ENABLE. -/
def execSetNoticeEnable (s : State) : Host.Outcome State Fault Refusal :=
  done s (takeCommand 0x05 4 setNoticeEnable s)

/-! ## Parameters -/

/-- READ PARAMETER past its length (R198). -/
def readParameter (c : Command) (s : State) : State :=
  let n := fieldAt c.body 0 2
  match paramOf n with
  | none => refuseCommand c .unknownParameter s
  | some p => answerWith c ([statusCode .ok] ++ le16 n ++ le32 (readParam s.pm.params p).toNat) s

/-- READ PARAMETER. -/
def execReadParameter (s : State) : Host.Outcome State Fault Refusal :=
  done s (takeCommand 0x06 2 readParameter s)

/-- The mode check of WRITE PARAMETER (R199). -/
def writeAllowed (m : Mode) (number : Nat) : Bool :=
  match m with
  | .startup => false
  | .setup => true
  | .run => !setupOnly number

/-- WRITE PARAMETER past its length (R199). -/
def writeParameter (c : Command) (s : State) : State :=
  let n := fieldAt c.body 0 2
  let w : Word32 := .ofNat 32 (fieldAt c.body 2 4)
  if !writeAllowed s.cx.mode n then refuseCommand c .wrongMode s
  else
    match paramOf n with
    | none => refuseCommand c .unknownParameter s
    | some p =>
      if paramInRange p w && relationHolds s.pm.params p w then
        answerOk c { s with pm := { s.pm with params := putParam s.pm.params p w } }
      else refuseCommand c .badValue s

/-- WRITE PARAMETER. -/
def execWriteParameter (s : State) : Host.Outcome State Fault Refusal :=
  done s (takeCommand 0x07 6 writeParameter s)

/-- SAVE PARAMETERS past its length (R201): the image write begins, and the command stays in execution. -/
def saveParameters (c : Command) (s : State) : State :=
  if s.cx.mode = .startup then refuseCommand c .wrongMode s
  else { s with pm := { s.pm with saving := true } }

/-- SAVE PARAMETERS. -/
def execSaveParameters (s : State) : Host.Outcome State Fault Refusal :=
  done s (takeCommand 0x08 0 saveParameters s)

/-- PM after an image write whose checkword the read-back finds good or bad (R201, R200). -/
def savedMemory (ok : Bool) (pm : ParameterMemory) : ParameterMemory :=
  let image : ParamImage := ⟨pm.params, ok⟩
  { pm with image := image, saving := false, defaultsFlag := pm.defaultsFlag && !imageGood image }

/-- SAVE COMPLETE (R201): answered OK or UNCORRECTABLE, or, once RESTART is accepted, not at all (R203). -/
def saveComplete (ok : Bool) (s : State) : State :=
  if s.pm.saving then
    let st := if imageGood ⟨s.pm.params, ok⟩ then Status.ok else Status.uncorrectable
    let t := { s with pm := savedMemory ok s.pm }
    match s.li.queue with
    | [] => t
    | c :: _ => if s.li.closing then popCommand t else finishCommand (statusReply c.kind c.tag st) t
  else s

/-- SAVE COMPLETE. -/
def execSaveComplete (ok : Bool) (s : State) : Host.Outcome State Fault Refusal := done s (saveComplete ok s)

/-! ## Modes -/

/-- ENTER SETUP at its mode check (R194). -/
def enterSetupCommand (c : Command) (s : State) : State :=
  if s.cx.mode = .startup ∨ !s.am.standstill then refuseCommand c .wrongMode s
  else answerOk c (enterSetup s)

/-- ENTER SETUP. -/
def execEnterSetup (s : State) : Host.Outcome State Fault Refusal :=
  done s (takeCommand 0x09 0 enterSetupCommand s)

/-- ENTER RUN at its mode check (R195). -/
def enterRunCommand (c : Command) (s : State) : State :=
  match s.cx.mode with
  | .startup => refuseCommand c .wrongMode s
  | .setup =>
    if s.pm.defaultsFlag || decide (3 < s.bc.demandAge) then refuseCommand c .wrongMode s
    else answerOk c (enterRun s)
  | .run => answerOk c s

/-- ENTER RUN. -/
def execEnterRun (s : State) : Host.Outcome State Fault Refusal :=
  done s (takeCommand 0x0A 0 enterRunCommand s)

/-! ## The trigger table and marks -/

/-- SET TRIGGER past its length (R123). -/
def setTrigger (c : Command) (s : State) : State :=
  let n := fieldAt c.body 0 1
  let e := triggerOfBody c.body
  if 1 ≤ n ∧ n ≤ 8 ∧ triggerInRange e then
    answerOk c { s with
      pm := { s.pm with params := { s.pm.params with triggers := s.pm.params.triggers.set (n - 1) e } }
      cu := { s.cu with
        prevMatch := s.cu.prevMatch.set (n - 1) true, armed := s.cu.armed.set (n - 1) false } }
  else refuseCommand c .badValue s

/-- SET TRIGGER. -/
def execSetTrigger (s : State) : Host.Outcome State Fault Refusal :=
  done s (takeCommand 0x0B 14 setTrigger s)

/-- A trigger entry with its previous match flag, as READ TRIGGER returns them (10.8). -/
def triggerPlace (n : Nat) (e : TriggerEntry) (prev : Bool) : List Byte :=
  le8 n ++ flagByte e.enabled ++ le32 e.mask.toNat ++ le32 e.value.toNat ++ le8 e.preCount ++
  le16 e.postCount ++ flagByte e.protect ++ flagByte prev

/-- READ TRIGGER past its length (R123). -/
def readTrigger (c : Command) (s : State) : State :=
  let n := fieldAt c.body 0 1
  match (if n = 0 then none else s.pm.params.triggers[n - 1]?) with
  | none => refuseCommand c .badValue s
  | some e =>
    answerWith c ([statusCode .ok] ++ triggerPlace n e (s.cu.prevMatch.getD (n - 1) true)) s

/-- READ TRIGGER. -/
def execReadTrigger (s : State) : Host.Outcome State Fault Refusal :=
  done s (takeCommand 0x0C 1 readTrigger s)

/-- MARK INCIDENT (R119): the next frame carries HOST_MARK. -/
def execMarkIncident (s : State) : Host.Outcome State Fault Refusal :=
  done s (takeCommand 0x0D 0 (fun c t =>
    answerOk c (withCu (fun cu => { cu with markPending := true }) t)) s)

end Sys2Proof.Machine
end

