-- ==== Sys2Proof/Machine/Startup.lean ====
section
/-! DEFINITION. Power-on, the parameter load, the reset of RESTART and the loss of power (R200, R202, R203,
R135, R201). -/

namespace Sys2Proof.Machine

/-- The store as a loss of power leaves it with an operation in progress (R138, R139, R149): what was being
erased, programmed or copied into is no longer determined (of an erased section a copy programs nothing), a mark
reads either way, and a map copy passes its checkword or not. -/
def cutShort (map : BlockMap) (retry : Option MapSide) (free : Nat) (op : StoreOp) (m : Medium) : Medium :=
  match op with
  | .erase block => spoilBlock m block
  | .program _ _ phys _ => spoilSection m phys
  | .mark _ sections => markStore false free m sections
  | .read _ _ => m
  | .copy src dst => if isErased m src then m else spoilSection m dst
  | .mapWrite change => writeMapCopy (changeMap change map) (Config.freeBit free) retry m

/-- Free values that a cut-short operation takes. -/
def freeTaken : StoreOp → Nat
  | .mark _ sections => sections.length
  | .mapWrite _ => 1
  | _ => 0

/-- Loss of power (R135, R138, R201): the part stops where it stands. An image being written is left
bad. -/
def powerLoss (s : State) : State :=
  let t := { s with
    powered := false
    pm := { s.pm with
      image := if s.pm.saving then { s.pm.image with checkwordPasses := false } else s.pm.image } }
  match s.sc.port with
  | none => t
  | some p => { t with
      medium := cutShort s.sc.map s.sc.mapRetry s.freeCount p.op s.medium
      freeCount := s.freeCount + freeTaken p.op }

/-- POWER LOSS; a part without power has none to lose. -/
def execPowerLoss (s : State) : Host.Outcome State Fault Refusal := done s (powerLoss s)

/-- Power-on (R202): every block at its reset values over the store and the image as they stand. -/
def powerUp (s : State) : State := State.afterPower s.medium s.pm.image s.freeCount s.pending

/-- POWER ON (R202). A part that has power loses it first (assumption log 5). -/
def execPowerOn (s : State) : Host.Outcome State Fault Refusal :=
  .next (powerUp (if s.powered then powerLoss s else s))

/-- PM's load (R200): the image where it is good, or the defaults with their flag and notice; load ended, and
the block timers start. -/
def parameterLoad (s : State) : State :=
  let good := imageGood s.pm.image
  let params := loadedParams s.pm.image
  raiseIf (!good) .paramDefaults
    { s with
      timersRunning := true
      pm := { s.pm with params := params, defaultsFlag := !good }
      cu := { s.cu with
        interval := params.capturePeriod, prevMatch := List.replicate 8 true, armed := List.replicate 8 false }
      cx := { s.cx with loadEnded := true } }

/-- PARAMETER LOAD END (R200); where the rebuild has ended too the part enters SETUP (R193). It comes once
after each reset (assumption log 5); a load that RESTART finds still running is given up (R203; assumption log
48). -/
def execParameterLoadEnd (s : State) : Host.Outcome State Fault Refusal :=
  done s
    (if s.cx.loadEnded || s.li.closing then s
    else
      let t := parameterLoad s
      if t.cx.rebuildEnded then enterSetup t else t)

/-- Whether every closing step of RESTART has ended (R203). -/
def closingEnded (s : State) : Bool :=
  s.li.closing && s.li.restartSent && !s.pm.saving && s.cu.opened.isNone && s.sc.port.isNone &&
  s.sc.recovery.isNone && s.sc.pendingMarks.isEmpty

/-- RESET PROCEEDS (R203): exactly as power-on, the store and the image as they stand. -/
def execResetProceeds (s : State) : Host.Outcome State Fault Refusal :=
  done s (if closingEnded s then powerUp s else s)

end Sys2Proof.Machine
end

