-- ==== Sys2Proof/Machine/Dispatch.lean ====
section
/-! DEFINITION. The dispatch: one arm per command, each a direct call of its meaning. -/

namespace Sys2Proof.Machine

/-- The effect of a command on everything but the queue of commands. -/
def exec (i : Instr) (s : State) : Host.Outcome State Fault Refusal :=
  match i with
  | .powerOn => Sys2Proof.Machine.execPowerOn s
  | .parameterLoadEnd => Sys2Proof.Machine.execParameterLoadEnd s
  | .rebuildEnd reads results => Sys2Proof.Machine.execRebuildEnd reads results s
  | .tachometerEdge axle delay => Sys2Proof.Machine.execTachometerEdge axle delay s
  | .windowClose cylA cylB => Sys2Proof.Machine.execWindowClose cylA cylB s
  | .locked axle cylA cylB => Sys2Proof.Machine.execLocked axle cylA cylB s
  | .quietSilence axle cylA cylB => Sys2Proof.Machine.execQuietSilence axle cylA cylB s
  | .implausibleFault axle cylA cylB => Sys2Proof.Machine.execImplausibleFault axle cylA cylB s
  | .sensorFaultTime axle cylA cylB => Sys2Proof.Machine.execSensorFaultTime axle cylA cylB s
  | .holdTimeEnd truck cylA cylB => Sys2Proof.Machine.execHoldTimeEnd truck cylA cylB s
  | .episodeTimeout truck cylA cylB => Sys2Proof.Machine.execEpisodeTimeout truck cylA cylB s
  | .lockoutEnd truck cylA cylB => Sys2Proof.Machine.execLockoutEnd truck cylA cylB s
  | .sandMaxTime valve cylA cylB => Sys2Proof.Machine.execSandMaxTime valve cylA cylB s
  | .sandRestEnd valve cylA cylB => Sys2Proof.Machine.execSandRestEnd valve cylA cylB s
  | .adhesionRecovery => Sys2Proof.Machine.execAdhesionRecovery s
  | .airFault truck cylA cylB => Sys2Proof.Machine.execAirFault truck cylA cylB s
  | .bpSample pipe => Sys2Proof.Machine.execBpSample pipe s
  | .rateTrigger pipe => Sys2Proof.Machine.execRateTrigger pipe s
  | .bpSensorFault pipe => Sys2Proof.Machine.execBpSensorFault pipe s
  | .emergencyRecovery pipe => Sys2Proof.Machine.execEmergencyRecovery pipe s
  | .blendRun => Sys2Proof.Machine.execBlendRun s
  | .linkLoss => Sys2Proof.Machine.execLinkLoss s
  | .thermalUpdate => Sys2Proof.Machine.execThermalUpdate s
  | .capture => Sys2Proof.Machine.execCapture s
  | .recordEnd => Sys2Proof.Machine.execRecordEnd s
  | .storeGrant => Sys2Proof.Machine.execStoreGrant s
  | .programComplete ok => Sys2Proof.Machine.execProgramComplete ok s
  | .markProgramComplete ok => Sys2Proof.Machine.execMarkProgramComplete ok s
  | .eraseComplete ok => Sys2Proof.Machine.execEraseComplete ok s
  | .copyComplete outcome ok => Sys2Proof.Machine.execCopyComplete outcome ok s
  | .mapWriteComplete ok => Sys2Proof.Machine.execMapWriteComplete ok s
  | .readComplete outcome => Sys2Proof.Machine.execReadComplete outcome s
  | .relocationStart => Sys2Proof.Machine.execRelocationStart s
  | .cycleDemand bytes => Sys2Proof.Machine.execCycleDemand bytes s
  | .queuedCommandArrival bytes => Sys2Proof.Machine.execQueuedCommandArrival bytes s
  | .frameDiscard bytes => Sys2Proof.Machine.execFrameDiscard bytes s
  | .frameGap bytes after => Sys2Proof.Machine.execFrameGap bytes after s
  | .frameSent => Sys2Proof.Machine.execFrameSent s
  | .clearOverrun bytes => Sys2Proof.Machine.execClearOverrun bytes s
  | .restart bytes => Sys2Proof.Machine.execRestart bytes s
  | .resetProceeds => Sys2Proof.Machine.execResetProceeds s
  | .readStatus => Sys2Proof.Machine.execReadStatus s
  | .readNotices => Sys2Proof.Machine.execReadNotices s
  | .clearNotices => Sys2Proof.Machine.execClearNotices s
  | .setNoticeEnable => Sys2Proof.Machine.execSetNoticeEnable s
  | .readParameter => Sys2Proof.Machine.execReadParameter s
  | .writeParameter => Sys2Proof.Machine.execWriteParameter s
  | .saveParameters => Sys2Proof.Machine.execSaveParameters s
  | .saveComplete ok => Sys2Proof.Machine.execSaveComplete ok s
  | .enterSetup => Sys2Proof.Machine.execEnterSetup s
  | .enterRun => Sys2Proof.Machine.execEnterRun s
  | .setTrigger => Sys2Proof.Machine.execSetTrigger s
  | .readTrigger => Sys2Proof.Machine.execReadTrigger s
  | .markIncident => Sys2Proof.Machine.execMarkIncident s
  | .listIncidents => Sys2Proof.Machine.execListIncidents s
  | .readIncident => Sys2Proof.Machine.execReadIncident s
  | .verifyIncident => Sys2Proof.Machine.execVerifyIncident s
  | .releaseIncident => Sys2Proof.Machine.execReleaseIncident s
  | .setReadBurst => Sys2Proof.Machine.execSetReadBurst s
  | .readAxleTable => Sys2Proof.Machine.execReadAxleTable s
  | .unknownKind => Sys2Proof.Machine.execUnknownKind s
  | .powerLoss => Sys2Proof.Machine.execPowerLoss s

end Sys2Proof.Machine
end

