-- ==== Sys2Proof/Safety.lean ====
section
/-! DEFINITION. What counts as a safe run, and the terms in which claims are stated: invariants, the state
between AM's and SP's evaluations, and what it is for a command to be answered. -/

namespace Sys2Proof.Machine

/-- A state from which the next step answers a next state. -/
def stepsOn (s : State) : Bool :=
  match step s with
  | .next _ => true
  | .fault _ => false
  | .refused _ => false

/-! ## Invariants -/

/-- Every physical block the map names exists (R138, R139). -/
def mapInStore (m : BlockMap) : Bool := (List.range 128).all (fun l => decide (physicalBlock m l < 136))

/-- R139 of a block map: each of the 128 logical blocks on a physical block that is MAPPED, so that none is
RETIRED, and no physical block for two of them. -/
def mapRule (m : BlockMap) : Prop :=
  m.phys.length = 128 ∧ m.states.length = 136 ∧ m.phys.Nodup ∧ ∀ b ∈ m.phys, m.states[b]? = some .mapped

/-- A change that keeps R139: a block mapped anew held no logical block, and the block it replaces holds none
after it; a block retired holds none. -/
def changeFits (m : BlockMap) : MapChange → Prop
  | .initial => True
  | .replace logical old target =>
    (physicalBlock m logical = old ∨ old ∉ m.phys) ∧ target ∉ m.phys ∧ target < 136
  | .retire block => block ∉ m.phys

/-- A physical block that is neither SPARE nor TARGET. -/
def inUse (m : BlockMap) (b : Nat) : Prop := m.states[b]? ≠ some .spare ∧ m.states[b]? ≠ some .target

/-- The operation at the port agrees with the map in force and with the recovery or relocation it serves. -/
def portFits (sc : StoreController) (p : PortOp) : Prop :=
  match p.agent, p.op with
  | _, .mapWrite .initial => sc.relocQueue = [] ∧ sc.relocation = none ∧ sc.recovery = none
  | .writer, .program _ logical phys _ => physicalBlock sc.map (blockOf logical) = phys / 16
  | .writer, .erase block =>
    (sc.recovery = none → physicalBlock sc.map (eraseTarget sc) = block) ∧
    ∀ r, sc.recovery = some r → r.step ≠ .reprogram
  | .writer, .copy _ _ => ∀ r, sc.recovery = some r → r.step ≠ .reprogram
  | .writer, .mapWrite c => ∃ r, sc.recovery = some r ∧ r.step ≠ .reprogram ∧
      (c = .replace r.logical r.failed r.target ∨ c = .retire r.target)
  | .relocator, .mapWrite c => changeFits sc.map c ∧ (p.discard = false → ∃ r, sc.relocation = some r ∧
      (c = .replace (logicalOf sc.map r.block) r.block r.target ∨ c = .retire r.target))
  | .reader, .mapWrite _ => False
  | .reader, .read _ phys => inUse sc.map (phys / 16)
  | _, _ => True

/-- The map in force and every map copy that passes its checkword keep R139, and what would change the map next
(the relocation queue, the relocation, the recovery and the operation at the port) agrees with it. -/
structure MapKept (sc : StoreController) (m : Medium) : Prop where
  rule : mapRule sc.map
  first : m.copy1.valid = true → mapRule m.copy1.map
  second : m.copy2.valid = true → mapRule m.copy2.map
  queued : ∀ b ∈ sc.relocQueue, inUse sc.map b
  relocation : ∀ r, sc.relocation = some r → inUse sc.map r.block ∧ sc.map.states[r.target]? = some .target
  recovery : ∀ r, sc.recovery = some r → r.step ≠ .reprogram →
    (physicalBlock sc.map r.logical = r.failed ∨ sc.map.states[r.failed]? = some .retired) ∧
    sc.map.states[r.target]? = some .target ∧ ∀ q, sc.relocation = some q → q.target ≠ r.target
  port : ∀ p, sc.port = some p → portFits sc p

/-- A truck's outputs agree with its mode (R108, R109): no setpoint while PNEUMATIC, no open dump valve
while EP. -/
def outputsAgree (o : TruckOutput) : Bool :=
  match o.mode with
  | .ep => !o.dump
  | .pneumatic => o.pCmd.isNone

/-- The command queue and the pending report list keep their bounds (R181, R186). -/
def linkBounded (l : LinkInterface) : Bool :=
  decide (l.queue.length ≤ 4) && decide (l.reports.length ≤ 8)

/-- Replies of a list that are parts of a READ INCIDENT before its last (R167). -/
def partsIn (replies : List Reply) : Nat := (replies.filter (fun r => r.role == .readPart)).length

/-- Whether the frame in transmission is such a part. -/
def partSending (l : LinkInterface) : Bool := l.tx.any (fun f => f.role == .readPart)

/-- The pending command reply list holds at most 20 replies, with what its bound rests on (R186): a command in execution
finds room for its reply and has at most one pending (R181, R167). A read-out stands only where no SAVE PARAMETERS is in
progress and no RESTART accepted (R181, R175); it waits for transmission just where one part of it waits or is sent, and
asks for no section then; and a read at the port that is not discarded is one it asked for (R165, R173). -/
structure RepliesKept (s : State) : Prop where
  bound : s.li.replies.length ≤ 20
  saving : s.pm.saving = true → s.sc.readOut = none ∧ s.li.replies.length ≤ 19
  closing : s.li.closing = true → s.sc.readOut = none
  idle : s.li.closing = false → s.sc.readOut = none → partsIn s.li.replies = 0 ∧ partSending s.li = false
  reading : ∀ r, s.sc.readOut = some r → r.waiting = false →
    s.li.replies.length ≤ 19 ∧ partsIn s.li.replies = 0 ∧ partSending s.li = false
  waiting : ∀ r, s.sc.readOut = some r → r.waiting = true → r.asking = none ∧
    ((partsIn s.li.replies = 1 ∧ partSending s.li = false) ∨
      (partsIn s.li.replies = 0 ∧ partSending s.li = true ∧ s.li.replies.length ≤ 19))
  port : ∀ p, s.sc.port = some p → p.agent = .reader → p.discard = false →
    ∃ r, s.sc.readOut = some r ∧ r.asking.isSome = true

/-- The brake pipe record keeps to its ranges (3.1). -/
def pipeInRange (b : BrakePipe) : Bool :=
  decide (b.pressure ≤ 1000 ∧ b.history.length ≤ 10 ∧ b.invalidCount ≤ 5 ∧ b.rateHits ≤ 2 ∧
    b.recovery < 10000) && b.history.all (fun p => decide (p ≤ 1000))

/-- GT's fields of a group keep to their ranges, and a group cut out has no cap (5.2, R93). -/
def groupInRange (g : ThermalGroup) : Bool := decide (g.theta ≤ 9000) && (!g.cutout || g.cap == 0)

/-- Each group's DB request is at most the capability last computed for it (R73). -/
def requestsWithinCapability (b : BlendComputer) : Bool :=
  decide (b.trucks.a.dbRequest ≤ b.trucks.a.capability ∧ b.trucks.b.dbRequest ≤ b.trucks.b.capability)

/-- The ranges of the brake pipe record, the thermal fields and the demand age (3.1, 5.2, R55), and each DB
request within its capability (R73). -/
def rangesHold (s : State) : Bool :=
  pipeInRange s.bpm && groupInRange s.gt.a && groupInRange s.gt.b && decide (s.bc.demandAge ≤ 255) &&
  requestsWithinCapability s.bc

/-- Outside STARTUP the parameter load and the rebuild have both ended (R193). -/
def modeConsistent (x : Executor) : Bool := x.mode == .startup || (x.loadEnded && x.rebuildEnded)

/-- The directory holds at most 32 records and no number twice (R143). -/
def directoryOk (sc : StoreController) : Prop :=
  sc.directory.length ≤ 32 ∧ (sc.directory.map (·.number)).Nodup

/-! ## Terms of the claims -/

/-- The part with AM's evaluation of the closing window made, as SP's evaluation finds it (R3, R18). -/
def afterAm (s : State) : State := { s with am := amWindow s }

/-- The axles of a window's chain after SP's steps 2 and 3 (R18). -/
def windowAxles (s : State) : PerAxle SpeedFields := (spAxles (afterAm s)).1

/-- Whether a window close finds a slide on a truck (R25). -/
def windowSlide (s : State) (g : Truck) : Bool :=
  slidePresent (spAxles (afterAm s)).1 (spAxles (afterAm s)).2 g

/-- `c` heads the queue of a powered part whose CX may take it (R181). -/
def Awaits (c : Command) (s : State) : Prop :=
  s.powered = true ∧ s.li.queue.head? = some c ∧ cxMayTake s = true

/-- What an idle line does with the lists that wait (R186): the oldest report is sent, or else the oldest reply, or
else the line stays idle. -/
def Sends (reports : List ReportEntry) (replies : List Reply) (t : State) : Prop :=
  (∀ e rest, reports = e :: rest →
    t.li.tx = some ⟨reportFrame t e, .plain⟩ ∧ t.li.reports = rest ∧ t.li.replies = replies) ∧
  (∀ x rest, reports = [] → replies = x :: rest →
    t.li.tx = some ⟨frameBytes x.kind x.tag x.body, x.role⟩ ∧ t.li.reports = [] ∧ t.li.replies = rest) ∧
  (reports = [] → replies = [] → t.li.tx = none ∧ t.li.reports = [] ∧ t.li.replies = [])

/-- `t` follows `s` with the lists as a placement leaves them (R186): a frame in transmission goes on, and both lists
wait; an idle line sends the oldest entry. -/
def Placed (reports : List ReportEntry) (replies : List Reply) (s t : State) : Prop :=
  (∀ f, s.li.tx = some f → t.li.tx = some f ∧ t.li.reports = reports ∧ t.li.replies = replies) ∧
  (s.li.tx = none → Sends reports replies t)

/-- `t` is `s` with the head command ended by the reply `r` (R181, R186): the reply joins its list behind the replies
and reports that wait, the line goes on or takes the oldest entry, and nothing but LI's queue, lists and transmission
differs. -/
def AnsweredBy (r : Reply) (s t : State) : Prop :=
  t = { s with li := { s.li with
    queue := s.li.queue.tail, reports := t.li.reports, replies := t.li.replies, tx := t.li.tx } } ∧
  Placed s.li.reports (s.li.replies ++ [r]) s t

/-- `t` is `s` with the reply `r` of an arrival placed where fewer than 16 replies wait, and LINK_OVERRUN raised
otherwise (R186); nothing but LI's lists and transmission and the notice set differs. -/
def ArrivalAnswered (r : Reply) (s t : State) : Prop :=
  t = { s with
    li := { s.li with reports := t.li.reports, replies := t.li.replies, tx := t.li.tx }
    cx := { s.cx with notices := t.cx.notices } } ∧
  (s.li.replies.length < 16 →
    Placed s.li.reports (s.li.replies ++ [r]) s t ∧ t.cx.notices = s.cx.notices) ∧
  (16 ≤ s.li.replies.length → t.li = s.li ∧ t.cx.notices = s.cx.notices ||| 0x1000)

/-- `t` is `s` with the head command `c` ended by a status-only reply (R185). -/
def StatusOnly (st : Status) (c : Command) (s t : State) : Prop :=
  AnsweredBy ⟨replyKind c.kind, c.tag, [statusCode st], .plain⟩ s t

/-- `t` is `s` with the head command `c` answered by a body of its own. -/
def AnsweredWith (body : List Byte) (c : Command) (s t : State) : Prop :=
  AnsweredBy ⟨replyKind c.kind, c.tag, body, .plain⟩ s t

/-- The rows of the queued commands with the kind and the body length 10.8 gives each (R182). -/
def queuedRows : List (Byte × Nat × Instr) :=
  [(0x02, 0, .readStatus), (0x03, 0, .readNotices), (0x04, 2, .clearNotices), (0x05, 4, .setNoticeEnable),
   (0x06, 2, .readParameter), (0x07, 6, .writeParameter), (0x08, 0, .saveParameters), (0x09, 0, .enterSetup),
   (0x0A, 0, .enterRun), (0x0B, 14, .setTrigger), (0x0C, 1, .readTrigger), (0x0D, 0, .markIncident),
   (0x0E, 0, .listIncidents), (0x0F, 5, .readIncident), (0x10, 6, .verifyIncident),
   (0x11, 2, .releaseIncident), (0x12, 1, .setReadBurst), (0x13, 0, .readAxleTable)]

/-- The line's bytes complete a frame of a kind, tag and body (R177), and no RESTART has been accepted. -/
def Arrives (bytes : List Byte) (kind tag : Byte) (body : List Byte) (s : State) : Prop :=
  s.powered = true ∧ s.li.closing = false ∧
  ∃ r, receive s.li.receiver bytes = some (r, some (.arrived kind tag body))

/-- The fields of a run of bytes at the places of a layout, each a byte number and a length in bytes. -/
def fieldsAt (bs : List Byte) (places : List (Nat × Nat)) : List Nat := places.map (fun q => fieldAt bs q.1 q.2)

/-- What the examination of a logical block leaves (R147, R148), `dir` being the directory before it and `full`
whether the store-full state held: every record with a section in the block dropped, with its pending mark, and the
erase permitted; or, where one of them may not be reclaimed, the store-full state with its notice. -/
def ExaminedAt (block : Nat) (dir : List DirEntry) (full : Bool) (s t : State) : Prop :=
  let within := fun x : DirEntry => decide (x.state ≠ .filling ∧
    ∃ slot : Fin 16, (block * 16 + slot + 2048 - x.first % 2048) % 2048 < x.sectionCount)
  let free := fun x : DirEntry => x.state = .released ∨ (x.state = .held ∧ x.protect = false)
  ((∀ x ∈ dir, within x = true → free x) →
    t.sc.eraseAhead = .due true ∧ t.sc.storeFull = full ∧ t.sc.directory = dir.filter (fun x => !within x) ∧
    t.sc.pendingMarks = s.sc.pendingMarks.filter (fun n => !dir.any (fun x => within x && x.number == n))) ∧
  ((∃ x ∈ dir, within x = true ∧ ¬free x) →
    t.sc.eraseAhead = .due false ∧ t.sc.storeFull = true ∧ t.sc.directory = dir ∧
    t.sc.pendingMarks = s.sc.pendingMarks ∧ (full = false → t.cx.notices.getLsbD 7 = true))

/-- The open record `r` closed TRUNCATED_STORE_FULL at its last programmed section (R133): `frames` of its frames are
programmed, and none is left undrained. -/
def TruncatedAt (r : OpenRecord) (frames : Nat) (t : State) : Prop :=
  t.cu.opened = some { r with
    phase := .closing, captureCount := frames + r.lostCount, endReason := some .truncatedStoreFull } ∧
  ∀ f ∈ t.cu.ring, ∀ i, f.standing ≠ .undrained i

/-- `b` is the lowest-numbered SPARE block (R150, R153). -/
abbrev LowestSpare (m : BlockMap) (b : Nat) : Prop :=
  b < 136 ∧ m.states[b]? = some .spare ∧ ∀ c, c < b → m.states[c]? ≠ some .spare

/-- No block is SPARE. -/
abbrev NoSpare (m : BlockMap) : Prop := ∀ b, b < 136 → m.states[b]? ≠ some .spare

/-- The addresses of a run of `n` bytes from `a`. -/
def inRun (a n x : Nat) : Prop := a ≤ x ∧ x < a + n

/-! ## The parameter tables -/

/-- A row of the groups' tables (R15, R41, R50, R82, R98, R115): the parameter's number (R197), its range, whether it
takes multiples of 10 only, its default, and the value a set holds for it. -/
structure ParamRow where
  number : Nat
  low : Nat
  high : Nat
  tens : Bool
  default : Nat
  value : Nat
  deriving DecidableEq, Repr

/-- The tables of the groups over a set, for every parameter carried unsigned and whole; the breakpoints (0500h to
0507h), the ambient (050Bh) and the capture period (0600h) stand apart. A two-valued parameter is 0 or 1 (R197). -/
def paramRows (p : ParamSet) : List ParamRow :=
  [⟨0x0100, 950, 1270, false, 1067, p.motion.diameter.a1⟩,
   ⟨0x0101, 950, 1270, false, 1067, p.motion.diameter.a2⟩,
   ⟨0x0102, 950, 1270, false, 1067, p.motion.diameter.a3⟩,
   ⟨0x0103, 950, 1270, false, 1067, p.motion.diameter.a4⟩,
   ⟨0x0104, 950, 1270, false, 1067, p.motion.diameter.a5⟩,
   ⟨0x0105, 950, 1270, false, 1067, p.motion.diameter.a6⟩, ⟨0x0106, 60, 240, false, 120, p.motion.ppr⟩,
   ⟨0x0107, 5, 60, false, 25, p.motion.decelLimit⟩, ⟨0x0108, 5, 60, false, 30, p.motion.accelLimit⟩] ++
  [⟨0x0200, 30, 250, false, 80, p.slide.creepOn⟩, ⟨0x0201, 10, 200, false, 30, p.slide.creepOff⟩,
   ⟨0x0202, 50, 500, false, 150, p.slide.lowSpeed⟩, ⟨0x0203, 3, 30, false, 8, p.slide.decelOn⟩,
   ⟨0x0204, 0, 900, false, 500, p.slide.relieveFactor⟩, ⟨0x0205, 500, 1000, false, 900, p.slide.adhesionCut⟩,
   ⟨0x0206, 200, 800, false, 300, p.slide.floor⟩, ⟨0x0207, 500, 4000, false, 2200, p.slide.nominalCap⟩,
   ⟨0x0208, 0, 200, false, 20, p.slide.recoveryRate⟩,
   ⟨0x0209, 300, 1000, false, 700, p.slide.unprotectedFactor⟩,
   ⟨0x020A, 100, 2000, true, 300, p.slide.holdTime⟩, ⟨0x020B, 1, 50, false, 4, p.slide.restoreStep⟩,
   ⟨0x020C, 1000, 10000, true, 4000, p.slide.corrMax⟩,
   ⟨0x020D, 2000, 30000, true, 10000, p.slide.lockoutTime⟩,
   ⟨0x020E, 500, 5000, true, 1500, p.slide.sensorFaultTime⟩, ⟨0x020F, 5, 60, false, 20, p.slide.sandMax⟩,
   ⟨0x0210, 5, 60, false, 10, p.slide.sandRest⟩] ++
  [⟨0x0300, 350, 650, false, 500, p.pipe.pRel⟩, ⟨0x0301, 100, 200, false, 150, p.pipe.rFs⟩,
   ⟨0x0302, 0, 30, false, 10, p.pipe.rDb⟩, ⟨0x0303, 50, 200, false, 100, p.pipe.emThreshold⟩,
   ⟨0x0304, 3, 30, false, 7, p.pipe.emFall⟩, ⟨0x0305, 200, 500, false, 300, p.pipe.pRecover⟩] ++
  [⟨0x0400, 20, 30, false, 25, p.blend.ratio⟩, ⟨0x0401, 0, 100, false, 35, p.blend.pTouch⟩,
   ⟨0x0402, 100, 1000, false, 400, p.blend.kAir⟩, ⟨0x0403, 250, 450, false, 375, p.blend.pFs⟩,
   ⟨0x0404, 300, 520, false, 450, p.blend.pEm⟩, ⟨0x0405, 500, 3000, false, 2300, p.blend.fDbMax⟩,
   ⟨0x0406, 1, 100, false, 12, p.blend.upStep⟩, ⟨0x0407, 1, 200, false, 30, p.blend.downStep⟩,
   ⟨0x0408, 0, 1, false, 1, p.blend.transfer.toNat⟩,
   ⟨0x0409, 0, 3000, false, 100, p.blend.shortfallThreshold⟩,
   ⟨0x040A, 0, 1, false, 0, p.blend.nonBlended.toNat⟩, ⟨0x040B, 0, 1, false, 0, p.blend.dbRetained.toNat⟩] ++
  [⟨0x0508, 10, 500, false, 115, p.thermal.hg⟩, ⟨0x0509, 1, 200, false, 40, p.thermal.blowerOn⟩,
   ⟨0x050A, 0, 100, false, 8, p.thermal.blowerOff⟩, ⟨0x050C, 3000, 8500, false, 6000, p.thermal.thetaDerate⟩,
   ⟨0x050D, 3500, 9000, false, 7000, p.thermal.thetaCut⟩,
   ⟨0x050E, 2000, 8000, false, 5500, p.thermal.thetaRearm⟩] ++
  [⟨0x0700, 10, 100, false, 40, p.supervision.airFaultTolerance⟩,
   ⟨0x0701, 500, 10000, true, 3000, p.supervision.airFaultTime⟩]

/-- A value lies in a row's range and is a multiple of 10 where the row asks for it (R199). -/
def ParamRow.allows (r : ParamRow) (v : Nat) : Prop := r.low ≤ v ∧ v ≤ r.high ∧ (r.tens = true → v % 10 = 0)

/-- A trigger entry such as R123 accepts: no mask bit from 18 up, no condition of the value outside the mask, and the
counts within 200 and 1000. -/
def triggerAllowed (e : TriggerEntry) : Prop :=
  (∀ n, 18 ≤ n → e.mask.getLsbD n = false) ∧ (∀ n, e.value.getLsbD n = true → e.mask.getLsbD n = true) ∧
  e.preCount ≤ 200 ∧ e.postCount ≤ 1000

/-! ## The store after an operation -/

/-- `t` is `m` with a block erased (R138): every byte FFh, every section determined, and nothing else changed. -/
def BlockErased (block : Nat) (m t : Medium) : Prop :=
  t.copy1 = m.copy1 ∧ t.copy2 = m.copy2 ∧ (∀ p, p ∈ t.unknown ↔ p ∈ m.unknown ∧ p / 16 ≠ block) ∧
  (m.wf = true → ∀ a, (inRun (block * 8192) 8192 a → readByte t.cells a = 0xFF) ∧
    (¬inRun (block * 8192) 8192 a → readByte t.cells a = readByte m.cells a))

/-- `t` is `m` after a failed erase of a block (R138): its sections undetermined, and nothing else changed. -/
def BlockSpoilt (block : Nat) (m t : Medium) : Prop :=
  t = { m with unknown := t.unknown } ∧ ∀ p, p ∈ t.unknown ↔ p / 16 = block ∨ p ∈ m.unknown

end Sys2Proof.Machine
end

