-- ==== Sys2Proof/Certificates/Slice0/Obligations.lean ====
section
/-! DEFINITION. The statements for the provers: what the manual's rules say of the commands, the frames, and
the invariants that every step keeps. -/

open Sys2Proof Sys2Proof.Machine

/-! ## The step, power and start-up -/

/-- The step takes the front command of the queue and runs `exec` on it with the queue's rest. -/
def Obligations.StepRunsFrontCommand : Prop :=
  ∀ (c : Instr) (rest : List Instr) (s : State), s.pending = c :: rest →
    step s = exec c { s with pending := rest }

/-- Power-on gives every block its reset values over the store and the image as they stand (R202, with R16,
R42, R51, R58, R83, R99, R116, R137, R160, R174, R191), the map of the newer valid copy, or the initial map with its
write begun (R139), and RESET PROCEEDS does exactly the same (R203). That the values 'of the loaded parameter set'
stand from POWER ON, before the load has ended, is the model's choice (assumption log 8); that no entry has been seen
not to match is its own field's value (assumption log 59). -/
def Obligations.PowerOnTakesResetValues : Prop :=
  (∀ s : State, s.powered = false → let p := loadedParams s.pm.image
    ∃ t, exec .powerOn s = .next t ∧
    t.powered = true ∧ t.timersRunning = false ∧ t.pending = s.pending ∧ t.medium = s.medium ∧
    t.pm = { params := p, image := s.pm.image, defaultsFlag := false, saving := false } ∧
    t.cx = {
      mode := .startup, loadEnded := false, rebuildEnded := false, notices := 0, noticeEnable := 0x7FFF } ∧
    t.am = {
      timer := 0, refInternal := 0, refValid := true, standstill := false, lockedAxle := false
      axleFault := false
      axles := .all {
        lastEdge := none, speed := 0, prevSpeed := 0, measured := false, quiet := 0, implausible := 0
        sensor := .normal, edgeCount := 0, windowEdge := none } } ∧
    t.sp = {
      axles := .all {
        creep := 0, decel := 0, decelHits := 0, sliding := false, faultTime := 0, wasFaulted := false }
      trucks := .both {
        state := .idle, episode := 0, holdTimer := 0, lockoutTimer := 0, limit := none
        cap := p.slide.nominalCap, isProtected := true, sandDemand := false }
      sandForward := { state := .closed, openTime := 0, restTime := 0 }
      sandReverse := { state := .closed, openTime := 0, restTime := 0 }
      relieveCond := .both false, lockoutCond := .both false, sanding := false } ∧
    t.bpm = {
      pressure := 0, history := [], reduction := p.pipe.rFs, invalidCount := 0, sensorFault := false
      rateHits := 0, emergency := true, recovery := 0 } ∧
    t.demand = {
      handle := 0, independent := 0, bailOff := false, direction := .neutral, hostSand := false
      hostEmergency := false, groups := .both { achieved := 0, available := false, blowers := false }
      groundSpeed := none, ambient := none, hostTime := none } ∧
    t.bc = {
      pAuto := 0, fAuto := 0, shortfall := 0, shortfallCond := false, demandAge := 4, freshRun := false
      trucks := .both {
        share := 0, capability := 0, ownDb := 0, ownAir := 0, residual := 0, extraDb := 0, extraAir := 0
        unmet := 0, dbRequest := 0, airCmd := 0, pBlend := 0 } } ∧
    t.gt = .both { theta := p.thermal.thetaDerate, cap := p.blend.fDbMax, cutout := false } ∧
    t.co = {
      movedInSetup := false
      trucks := .both {
        mode := .pneumatic, pCmd := none, dump := false, measured := 0, measuredValid := false
        deviation := 0, airFault := false } } ∧
    t.cu = {
      ring := [], prevMatch := List.replicate 8 true, armed := List.replicate 8 false, opened := none
      missed := 0, markPending := false, interval := p.capturePeriod } ∧
    t.li = {
      receiver := .hunting, queue := [], overrun := false, reports := [], replies := [], tx := none
      closing := false, restartSent := false } ∧
    t.sc.directory = [] ∧ t.sc.pendingMarks = [] ∧ t.sc.recovery = none ∧ t.sc.rebuildTrailer = none ∧
    t.sc.relocQueue = [] ∧ t.sc.relocation = none ∧ t.sc.storeFull = false ∧ t.sc.burst = 1 ∧
    t.sc.readOut = none ∧ t.sc.lastGranted = .reader ∧
    (let one := s.medium.copy1
     let two := s.medium.copy2
     let ahead := (two.generation - one.generation).toNat
     (one.valid = true → two.valid = false → t.sc.map = one.map) ∧
     (one.valid = false → two.valid = true → t.sc.map = two.map) ∧
     (one.valid = true → two.valid = true →
       (1 ≤ ahead ∧ ahead ≤ 2147483647 → t.sc.map = two.map) ∧
       (2147483649 ≤ ahead → t.sc.map = one.map)) ∧
     (one.valid = true ∨ two.valid = true → t.sc.port = none) ∧
     (one.valid = false → two.valid = false →
       t.sc.map = ⟨List.range 128, List.replicate 128 .mapped ++ List.replicate 8 .spare⟩ ∧
       t.sc.port = some ⟨.writer, .mapWrite .initial, false⟩))) ∧
  (∀ s : State, s.powered = true → closingEnded s = true →
    ∃ t, exec .resetProceeds s = .next t ∧ exec .powerOn { s with powered := false } = .next t)

/-- The parameter load takes a good image, or the defaults with the defaults flag and PARAM_DEFAULTS; the
timers start, and the part enters SETUP if the rebuild has ended (R200, R193). An image is good where its checkword
passes, every parameter and trigger entry lies in its range, and every relation of R199 holds among its values. The
defaults are those of the groups' tables, of 5.1 and of the trigger table of 7.4 (R200). -/
def Obligations.ParameterLoadTakesImageOrDefaults : Prop :=
  (∀ i : ParamImage, let v := i.values
    let t := v.thermal
    imageGood i = true ↔ i.checkwordPasses = true ∧ (∀ r ∈ paramRows v, r.allows r.value) ∧
      (∀ x ∈ t.curve, x.speed ≤ 16000 ∧ x.effort ≤ 6000) ∧ (-500 ≤ t.ambient ∧ t.ambient ≤ 600) ∧
      (v.capturePeriod = 20 ∨ v.capturePeriod = 50 ∨ v.capturePeriod = 100) ∧
      v.triggers.length = 8 ∧ (∀ e ∈ v.triggers, triggerAllowed e) ∧
      v.slide.creepOff < v.slide.creepOn ∧ v.pipe.emThreshold < v.pipe.pRecover ∧ v.blend.pFs ≤ v.blend.pEm ∧
      t.c1.speed = 0 ∧ (∀ k x y, t.curve[k]? = some x → t.curve[k + 1]? = some y → x.speed < y.speed) ∧
      t.thetaRearm < t.thetaDerate ∧ t.thetaDerate < t.thetaCut) ∧
  (∀ r ∈ paramRows defaultParams, r.value = r.default) ∧ defaultParams.thermal.ambient = 400 ∧
  defaultParams.thermal.curve =
    [⟨0, 0⟩, ⟨300, 1200⟩, ⟨800, 2300⟩, ⟨4500, 2300⟩, ⟨6000, 1800⟩, ⟨8000, 1350⟩, ⟨10000, 1080⟩, ⟨12000, 900⟩] ∧
  defaultParams.capturePeriod = 50 ∧
  defaultParams.triggers = [⟨true, 0x00001, 0x00001, 100, 300, true⟩, ⟨true, 0x20000, 0x20000, 200, 200, true⟩,
    ⟨true, 0x00010, 0x00010, 100, 100, false⟩, ⟨true, 0x00020, 0x00020, 100, 100, false⟩,
    ⟨true, 0x01000, 0x01000, 40, 40, false⟩, ⟨true, 0x02000, 0x02000, 40, 40, false⟩,
    ⟨true, 0x00600, 0x00400, 50, 100, false⟩, ⟨false, 0x00800, 0x00800, 40, 100, false⟩] ∧
  ∀ s : State, s.powered = true → s.cx.loadEnded = false → s.li.closing = false →
    ∃ t, exec .parameterLoadEnd s = .next t ∧ t.timersRunning = true ∧ t.cx.loadEnded = true ∧
      (imageGood s.pm.image = true → t.pm.params = s.pm.image.values ∧ t.pm.defaultsFlag = false ∧
        t.cx.notices = s.cx.notices) ∧
      (imageGood s.pm.image = false → t.pm.params = defaultParams ∧ t.pm.defaultsFlag = true ∧
        t.cx.notices = s.cx.notices ||| 0x0400) ∧
      t.cx.mode = (if s.cx.rebuildEnded then .setup else s.cx.mode) ∧
      t.medium = s.medium ∧ t.bpm = s.bpm ∧ t.bc = s.bc ∧ t.gt = s.gt ∧ t.sc = s.sc ∧ t.li = s.li

/-- The rebuild ends: at most 32 records, and SETUP entered if the load has ended (R158, R193). In a store in
which every section is erased it finds no record: the next number is 1, the next sequence 0, and the writer
stands at section 0 with the next block erased ahead (R159). In a store that holds one whole record, sound from its
HEADER to its TRAILER, and beside it at most sections neither usable nor erased behind the TRAILER in its block, the
record becomes the one directory entry, with its counts and end reason from the TRAILER and its state by the mark, the
next number and sequence follow it, and the writer stands after the last section of that block that is not erased, with
the next block erased ahead (R157 to R159, R140). An end reason code outside the four of 8.2.4 reads as TRUNCATED_POWER,
which is the model's choice (assumption log 21). In an erased store whose first erase fails with no block to recover it,
STORE_WEAR is raised and the store-full state begins, with STORE_FULL; the writer stands at section 0 of a block whose
contents are not determined, and the erase-ahead of the block after it is performed all the same (R159, R151), which
fails too or leaves it erased; that the store-full state then lasts is the model's choice (assumption log 54). -/
def Obligations.RebuildEndsInSetup : Prop :=
  (∀ (reads : List (Nat × MediumOutcome)) (results : List (MediumOutcome × Bool)) (s : State),
     s.powered = true → rebuilding s = true → mapInStore s.sc.map = true →
     ∃ t, exec (.rebuildEnd reads results) s = .next t ∧ t.cx.rebuildEnded = true ∧
       t.sc.directory.length ≤ 32 ∧ t.cx.mode = (if s.cx.loadEnded then .setup else .startup) ∧
       t.cx.loadEnded = s.cx.loadEnded ∧ t.pm = s.pm ∧ t.bpm = s.bpm ∧ t.bc = s.bc ∧ t.demand = s.demand ∧
       t.gt = s.gt ∧ t.li = s.li ∧ t.timersRunning = s.timersRunning ∧ t.am.timer = s.am.timer) ∧
  (∀ s : State, s.powered = true → rebuilding s = true → mapInStore s.sc.map = true →
     s.medium.cells = [] → s.medium.unknown = [] → s.cu.opened = none → s.sc.recovery = none →
     s.sc.pendingMarks = [] →
     ∃ t, exec (.rebuildEnd [] []) s = .next t ∧ t.sc.directory = [] ∧ t.sc.nextNumber = 1 ∧
       t.sc.nextSequence = 0 ∧ t.sc.position = 0 ∧ t.sc.seat = .normal ∧ t.sc.eraseAhead = .done ∧
       t.sc.storeFull = false ∧ t.medium.cells = []) ∧
  (∀ (number first m : Nat) (s : State), s.powered = true → rebuilding s = true →
     mapInStore s.sc.map = true → s.medium.unknown = [] → s.cu.opened = none → s.sc.recovery = none →
     s.sc.pendingMarks = [] → first < 2048 → 1 ≤ m → m ≤ 151 →
     let bytes := fun j => sectionBytes s.medium (physicalSection s.sc.map ((first + j) % 2048))
     (∀ j, j ≤ m → sectionNumber (bytes j) = number ∧ sectionIndex (bytes j) = j ∧
       sectionAddr (bytes j) = (first + j) % 2048 ∧ checkwordPasses (bytes j) = true ∧
       sectionKind (bytes j) = (if j = 0 then 1 else if j = m then 3 else 2)) →
     let last := (first + m) % 2048
     let erased := fun a => sectionCells s.medium (physicalSection s.sc.map a) = []
     (∀ a, a < 2048 → m < (a + 2048 - first) % 2048 → erased a ∨ (a / 16 = last / 16 ∧ last < a ∧
       sectionKind (sectionBytes s.medium (physicalSection s.sc.map a)) ≠ 0xFF ∧
       checkwordPasses (sectionBytes s.medium (physicalSection s.sc.map a)) = false)) →
     ∃ t d, exec (.rebuildEnd [] []) s = .next t ∧ t.sc.directory = [d] ∧ d.number = number ∧
       d.sequence = .ofNat 32 (fieldAt (bytes 0) 10 4) ∧ d.first = first ∧ d.sectionCount = m + 1 ∧
       d.frameCount = fieldAt (bytes m) 10 2 ∧ d.trailer = some ((first + m) % 2048) ∧
       d.state = (if markReleased (bytes m) then .released else .held) ∧
       d.endReason = some (endOfCode (fieldAt (bytes m) 18 1)) ∧
       (d.protect = true ↔ ∃ j, j ≤ m ∧ sectionProtect (bytes j) = true) ∧
       t.sc.nextNumber = (if 65535 ≤ number then 1 else number + 1) ∧
       t.sc.nextSequence = d.sequence + 1 ∧
       (s.sc.storeFull = false → t.sc.seat = .normal ∧ t.sc.eraseAhead = .done ∧ t.sc.storeFull = false) ∧
       (∀ a, last ≤ a → a < last / 16 * 16 + 16 → (a = last ∨ ¬erased a) →
         (∀ b, a < b → b < last / 16 * 16 + 16 → erased b) → t.sc.position = (a + 1) % 2048)) ∧
  (∀ (o p : MediumOutcome) (ok : Bool) (s : State), s.powered = true → rebuilding s = true →
     mapInStore s.sc.map = true → s.medium.cells = [] → s.medium.unknown = [] → s.cu.opened = none →
     s.sc.recovery = none → s.sc.pendingMarks = [] → NoSpare s.sc.map → s.sc.relocation = none →
     let own := physicalBlock s.sc.map 0
     let beyond := physicalBlock s.sc.map 1
     ∃ t, exec (.rebuildEnd [] [(o, false), (p, ok)]) s = .next t ∧ t.sc.directory = [] ∧ t.sc.position = 0 ∧
       t.sc.seat = .unerased ∧ t.sc.storeFull = true ∧ t.sc.eraseAhead = .due false ∧ t.sc.aheadErased = ok ∧
       t.sc.recovery = none ∧ t.sc.map = s.sc.map ∧ t.cx.notices.getLsbD 8 = true ∧
       (s.sc.storeFull = false → t.cx.notices.getLsbD 7 = true) ∧
       t.medium = { s.medium with unknown := t.medium.unknown } ∧
       (own ≠ beyond → ∀ x, x ∈ t.medium.unknown ↔ x / 16 = own ∨ (ok = false ∧ x / 16 = beyond)))

/-- Loss of power leaves an image being written bad (R201), and the store as it was but for the operation it cuts short:
a section being programmed or copied into is undetermined, and so is every section of a block being erased, whatever
the agent, with every byte listed as it was (R138); a copy of an erased section programs nothing (R154); of a mark
program byte 510 of its sections alone may differ (R149), and of a map write the copy being written alone, which then
holds the new map, TARGET as SPARE, with a checkword that passes or not (R139). With a valid copy the one that holds the
newest is kept, unless a failed write is being repeated, which goes to the copy that failed. That a mark or a map write
cut short ends so is the model's reading (assumption log 7, 34). A read and a free port leave it as it was. POWER ON of a
part that has power is a loss of power and then a power-on (the model's choice, assumption log 5). -/
def Obligations.PowerLossKeepsTheStore : Prop :=
  ∀ s : State, s.powered = true → ∃ t, exec .powerLoss s = .next t ∧ t.powered = false ∧
    t = { s with powered := false, pm := t.pm, medium := t.medium, freeCount := t.freeCount } ∧
    t.pm.params = s.pm.params ∧ t.pm.defaultsFlag = s.pm.defaultsFlag ∧
    t.pm.image.values = s.pm.image.values ∧
    t.pm.image.checkwordPasses = (s.pm.image.checkwordPasses && !s.pm.saving) ∧
    (s.sc.port = none → t.medium = s.medium) ∧
    (∀ agent logical phys d, s.sc.port = some ⟨agent, .read logical phys, d⟩ → t.medium = s.medium) ∧
    (∀ agent job logical phys bytes d, s.sc.port = some ⟨agent, .program job logical phys bytes, d⟩ →
      t.medium = { s.medium with unknown := t.medium.unknown } ∧
      ∀ x, x ∈ t.medium.unknown ↔ x = phys ∨ x ∈ s.medium.unknown) ∧
    (∀ agent block d, s.sc.port = some ⟨agent, .erase block, d⟩ →
      t.medium = { s.medium with unknown := t.medium.unknown } ∧
      ∀ x, x ∈ t.medium.unknown ↔ x / 16 = block ∨ x ∈ s.medium.unknown) ∧
    (∀ agent src dst d, s.medium.wf = true → s.sc.port = some ⟨agent, .copy src dst, d⟩ →
      let erased := src ∉ s.medium.unknown ∧ ∀ i, i < 512 → readByte s.medium.cells (src * 512 + i) = 0xFF
      t.medium = { s.medium with unknown := t.medium.unknown } ∧
      (erased → t.medium = s.medium) ∧
      (¬erased → ∀ x, x ∈ t.medium.unknown ↔ x = dst ∨ x ∈ s.medium.unknown)) ∧
    (∀ agent number sections d, s.medium.wf = true → s.sc.port = some ⟨agent, .mark number sections, d⟩ →
      t.medium = { s.medium with cells := t.medium.cells } ∧
      ∀ a, (∀ x ∈ sections, a ≠ x * 512 + 510) → readByte t.medium.cells a = readByte s.medium.cells a) ∧
    (∀ agent change d, s.sc.port = some ⟨agent, .mapWrite change, d⟩ →
      let map := changeMap change s.sc.map
      let written := { map with states := map.states.map (fun x => if x = .target then .spare else x) }
      let one := s.medium.copy1
      let two := s.medium.copy2
      let above := fun c : MapCopy => if c.valid then c.generation + 1 else 1
      let first := ∃ passes, t.medium = { s.medium with copy1 := ⟨above two, written, passes⟩ }
      let second := ∃ passes, t.medium = { s.medium with copy2 := ⟨above one, written, passes⟩ }
      let ahead := (two.generation - one.generation).toNat
      (first ∨ second) ∧ (s.sc.mapRetry = some .first → first) ∧ (s.sc.mapRetry = some .second → second) ∧
      (s.sc.mapRetry = none →
        (one.valid = true → two.valid = false → second) ∧ (one.valid = false → first) ∧
        (one.valid = true → two.valid = true →
          (1 ≤ ahead ∧ ahead ≤ 2147483647 → first) ∧ (2147483649 ≤ ahead → second)))) ∧
    exec .powerOn s = exec .powerOn t

/-- The model's choices (assumption log 1, 3, 4, 5): a part without power does nothing until POWER ON.
Before the timers run no periodic command has its moment, and a row that names a bound is either its whole step
or nothing. A completion of no operation, a second end of the load and an end of no rebuild do nothing, the end of a
rebuild that an accepted RESTART has given up among them (assumption log 53), and so does a queued command that CX may
not take or that does not head the queue (assumption log 4). From the acceptance of RESTART to the reset whatever the
line brings is passed over, without reply, FRAME_ERRORS or effect on LI, CX takes no command and no frame is
captured (R184, R135); that no relocation starts and that the end of a load still running does nothing are the model's
readings (assumption logs 64 and 48). -/
def Obligations.CommandsOutsideTheirMoment : Prop :=
  (∀ (c : Instr) (s : State), s.powered = false → c ≠ .powerOn → exec c s = .next s) ∧
  (∀ (i : AxleNo) (g : Truck) (v : SandDir) (a b r : Reading) (s : State),
     let windowRows := [Instr.locked i a b, .quietSilence i a b, .implausibleFault i a b,
       .sensorFaultTime i a b, .holdTimeEnd g a b, .episodeTimeout g a b, .lockoutEnd g a b,
       .sandMaxTime v a b, .sandRestEnd v a b, .airFault g a b]
     let pipeRows := [Instr.rateTrigger r, .bpSensorFault r, .emergencyRecovery r]
     (∀ c ∈ windowRows, exec c s = .next s ∨ exec c s = exec (.windowClose a b) s) ∧
     (∀ c ∈ pipeRows, exec c s = .next s ∨ exec c s = exec (.bpSample r) s) ∧
     (exec .linkLoss s = .next s ∨ exec .linkLoss s = exec .blendRun s) ∧
     (exec .recordEnd s = .next s ∨ exec .recordEnd s = exec .capture s) ∧
     (s.timersRunning = false → ∀ c ∈ windowRows ++ pipeRows ++ [.windowClose a b, .adhesionRecovery,
       .bpSample r, .blendRun, .linkLoss, .thermalUpdate, .capture, .recordEnd], exec c s = .next s)) ∧
  (∀ (ok : Bool) (o : MediumOutcome) (reads : List (Nat × MediumOutcome)) (results : List (MediumOutcome × Bool)) (s : State),
     (s.sc.port = none → ∀ c ∈ [Instr.programComplete ok, .markProgramComplete ok, .eraseComplete ok,
       .copyComplete o ok, .mapWriteComplete ok, .readComplete o], exec c s = .next s) ∧
     (s.cx.loadEnded = true → exec .parameterLoadEnd s = .next s) ∧
     (rebuilding s = false → exec (.rebuildEnd reads results) s = .next s) ∧
     (s.li.tx = none → exec .frameSent s = .next s) ∧
     (s.pm.saving = false → exec (.saveComplete ok) s = .next s) ∧
     (closingEnded s = false → exec .resetProceeds s = .next s)) ∧
  (∀ q ∈ queuedRows, ∀ s : State, (cxMayTake s = false ∨ s.li.queue = [] ∨
     (∃ c, s.li.queue.head? = some c ∧ c.kind ≠ q.1)) → exec q.2.2 s = .next s) ∧
  (∀ (bytes : List Byte) (after : Byte) (s : State), s.li.closing = true →
     (∀ c ∈ [Instr.cycleDemand bytes, .queuedCommandArrival bytes, .clearOverrun bytes, .restart bytes,
       .frameDiscard bytes, .frameGap bytes after, .capture, .recordEnd, .parameterLoadEnd, .relocationStart],
       exec c s = .next s) ∧
     ∀ q ∈ queuedRows, exec q.2.2 s = .next s)

/-! ## AM -/

/-- A tachometer edge is counted, saturating at 255, and timestamped with the timer's value at it; an edge of
a FAULTED axle is neither (R1), nor is one before the timers run (R2). Nothing else changes. That the timer moves
on by the edge's delay, whatever becomes of the edge, is the model's choice (assumption log 6). -/
def Obligations.TachometerEdgeIsCounted : Prop :=
  ∀ (i : AxleNo) (delay : Word32) (s : State), s.powered = true →
    ((s.am.axles.get i).sensor = .faulted ∨ s.timersRunning = false →
      exec (.tachometerEdge i delay) s =
        .next { s with am := { s.am with timer := s.am.timer + delay } }) ∧
    (s.timersRunning = true → (s.am.axles.get i).sensor ≠ .faulted →
      exec (.tachometerEdge i delay) s =
        .next { s with am := { s.am with
          timer := s.am.timer + delay
          axles := s.am.axles.set i { s.am.axles.get i with
            edgeCount := min 255 ((s.am.axles.get i).edgeCount + 1)
            windowEdge := some (s.am.timer + delay) } } })

/-- The candidate speed is the quotient of R5 rounded to nearest with halves up and clamped to 16000, and
16000 where the interval is 0; at the limits of the ranges numerator and denominator keep within 64 bits. -/
def Obligations.CandidateSpeedIsRounded : Prop :=
  ∀ k d ppr t : Nat, 0 < ppr →
    let n := k * d * 355 * 360000
    let m := 113 * ppr * t
    (t = 0 → candidateSpeed k d ppr t = 16000) ∧
    candidateSpeed k d ppr t ≤ 16000 ∧
    (0 < t → 2 * m * candidateSpeed k d ppr t ≤ 2 * n + m) ∧
    (0 < t → candidateSpeed k d ppr t < 16000 → 2 * n + m < 2 * m * (candidateSpeed k d ppr t + 1)) ∧
    (k ≤ 255 → d ≤ 1270 → ppr ≤ 240 → t ≤ 250000 → n < 2 ^ 64 ∧ m < 2 ^ 64)

/-- A window close on one axle: the quiet rules, the edge rules with the plausibility check, and nothing on a
FAULTED axle (R3, R4, R6, R7, R9). A window with edges makes a STOPPED or LOCKED axle NORMAL and its quiet count
0 (R4), and every window clears the window's counts (R2). An interval is usable where an earlier edge is stored and the
time from it to the window's last edge, modulo 2^32, is no more than 250000 µs (R1, R4). -/
def Obligations.AxleWindowFollowsTheRules : Prop :=
  (∀ e : Option Word32, usableInterval none e = none ∧ usableInterval e none = none) ∧
  (∀ (stored last : Word32) (t : Nat), usableInterval (some stored) (some last) = some t ↔
    t = (last.toNat + 2 ^ 32 - stored.toNat) % 2 ^ 32 ∧ t ≤ 250000) ∧
  ∀ (d ppr vRef : Nat) (x : SpeedFields),
    let r := axleWindow d ppr vRef x
    let q := min 255 (x.quiet + 1)
    (x.sensor = .faulted → r = x) ∧
    (x.sensor ≠ .faulted → x.edgeCount = 0 →
      r.quiet = q ∧ r.prevSpeed = x.speed ∧ r.implausible = x.implausible ∧ r.edgeCount = 0 ∧
      r.windowEdge = none ∧
      (25 ≤ q → r.speed = 0 ∧ r.measured = false ∧ r.lastEdge = none ∧
        r.sensor = (if 1000 ≤ vRef then .locked else .stopped)) ∧
      (q < 25 → r.speed = x.speed ∧ r.measured = x.measured ∧ r.lastEdge = x.lastEdge ∧
        r.sensor = (if 3 ≤ q ∧ 1000 ≤ vRef then .locked else x.sensor))) ∧
    (x.sensor ≠ .faulted → x.edgeCount ≠ 0 → usableInterval x.lastEdge x.windowEdge = none →
      r.speed = x.speed ∧ r.measured = x.measured ∧ r.implausible = x.implausible ∧ r.quiet = 0 ∧
      r.lastEdge = x.windowEdge ∧ r.prevSpeed = x.speed ∧ r.sensor = .normal ∧ r.edgeCount = 0 ∧
      r.windowEdge = none) ∧
    (∀ t, x.sensor ≠ .faulted → x.edgeCount ≠ 0 → usableInterval x.lastEdge x.windowEdge = some t →
      let c := candidateSpeed x.edgeCount d ppr t
      let wild := x.measured = true ∧ (x.speed + 2000 < c ∨ c + 2000 < x.speed)
      (¬wild → r = ⟨x.windowEdge, c, x.speed, true, 0, 0, .normal, 0, none⟩) ∧
      (wild → x.implausible < 2 →
        r = ⟨x.windowEdge, x.speed, x.speed, true, 0, x.implausible + 1, .normal, 0, none⟩) ∧
      (wild → 2 ≤ x.implausible → r = ⟨none, 0, 0, false, 0, 0, .faulted, 0, none⟩))

/-- WINDOW CLOSE runs AM, SP and CO in that chain (R3, R18, R101), clears the window counts of every axle
(R2), and changes nothing but their records and the notice set. AM's conditions follow the axles: LOCKED_AXLE and
AXLE_FAULT (R13), and STANDSTILL with every axle STOPPED or FAULTED, or, with all six FAULTED, at a fresh ground
speed of 0 (R14). -/
def Obligations.WindowCloseRunsTheChain : Prop :=
  ∀ (a b : Reading) (s : State), s.powered = true → s.timersRunning = true →
    ∃ t, exec (.windowClose a b) s = .next t ∧ t = compose a b (spEvaluate (afterAm s)) ∧
      t = { s with am := t.am, sp := t.sp, co := t.co, cx := { s.cx with notices := t.cx.notices } } ∧
      t.am.timer = s.am.timer ∧
      (∀ i, (s.am.axles.get i).sensor ≠ .faulted →
        (t.am.axles.get i).edgeCount = 0 ∧ (t.am.axles.get i).windowEdge = none) ∧
      (t.am.lockedAxle = true ↔ ∃ i, ((amWindow s).axles.get i).sensor = .locked) ∧
      (t.am.axleFault = true ↔ ∃ i, ((amWindow s).axles.get i).sensor = .faulted) ∧
      ((∃ i, ((amWindow s).axles.get i).sensor ≠ .faulted) → (t.am.standstill = true ↔
        ∀ i, ((amWindow s).axles.get i).sensor = .stopped ∨ ((amWindow s).axles.get i).sensor = .faulted)) ∧
      ((∀ i, ((amWindow s).axles.get i).sensor = .faulted) → (t.am.standstill = true ↔
        s.demand.groundSpeed = some 0 ∧ s.bc.demandAge ≤ 1))

/-- The reference takes a fresh ground speed at once, moves toward the greatest axle speed by at most one
step, and is 0 and invalid with every axle FAULTED (R10, R11). -/
def Obligations.ReferenceFollowsItsSource : Prop :=
  ∀ (a b : Reading) (s : State), s.powered = true → s.timersRunning = true →
    ∃ t, exec (.windowClose a b) s = .next t ∧
      (∀ g, s.demand.groundSpeed = some g → s.bc.demandAge ≤ 1 →
        t.am.refInternal = 10 * g ∧ t.am.refValid = true) ∧
      ((s.demand.groundSpeed = none ∨ 2 ≤ s.bc.demandAge) →
        (∀ i, ((amWindow s).axles.get i).sensor = .faulted) →
        t.am.refInternal = 0 ∧ t.am.refValid = false) ∧
      ((s.demand.groundSpeed = none ∨ 2 ≤ s.bc.demandAge) →
        ∀ v, (∃ i, ((amWindow s).axles.get i).sensor ≠ .faulted ∧ ((amWindow s).axles.get i).speed = v) →
        (∀ i, ((amWindow s).axles.get i).sensor ≠ .faulted → ((amWindow s).axles.get i).speed ≤ v) →
        t.am.refValid = true ∧
        t.am.refInternal =
          (if 10 * v < s.am.refInternal then
            max (10 * v) (s.am.refInternal - s.pm.params.motion.decelLimit)
          else if s.am.refInternal < 10 * v then
            min (10 * v) (s.am.refInternal + s.pm.params.motion.accelLimit)
          else s.am.refInternal))

/-- The window closes at which an axle's sensor state is decided: the third quiet window at 10 km/h or above
makes it LOCKED with its speed held, and the 25th takes its speed to 0 (R7); a third consecutive implausible
candidate makes it FAULTED (R6, R9), and so does a fault time that reaches the sensor-fault time in RUN above
3 km/h, on a LOCKED axle of a relieved truck with a companion turning at the reference (R23, R24). SP raises
AXLE_FAULT where it had not found the axle so. That each row is the whole WINDOW CLOSE is the model's choice
(assumption log 1). That the fault time makes an axle FAULTED also at the evaluation whose step 5 enters LOCKOUT is the
model's reading of R23 and R32 (assumption log 37). -/
def Obligations.AxleSensorRows : Prop :=
  (∀ (i : AxleNo) (a b : Reading) (s : State), s.powered = true → s.timersRunning = true →
     (s.am.axles.get i).sensor ≠ .faulted → (s.am.axles.get i).edgeCount = 0 →
     (2 ≤ (s.am.axles.get i).quiet → (s.am.axles.get i).quiet ≤ 23 → 1000 ≤ reportedRef s.am →
       ∃ t, exec (.locked i a b) s = .next t ∧ exec (.windowClose a b) s = .next t ∧
         ((amWindow s).axles.get i).sensor = .locked ∧
         ((amWindow s).axles.get i).speed = (s.am.axles.get i).speed) ∧
     (24 ≤ (s.am.axles.get i).quiet →
       ∃ t, exec (.quietSilence i a b) s = .next t ∧ exec (.windowClose a b) s = .next t ∧
         ((amWindow s).axles.get i).speed = 0 ∧ ((amWindow s).axles.get i).measured = false ∧
         ((amWindow s).axles.get i).lastEdge = none ∧
         ((amWindow s).axles.get i).sensor = (if 1000 ≤ reportedRef s.am then .locked else .stopped))) ∧
  (∀ (i : AxleNo) (a b : Reading) (u : Nat) (s : State), s.powered = true → s.timersRunning = true →
     (s.am.axles.get i).sensor ≠ .faulted → (s.am.axles.get i).edgeCount ≠ 0 →
     (s.am.axles.get i).measured = true → (s.am.axles.get i).implausible = 2 →
     usableInterval (s.am.axles.get i).lastEdge (s.am.axles.get i).windowEdge = some u →
     (let c := candidateSpeed (s.am.axles.get i).edgeCount (s.pm.params.motion.diameter.get i)
         s.pm.params.motion.ppr u;
       (s.am.axles.get i).speed + 2000 < c ∨ c + 2000 < (s.am.axles.get i).speed) →
     ∃ t, exec (.implausibleFault i a b) s = .next t ∧ exec (.windowClose a b) s = .next t ∧
       (t.am.axles.get i).sensor = .faulted ∧ (t.am.axles.get i).speed = 0 ∧
       (t.am.axles.get i).measured = false ∧ (t.am.axles.get i).lastEdge = none ∧
       ((s.sp.axles.get i).wasFaulted = false → t.cx.notices.getLsbD 0 = true)) ∧
  (∀ (i j : AxleNo) (a b : Reading) (s : State), s.powered = true → s.timersRunning = true →
     s.cx.mode = .run → lowSpeed (amWindow s) = false →
     ((amWindow s).axles.get i).sensor = .locked →
     ((s.sp.trucks.get (truckOf i)).state = .relieve ∨ (s.sp.trucks.get (truckOf i)).state = .hold) →
     j ≠ i → truckOf j = truckOf i → ((amWindow s).axles.get j).sensor = .normal →
     creepOf (reportedRef (amWindow s)) ((amWindow s).axles.get j).speed ≤ s.pm.params.slide.creepOff →
     s.pm.params.slide.sensorFaultTime ≤ (s.sp.axles.get i).faultTime + 10 →
     ∃ t, exec (.sensorFaultTime i a b) s = .next t ∧ exec (.windowClose a b) s = .next t ∧
       (t.am.axles.get i).sensor = .faulted ∧ (t.am.axles.get i).speed = 0 ∧
       (t.sp.axles.get i).creep = 0 ∧ (t.sp.axles.get i).decel = 0 ∧
       (t.sp.axles.get i).sliding = false ∧ (t.sp.axles.get i).faultTime = 0 ∧
       ((s.sp.axles.get i).wasFaulted = false → t.cx.notices.getLsbD 0 = true))

/-! ## SP -/

/-- Slide detection on an axle that is not FAULTED: decel, creep, the decel-hit count and the sliding flag,
and the low-speed inhibit (R19 to R22). A window close leaves these fields on each axle from AM's results of the same
window (R18). A LOCKED axle of a truck in RELIEVE or HOLD with a NORMAL companion of small creep has its fault time
advanced in RUN outside the low-speed inhibit, and is FAULTED where that reaches the sensor-fault time; any other has
fault time 0 (R23), and so has one whose truck enters LOCKOUT (R32). The slide fields of a FAULTED axle are 0 (R24).
That step 3 tests the fault time before step 5 enters LOCKOUT, and that outside RUN it is 0, are the model's readings
(assumption logs 37, 51). -/
def Obligations.SlideDetectionFollowsTheRules : Prop :=
  (∀ (p : SlideParams) (vRef : Nat) (x : SpeedFields) (y : SlideFields), x.sensor ≠ .faulted →
    (let r := slideAxle p true vRef x y;
      r.decel = (x.prevSpeed : Int) - x.speed ∧ r.creep = 0 ∧ r.decelHits = 0 ∧ r.sliding = false ∧
      r.faultTime = 0) ∧
    (let r := slideAxle p false vRef x y;
      r.decel = (x.prevSpeed : Int) - x.speed ∧ r.creep = min 1000 ((vRef - x.speed) * 1000 / vRef) ∧
      r.decelHits = (if (p.decelOn : Int) ≤ r.decel then min 2 (y.decelHits + 1) else 0) ∧
      (r.sliding = true ↔
        (p.creepOn ≤ r.creep ∨ (vRef < 1500 ∧ (p.lowSpeed : Int) ≤ (vRef : Int) - x.speed) ∨
          r.decelHits = 2 ∨ x.sensor = .locked) ∨
        (y.sliding = true ∧ ¬(r.creep ≤ p.creepOff ∧ r.decel ≤ 0))))) ∧
  (∀ (a b : Reading) (s : State), s.powered = true → s.timersRunning = true →
    ∃ t low, exec (.windowClose a b) s = .next t ∧
      (low = true ↔ reportedRef t.am < 300 ∨ t.am.refValid = false) ∧
      ∀ i : AxleNo,
        let p := s.pm.params.slide
        let x := (amWindow s).axles.get i
        let y := s.sp.axles.get i
        let z := t.sp.axles.get i
        let d := slideAxle p low (reportedRef t.am) x y
        let before := (s.sp.trucks.get (truckOf i)).state
        let counts := s.cx.mode = .run ∧ low = false ∧ x.sensor = .locked ∧ (before = .relieve ∨ before = .hold) ∧
          ∃ j, j ≠ i ∧ truckOf j = truckOf i ∧ (t.am.axles.get j).sensor = .normal ∧
            (t.sp.axles.get j).creep ≤ p.creepOff
        ((t.am.axles.get i).sensor = .faulted ↔
          x.sensor = .faulted ∨ (counts ∧ p.sensorFaultTime ≤ y.faultTime + 10)) ∧
        ((t.am.axles.get i).sensor = .faulted → z = ⟨0, 0, 0, false, 0, true⟩) ∧
        ((t.am.axles.get i).sensor ≠ .faulted → t.am.axles.get i = x ∧ z.creep = d.creep ∧ z.decel = d.decel ∧
          z.decelHits = d.decelHits ∧ z.sliding = d.sliding ∧
          (counts → (t.sp.trucks.get (truckOf i)).state ≠ .lockout → z.faultTime = y.faultTime + 10) ∧
          (¬counts ∨ (t.sp.trucks.get (truckOf i)).state = .lockout → z.faultTime = 0)))

/-- The transitions of a protected truck in RUN, in the order of R25: the low-speed inhibit, the episode
time-out, and the rule of the present state (R19, R26 to R32). An unprotected truck in RUN comes to IDLE and
stays there (R35), and outside RUN every truck is IDLE with L_g absent and its timers 0 (R25); neither moves the
cap. That outside RUN the sand demand is lowered with them, also at the first evaluation after an accepted RESTART, is
the model's choice (assumption log 49). A window close takes each truck through this step, its protected flag
brought up to date (R35), a slide being present where an axle that is not FAULTED slides (R25), and E_onset formed from
the achieved effort, taken as 0 from demand age 4 on, and the air effort of the cylinder pressure CO held (R26, R29).
It then leaves the cap by R34 and the conditions RELIEVE_g and LOCKOUT_g by R40. -/
def Obligations.TruckTransitionsFollowTheRules : Prop :=
  (∀ (a b : Reading) (g : Truck) (s : State), s.powered = true → s.timersRunning = true →
    let p := s.pm.params.slide
    let blend := s.pm.params.blend
    let pressure := (s.co.trucks.get g).measured
    let onset := min 6000 ((if 4 ≤ s.bc.demandAge then 0 else (s.demand.groups.get g).achieved) +
      (if pressure ≤ blend.pTouch then 0 else (pressure - blend.pTouch) * blend.kAir / 100))
    ∃ t low slide kept, exec (.windowClose a b) s = .next t ∧
      (low = true ↔ reportedRef t.am < 300 ∨ t.am.refValid = false) ∧
      (slide = true ↔ ∃ i, truckOf i = g ∧ (t.am.axles.get i).sensor ≠ .faulted ∧
        (t.sp.axles.get i).sliding = true) ∧
      (kept = true ↔ ∃ i, truckOf i = g ∧ (t.am.axles.get i).sensor ≠ .faulted) ∧
      (let u := truckStep p (s.cx.mode == .run) low slide onset { s.sp.trucks.get g with isProtected := kept }
       t.sp.trucks.get g = { u with
        cap := if kept = false then
            max (p.nominalCap * p.floor / 1000) (p.nominalCap * p.unprotectedFactor / 1000)
          else if s.cx.mode = .run then u.cap else p.nominalCap }) ∧
      (t.sp.relieveCond.get g = true ↔
        (t.sp.trucks.get g).state = .relieve ∨ (t.sp.trucks.get g).state = .hold) ∧
      (t.sp.lockoutCond.get g = true ↔ (t.sp.trucks.get g).state = .lockout)) ∧
  (∀ (p : SlideParams) (low slide : Bool) (e : Nat) (t : TruckRecord),
    let idle := { t with
      state := CorrState.idle, episode := 0, holdTimer := 0, lockoutTimer := 0, limit := none
      sandDemand := false }
    (t.isProtected = false → t.state ≠ .idle → truckStep p true low slide e t = idle) ∧
    (t.isProtected = false → t.state = .idle → truckStep p true low slide e t = t) ∧
    truckStep p false low slide e t = idle) ∧
  ∀ (p : SlideParams) (slide : Bool) (e : Nat) (t : TruckRecord), t.isProtected = true →
    let r := fun (low : Bool) => truckStep p true low slide e t
    let cut := max (p.nominalCap * p.floor / 1000) (min t.cap (e * p.adhesionCut / 1000))
    let late := p.corrMax ≤ t.episode + 10
    (t.state = .idle → slide = true →
      r false = { t with
        state := .relieve, episode := 0, holdTimer := 0, limit := some (e * p.relieveFactor / 1000)
        cap := cut, sandDemand := true } ∧ r true = t) ∧
    (t.state = .idle → slide = false → r false = t) ∧
    (t.state = .relieve ∨ t.state = .hold ∨ t.state = .restore →
      (r true).state = .idle ∧ (r true).limit = none ∧ (r true).cap = t.cap ∧
        (r true).sandDemand = false ∧ (r true).episode = 0 ∧ (r true).holdTimer = 0 ∧
      (late → (r false).state = .lockout ∧ (r false).limit = none ∧ (r false).cap = t.cap ∧
        (r false).episode = t.episode + 10 ∧ (r false).lockoutTimer = 0 ∧
        (r false).sandDemand = t.sandDemand)) ∧
    (t.state = .relieve → ¬late → slide = true → r false = { t with episode := t.episode + 10 }) ∧
    (t.state = .relieve → ¬late → slide = false →
      r false = { t with state := .hold, episode := t.episode + 10, holdTimer := 0 }) ∧
    (t.state = .hold ∨ t.state = .restore → ¬late → slide = true →
      (r false).state = .relieve ∧ (r false).cap = cut ∧ (r false).holdTimer = 0 ∧
      (r false).episode = t.episode + 10 ∧ (r false).sandDemand = t.sandDemand ∧
      ∀ l, t.limit = some l → (r false).limit = some (min l (e * p.relieveFactor / 1000))) ∧
    (t.state = .hold → ¬late → slide = false →
      r false = { t with
        state := if p.holdTime ≤ t.holdTimer + 10 then .restore else .hold
        episode := t.episode + 10, holdTimer := t.holdTimer + 10 }) ∧
    (∀ l, t.limit = some l → t.state = .restore → ¬late → slide = false →
      if t.cap ≤ min 6000 (l + p.restoreStep) then
        (r false).state = .idle ∧ (r false).limit = none ∧ (r false).cap = t.cap ∧
          (r false).sandDemand = false ∧ (r false).episode = 0 ∧ (r false).holdTimer = 0
      else r false = { t with episode := t.episode + 10, limit := some (min 6000 (l + p.restoreStep)) }) ∧
    (t.state = .lockout → ∀ low,
      if p.lockoutTime ≤ t.lockoutTimer + 10 then
        (r low).state = .idle ∧ (r low).lockoutTimer = 0 ∧ (r low).episode = 0 ∧
          (r low).holdTimer = 0 ∧ (r low).limit = none ∧ (r low).sandDemand = false ∧ (r low).cap = t.cap
      else r low = { t with lockoutTimer := t.lockoutTimer + 10 })

/-- The window closes at which a timer of SP reaches its bound: HOLD TIME END (R28), EPISODE TIMEOUT (R31) and
LOCKOUT END (R32) of a protected truck in RUN, the entry to LOCKOUT making the fault times of its axles 0 (R32); and
of a sand valve, whose open time takes it to RESTING while still requested and whose rest time to CLOSED (R39), the row
SAND MAX TIME being stated of the host's request. At every window close a valve's request holds with the direction its
own, STANDSTILL not holding, and the sand demand of a truck or the host's request, the latter not from demand age 4 on
(R38); the valve opens from CLOSED where it holds, closes where it does not, and advances its open or rest time below
their bounds (R39), and SANDING holds while one is OPEN (R40). That each row is the whole WINDOW CLOSE is the model's
choice (assumption log 1). -/
def Obligations.SlideTimerRows : Prop :=
  (∀ (g : Truck) (a b : Reading) (s : State), s.powered = true → s.timersRunning = true →
     s.cx.mode = .run → protectedBy (windowAxles s) g = true →
     (lowSpeed (amWindow s) = false → (s.sp.trucks.get g).state = .hold → windowSlide s g = false →
       (s.sp.trucks.get g).episode + 10 < s.pm.params.slide.corrMax →
       s.pm.params.slide.holdTime ≤ (s.sp.trucks.get g).holdTimer + 10 →
       ∃ t, exec (.holdTimeEnd g a b) s = .next t ∧ exec (.windowClose a b) s = .next t ∧
         (t.sp.trucks.get g).state = .restore ∧ (t.sp.trucks.get g).limit = (s.sp.trucks.get g).limit ∧
         (t.sp.trucks.get g).cap = (s.sp.trucks.get g).cap) ∧
     (lowSpeed (amWindow s) = false →
       ((s.sp.trucks.get g).state = .relieve ∨ (s.sp.trucks.get g).state = .hold ∨
         (s.sp.trucks.get g).state = .restore) →
       s.pm.params.slide.corrMax ≤ (s.sp.trucks.get g).episode + 10 →
       ∃ t, exec (.episodeTimeout g a b) s = .next t ∧ exec (.windowClose a b) s = .next t ∧
         (t.sp.trucks.get g).state = .lockout ∧ (t.sp.trucks.get g).limit = none ∧
         (t.sp.trucks.get g).lockoutTimer = 0 ∧ (t.sp.trucks.get g).cap = (s.sp.trucks.get g).cap ∧
         t.sp.lockoutCond.get g = true ∧ t.cx.notices.getLsbD 1 = true ∧
         ∀ i, truckOf i = g → (t.sp.axles.get i).faultTime = 0) ∧
     ((s.sp.trucks.get g).state = .lockout →
       s.pm.params.slide.lockoutTime ≤ (s.sp.trucks.get g).lockoutTimer + 10 →
       ∃ t, exec (.lockoutEnd g a b) s = .next t ∧ exec (.windowClose a b) s = .next t ∧
         (t.sp.trucks.get g).state = .idle ∧ (t.sp.trucks.get g).lockoutTimer = 0 ∧
         (t.sp.trucks.get g).sandDemand = false ∧ t.sp.lockoutCond.get g = false)) ∧
  (∀ (v : SandDir) (a b : Reading) (s : State), s.powered = true → s.timersRunning = true →
     ((valveOf s.sp v).state = .opened →
       s.demand.direction = (match v with
         | .forward => Direction.forward
         | .reverse => Direction.reverse) →
       (usedDemand s).hostSand = true → (amWindow s).standstill = false →
       s.pm.params.slide.sandMax * 1000 ≤ (valveOf s.sp v).openTime + 10 →
       ∃ t, exec (.sandMaxTime v a b) s = .next t ∧ exec (.windowClose a b) s = .next t ∧
         (valveOf t.sp v).state = .resting ∧ (valveOf t.sp v).restTime = 0) ∧
     ((valveOf s.sp v).state = .resting →
       s.pm.params.slide.sandRest * 1000 ≤ (valveOf s.sp v).restTime + 10 →
       ∃ t, exec (.sandRestEnd v a b) s = .next t ∧ exec (.windowClose a b) s = .next t ∧
         (valveOf t.sp v).state = .closed)) ∧
  (∀ (a b : Reading) (s : State), s.powered = true → s.timersRunning = true →
    ∃ t, exec (.windowClose a b) s = .next t ∧
      (t.sp.sanding = true ↔ ∃ v, (valveOf t.sp v).state = .opened) ∧
      ∀ v : SandDir,
        let p := s.pm.params.slide
        let old := valveOf s.sp v
        let new := valveOf t.sp v
        let request := s.demand.direction = (match v with
            | .forward => Direction.forward
            | .reverse => Direction.reverse) ∧ t.am.standstill = false ∧
          ((∃ g, (t.sp.trucks.get g).sandDemand = true) ∨
            (s.demand.hostSand = true ∧ s.bc.demandAge < 4))
        (old.state = .closed → request → new = ⟨.opened, 0, old.restTime⟩) ∧
        (old.state = .closed → ¬request → new = old) ∧
        (old.state = .opened → ¬request → new = ⟨.closed, 0, old.restTime⟩) ∧
        (old.state = .opened → request →
          (old.openTime + 10 < p.sandMax * 1000 → new = { old with openTime := old.openTime + 10 }) ∧
          (p.sandMax * 1000 ≤ old.openTime + 10 → new.state = .resting ∧ new.restTime = 0)) ∧
        (old.state = .resting →
          (old.restTime + 10 < p.sandRest * 1000 → new = { old with restTime := old.restTime + 10 }) ∧
          (p.sandRest * 1000 ≤ old.restTime + 10 → new.state = .closed)))

/-- ADHESION RECOVERY raises the cap of each protected IDLE truck in RUN by the recovery step, up to the
nominal cap, and changes nothing else (R33); it, the cuts and the mode keep every cap between the floor
effort and the nominal cap (R34). -/
def Obligations.AdhesionRecoveryRaisesCaps : Prop :=
  (∀ s : State, s.powered = true → s.timersRunning = true →
    ∃ t, exec .adhesionRecovery s = .next t ∧
      t = { s with sp := { s.sp with trucks := t.sp.trucks } } ∧
      ∀ g, t.sp.trucks.get g =
        (if s.cx.mode = .run ∧ (s.sp.trucks.get g).isProtected = true ∧ (s.sp.trucks.get g).state = .idle then
          { s.sp.trucks.get g with
            cap := min s.pm.params.slide.nominalCap ((s.sp.trucks.get g).cap +
              s.pm.params.slide.recoveryRate * s.pm.params.slide.nominalCap / 1000) }
        else s.sp.trucks.get g)) ∧
  (∀ (p : SlideParams) (run low slide : Bool) (e : Nat) (t : TruckRecord),
    p.floor ≤ 1000 → p.unprotectedFactor ≤ 1000 →
    p.nominalCap * p.floor / 1000 ≤ t.cap → t.cap ≤ p.nominalCap →
    p.nominalCap * p.floor / 1000 ≤ (capStep p run (truckStep p run low slide e t)).cap ∧
      (capStep p run (truckStep p run low slide e t)).cap ≤ p.nominalCap ∧
    p.nominalCap * p.floor / 1000 ≤ (recoverCap p run t).cap ∧ (recoverCap p run t).cap ≤ p.nominalCap)

/-! ## CO -/

/-- The outputs a composition leaves: the sampled pressures (R102); the moved-in-setup latch with its notice
(R112); PNEUMATIC for its causes and EP otherwise (R103, R111); a PNEUMATIC truck with the setpoint withdrawn and
the dump valve open in RELIEVE and HOLD; an EP truck commanded 0 in RELIEVE and HOLD whatever else is asked, the
lesser of the base and the RESTORE limit in RESTORE, P_em in emergency, and P_auto or P_ind outside RUN (R105 to
R109), with its deviation timer advanced or 0 (R110). That the timer of a truck that turns PNEUMATIC is 0 at that very
composition, by R111 against the table of 6.12, is the model's reading (assumption log 30). -/
def Obligations.CompositionDrivesTheCylinders : Prop :=
  ∀ (a b : Reading) (s : State), s.powered = true → s.timersRunning = true →
    ∃ t, exec (.windowClose a b) s = .next t ∧
      t.co.movedInSetup = (s.co.movedInSetup || (s.cx.mode == .setup && !t.am.standstill)) ∧
      (s.co.movedInSetup = false → t.co.movedInSetup = true → t.cx.notices.getLsbD 11 = true) ∧
      ∀ g : Truck,
      let o := t.co.trucks.get g
      let old := s.co.trucks.get g
      let st := (t.sp.trucks.get g).state
      let p := s.pm.params.blend
      let base := if s.bpm.emergency then p.pEm
        else min p.pFs (max (if s.cx.mode = .run then (s.bc.trucks.get g).pBlend else s.bc.pAuto)
          s.demand.independent)
      (∀ x : Int, (match g with | .a => a | .b => b) = .kPa x →
        (0 ≤ x ∧ x ≤ 1050 → o.measured = min 1000 x.toNat ∧ o.measuredValid = true) ∧
        (x < 0 ∨ 1050 < x → o.measured = old.measured ∧ o.measuredValid = false)) ∧
      ((match g with | .a => a | .b => b) = .openCircuit →
        o.measured = old.measured ∧ o.measuredValid = false) ∧
      (s.cx.mode = .startup ∨ s.bpm.sensorFault = true ∨ old.airFault = true ∨
        t.co.movedInSetup = true → o.mode = .pneumatic) ∧
      (s.cx.mode ≠ .startup → s.bpm.sensorFault = false → o.airFault = false →
        t.co.movedInSetup = false → o.mode = .ep) ∧
      (o.mode = .pneumatic →
        o.pCmd = none ∧ o.deviation = 0 ∧ (o.dump = true ↔ st = .relieve ∨ st = .hold)) ∧
      (o.mode = .ep → o.dump = false ∧
        (s.cx.mode = .run → st = .relieve ∨ st = .hold → o.pCmd = some 0) ∧
        (s.cx.mode = .run → st = .idle ∨ st = .lockout → o.pCmd = some base) ∧
        (∀ l, s.cx.mode = .run → st = .restore → (t.sp.trucks.get g).limit = some l →
          let achieved := ((usedDemand s).groups.get g).achieved
          o.pCmd = some (if achieved < l then
            min base (p.pTouch + ((l - achieved) * 100 + p.kAir - 1) / p.kAir) else 0)) ∧
        (s.cx.mode = .setup → o.pCmd = some base) ∧
        (∀ c, o.pCmd = some c → o.deviation =
          (let tol := s.pm.params.supervision.airFaultTolerance
           if o.measuredValid = false ∨ c + tol < o.measured ∨ o.measured + tol < c then
            old.deviation + 10 else 0)))

/-- The composition at which an EP truck's deviation timer reaches the air-fault time sets its latch, turns it
PNEUMATIC with its setpoint withdrawn, and raises AIR_FAULT (R110, R111). That the row is the whole WINDOW CLOSE is
the model's choice (assumption log 1), and so is the deviation timer's 0 at that composition, by R111 against the
table of 6.12 (assumption log 30). -/
def Obligations.AirFaultTurnsPneumatic : Prop :=
  ∀ (g : Truck) (a b : Reading) (s : State), s.powered = true → s.timersRunning = true →
    s.cx.mode ≠ .startup → s.bpm.sensorFault = false → (s.co.trucks.get g).airFault = false →
    s.co.movedInSetup = false → (s.cx.mode = .setup → (amWindow s).standstill = true) →
    (deviates s.pm.params.supervision.airFaultTolerance (composeCommand (spEvaluate (afterAm s)) g)
      (sampleCylinder (match g with | .a => a | .b => b) (s.co.trucks.get g)) = true) →
    s.pm.params.supervision.airFaultTime ≤ (s.co.trucks.get g).deviation + 10 →
    ∃ t, exec (.airFault g a b) s = .next t ∧ exec (.windowClose a b) s = .next t ∧
      (t.co.trucks.get g).airFault = true ∧ (t.co.trucks.get g).mode = .pneumatic ∧
      (t.co.trucks.get g).pCmd = none ∧ (t.co.trucks.get g).deviation = 0 ∧
      t.cx.notices.getLsbD 3 = true

/-- Every step keeps the outputs in agreement with the modes: a PNEUMATIC truck has no setpoint and an EP
truck no open dump valve (R108, R109). -/
def Obligations.OutputsAgreeKept : Prop :=
  ∀ s t : State, (∀ g, outputsAgree (s.co.trucks.get g) = true) → step s = .next t →
    ∀ g, outputsAgree (t.co.trucks.get g) = true

/-! ## BPM -/

/-- A sample of the brake pipe: the history, P_bp, the counts, the reduction, the emergency latch with its notice,
and the recovery timer, which advances by 10 while its condition holds and is 0 otherwise, clearing the latch at
10000; an invalid one holds P_bp, from which the reduction follows all the same, counts up to 5 and ends the rate
hits (R43 to R49). Nothing but the brake pipe
record and the notice set changes. That BP_SENSOR_FAULT is raised as the latch goes from clear to set is the
model's reading (assumption log 38). -/
def Obligations.PipeSampleFollowsTheRules : Prop :=
  (∀ (p : Int) (s : State), s.powered = true → s.timersRunning = true → 0 ≤ p → p ≤ 1050 →
    let q := min 1000 p.toNat
    let par := s.pm.params.pipe
    let r := min par.rFs (par.pRel - q)
    ∃ t, exec (.bpSample (.kPa p)) s = .next t ∧
      t = { s with bpm := t.bpm, cx := { s.cx with notices := t.cx.notices } } ∧
      t.bpm.pressure = q ∧ t.bpm.invalidCount = 0 ∧ t.bpm.sensorFault = s.bpm.sensorFault ∧
      t.bpm.history = (s.bpm.history ++ [s.bpm.pressure]).drop (s.bpm.history.length + 1 - 10) ∧
      t.bpm.reduction = (if r < par.rDb then 0 else r) ∧
      t.bpm.rateHits = (if t.bpm.history.length = 10 ∧ q + par.emFall ≤ t.bpm.history.headD 0 then
        min 2 (s.bpm.rateHits + 1) else 0) ∧
      (q < par.emThreshold ∨ s.demand.hostEmergency = true ∨ t.bpm.rateHits = 2 →
        t.bpm.emergency = true ∧ t.bpm.recovery = 0 ∧
        t.cx.notices = (if s.bpm.emergency then s.cx.notices else s.cx.notices ||| 0x0040)) ∧
      (¬(q < par.emThreshold ∨ s.demand.hostEmergency = true ∨ t.bpm.rateHits = 2) →
        t.cx.notices = s.cx.notices ∧
        (s.bpm.emergency = false → t.bpm.emergency = false ∧ t.bpm.recovery = s.bpm.recovery) ∧
        (s.bpm.emergency = true →
          (par.pRecover ≤ q ∧ s.am.standstill = true ∧ s.bpm.sensorFault = false →
            if 10000 ≤ s.bpm.recovery + 10 then t.bpm.emergency = false ∧ t.bpm.recovery = 0
            else t.bpm.emergency = true ∧ t.bpm.recovery = s.bpm.recovery + 10) ∧
          (¬(par.pRecover ≤ q ∧ s.am.standstill = true ∧ s.bpm.sensorFault = false) →
            t.bpm.emergency = true ∧ t.bpm.recovery = 0)))) ∧
  (∀ (reading : Reading) (s : State), s.powered = true → s.timersRunning = true →
    (reading = .openCircuit ∨ ∃ p : Int, reading = .kPa p ∧ (p < 0 ∨ 1050 < p)) →
    let par := s.pm.params.pipe
    let r := min par.rFs (par.pRel - s.bpm.pressure)
    let triggered := s.bpm.pressure < par.emThreshold ∨ s.demand.hostEmergency = true
    let faulted := if s.bpm.sensorFault = false ∧ 4 ≤ s.bpm.invalidCount then s.cx.notices ||| 0x0010 else s.cx.notices
    ∃ t, exec (.bpSample reading) s = .next t ∧
      t = { s with bpm := t.bpm, cx := { s.cx with notices := t.cx.notices } } ∧
      t.bpm.pressure = s.bpm.pressure ∧ t.bpm.invalidCount = min 5 (s.bpm.invalidCount + 1) ∧
      t.bpm.reduction = (if r < par.rDb then 0 else r) ∧ t.bpm.rateHits = 0 ∧
      t.bpm.history = (s.bpm.history ++ [s.bpm.pressure]).drop (s.bpm.history.length + 1 - 10) ∧
      t.bpm.sensorFault = (s.bpm.sensorFault || decide (4 ≤ s.bpm.invalidCount)) ∧
      t.cx.notices = (if s.bpm.emergency = false ∧ triggered then faulted ||| 0x0040 else faulted) ∧
      (triggered → t.bpm.emergency = true ∧ t.bpm.recovery = 0) ∧
      (¬triggered →
        (s.bpm.emergency = false → t.bpm.emergency = false ∧ t.bpm.recovery = s.bpm.recovery) ∧
        (s.bpm.emergency = true →
          (par.pRecover ≤ s.bpm.pressure ∧ s.am.standstill = true ∧ t.bpm.sensorFault = false →
            if 10000 ≤ s.bpm.recovery + 10 then t.bpm.emergency = false ∧ t.bpm.recovery = 0
            else t.bpm.emergency = true ∧ t.bpm.recovery = s.bpm.recovery + 10) ∧
          (¬(par.pRecover ≤ s.bpm.pressure ∧ s.am.standstill = true ∧ t.bpm.sensorFault = false) →
            t.bpm.emergency = true ∧ t.bpm.recovery = 0))))

/-- The fifth consecutive invalid sample holds P_bp, ends the rate hits and sets the sensor-fault latch with
its notice (R44); the second consecutive sample that shows the emergency fall over ten latches the emergency
(R47, R48); and the sample at which the recovery timer reaches 10000 clears the latch (R49), stated where no rate
hit stands. That each row is the whole BP SAMPLE is the model's choice (assumption log 1). -/
def Obligations.PipeTriggerRows : Prop :=
  ((∀ (r : Reading) (s : State), s.powered = true → s.timersRunning = true → validReading r = none →
     s.bpm.invalidCount = 4 → s.bpm.sensorFault = false →
     ∃ t, exec (.bpSensorFault r) s = .next t ∧ exec (.bpSample r) s = .next t ∧
       t.bpm.sensorFault = true ∧ t.bpm.invalidCount = 5 ∧ t.bpm.pressure = s.bpm.pressure ∧
       t.bpm.rateHits = 0 ∧ t.cx.notices.getLsbD 4 = true) ∧
   (∀ (r : Reading) (q : Nat) (s : State), s.powered = true → s.timersRunning = true →
     validReading r = some q → 9 ≤ s.bpm.history.length →
     q + s.pm.params.pipe.emFall ≤ (pushHistory s.bpm.history s.bpm.pressure).headD 0 →
     1 ≤ s.bpm.rateHits →
     ∃ t, exec (.rateTrigger r) s = .next t ∧ exec (.bpSample r) s = .next t ∧
       t.bpm.rateHits = 2 ∧ t.bpm.emergency = true ∧ t.bpm.recovery = 0 ∧
       (s.bpm.emergency = false → t.cx.notices.getLsbD 6 = true))) ∧
  (∀ (r : Reading) (q : Nat) (s : State), s.powered = true → s.timersRunning = true →
     validReading r = some q → s.pm.params.pipe.pRecover ≤ q → s.pm.params.pipe.emThreshold ≤ q →
     s.am.standstill = true → s.demand.hostEmergency = false → s.bpm.sensorFault = false →
     s.bpm.rateHits = 0 → s.bpm.emergency = true → 9990 ≤ s.bpm.recovery →
     ∃ t, exec (.emergencyRecovery r) s = .next t ∧ exec (.bpSample r) s = .next t ∧
       t.bpm.emergency = false ∧ t.bpm.recovery = 0 ∧ t.bpm.pressure = q ∧
       t = { s with bpm := t.bpm })

/-- Whatever the command, the emergency latch clears only at a sample, with the locomotive at standstill, the
pipe at P_recover, no host request, no sensor fault and the recovery timer at its end (R49). -/
def Obligations.EmergencyClearsOnlyByRecovery : Prop :=
  ∀ (c : Instr) (s t : State), exec c s = .next t → s.bpm.emergency = true → t.bpm.emergency = false →
    (∃ r, c = .bpSample r ∨ c = .rateTrigger r ∨ c = .bpSensorFault r ∨ c = .emergencyRecovery r) ∧
    s.am.standstill = true ∧ s.demand.hostEmergency = false ∧ t.bpm.sensorFault = false ∧
    s.pm.params.pipe.pRecover ≤ t.bpm.pressure ∧ 9990 ≤ s.bpm.recovery

/-! ## BC and GT -/

/-- After every run in RUN the planned DB and air of each truck keep within its total limit, what is unmet is
the residual less what the other truck took, and the shortfall is the sum (R70); SHORTFALL holds where that is more
than its threshold (R71). Every planned figure is that of its
regime: P_auto and F_auto (R63), S_g (R64), C_g (R66), own service of an EP and of a PNEUMATIC truck (R67, R68),
the transfer (R69), the air fill and the blend pressure (R74, R75), the non-blended regime (R76) and the emergency
with and without retained DB (R77, R78), each from the demand record as the run uses it. That no clamp bounds the
residual of the non-blended regime is the model's reading (assumption log 29). The demand age counts, with LINK_LOSS at
4 (R55, R56), and the next run is no longer the first in RUN (R84). Nothing but the blend result record, the demand age
and the notice set changes. -/
def Obligations.PlanKeepsWithinTotalLimit : Prop :=
  ∀ s : State, s.powered = true → s.timersRunning = true → s.cx.mode = .run →
    let p := s.pm.params.blend
    let age := min 255 (s.bc.demandAge + 1)
    let d := usedDemand { s with bc := { s.bc with demandAge := age } }
    let effort := fun pressure : Nat =>
      if pressure ≤ p.pTouch then 0 else (pressure - p.pTouch) * p.kAir / 100
    let pressureOf := fun ceiling air : Nat =>
      if air = 0 then 0 else min ceiling (p.pTouch + (air * 100 + p.kAir - 1) / p.kAir)
    let fHnd := d.handle * p.fDbMax / 1000
    ∃ t, exec .blendRun s = .next t ∧
      t = { s with bc := t.bc, cx := { s.cx with notices := t.cx.notices } } ∧
      t.cx.notices = (if s.bc.demandAge = 3 then s.cx.notices ||| 0x0020 else s.cx.notices) ∧
      t.bc.demandAge = age ∧ t.bc.freshRun = false ∧
      t.bc.shortfall = t.bc.trucks.a.unmet + t.bc.trucks.b.unmet ∧
      (t.bc.shortfallCond = true ↔ p.shortfallThreshold < t.bc.shortfall) ∧
      t.bc.pAuto = min p.pFs (s.bpm.reduction * p.ratio / 10) ∧ t.bc.fAuto = effort t.bc.pAuto ∧
      ∀ g : Truck,
        let f := t.bc.trucks.get g
        let h := t.bc.trucks.get (otherTruck g)
        let tr := s.sp.trucks.get g
        let lim := min tr.cap (tr.limit.getD tr.cap)
        let ep := (s.co.trucks.get g).mode = .ep
        let held := tr.state = .relieve ∨ tr.state = .hold
        let meas := effort (s.co.trucks.get g).measured
        let got := (d.groups.get g).achieved
        (f.ownDb + f.extraDb) + (f.ownAir + f.extraAir) ≤ totalLimit tr ∧
        h.extraDb + h.extraAir ≤ f.residual ∧
        f.unmet = f.residual - h.extraDb - h.extraAir ∧
        f.share = (if d.bailOff = true then fHnd else max t.bc.fAuto fHnd) ∧
        f.capability = (if (d.groups.get g).available = true ∧ age ≤ 3 ∧ s.am.refValid = true then
          min (curveEffort s.pm.params.thermal (reportedRef s.am)) (min (s.gt.get g).cap lim) else 0) ∧
        (s.bpm.emergency = false → p.nonBlended = false →
          (ep → f.ownDb = min f.share f.capability ∧
            f.ownAir = (if held then 0 else
              min (f.share - f.ownDb) (min (effort p.pFs) (lim - f.ownDb))) ∧
            f.residual = f.share - f.ownDb - f.ownAir ∧
            f.airCmd = (if held then 0 else
              min (f.ownAir + f.extraAir + (f.ownDb + f.extraDb - got)) (min (effort p.pFs) (lim - got)))) ∧
          (¬ep → f.ownDb = min f.capability (min (f.share - meas) (lim - meas)) ∧ f.ownAir = 0 ∧
            f.residual = f.share - f.ownDb - meas ∧ f.airCmd = 0) ∧
          (p.transfer = true ∧ ep ∧ tr.state = .idle ∧ tr.isProtected = true →
            f.extraDb = min h.residual (min (f.capability - f.ownDb) (lim - f.ownDb - f.ownAir)) ∧
            f.extraAir = min (h.residual - f.extraDb)
              (min (effort p.pFs - f.ownAir) (lim - f.ownDb - f.ownAir - f.extraDb))) ∧
          (¬(p.transfer = true ∧ ep ∧ tr.state = .idle ∧ tr.isProtected = true) →
            f.extraDb = 0 ∧ f.extraAir = 0) ∧
          f.pBlend = pressureOf p.pFs f.airCmd) ∧
        (s.bpm.emergency = false → p.nonBlended = true →
          let fAir := if d.bailOff = true then 0 else t.bc.fAuto
          f.ownDb = (if ep then min fHnd f.capability else min fHnd (min f.capability (lim - meas))) ∧
          f.ownAir = (if ep ∧ ¬held then min fAir (lim - f.ownDb) else 0) ∧
          f.extraDb = 0 ∧ f.extraAir = 0 ∧ f.airCmd = f.ownAir ∧ f.pBlend = pressureOf p.pFs f.airCmd ∧
          f.residual = (if ep then (fHnd - f.ownDb) + (fAir - f.ownAir) else fHnd - f.ownDb)) ∧
        (s.bpm.emergency = true →
          f.ownDb = (if p.dbRetained = true then min f.capability (lim - effort p.pEm) else 0) ∧
          f.ownAir = (if ep ∧ ¬held then min (effort p.pEm) (lim - f.ownDb) else 0) ∧
          f.extraDb = 0 ∧ f.extraAir = 0 ∧ f.airCmd = f.ownAir ∧ f.pBlend = pressureOf p.pEm f.airCmd ∧
          f.residual = f.share - f.ownDb - (if ep then f.ownAir else meas))

/-- Each run in RUN moves DBR_g toward its target by the up or down step, drops it at once in RELIEVE and
HOLD, and clamps it to C_g; the first run in RUN starts from 0 (R62, R84); it is 0 while the group is unavailable,
cut out, or the link or the reference is lost (R72, R73). -/
def Obligations.RequestRampsAndFalls : Prop :=
  ∀ s : State, s.powered = true → s.timersRunning = true → s.cx.mode = .run →
    ∃ t, exec .blendRun s = .next t ∧ ∀ g : Truck,
      let f := t.bc.trucks.get g
      let target := f.ownDb + f.extraDb
      let old := if s.bc.freshRun then 0 else (s.bc.trucks.get g).dbRequest
      let p := s.pm.params.blend
      let ramped := if old < target then min target (old + p.upStep)
        else if target < old then max target (old - p.downStep) else old
      let st := (s.sp.trucks.get g).state
      f.dbRequest = min f.capability
        (if (st = .relieve ∨ st = .hold) ∧ target < ramped then target else ramped) ∧
      f.capability ≤ totalLimit (s.sp.trucks.get g) ∧ f.capability ≤ (s.gt.get g).cap ∧
      f.capability ≤ curveEffort s.pm.params.thermal (reportedRef s.am) ∧
      ((s.demand.groups.get g).available = false ∨ 3 ≤ s.bc.demandAge ∨ s.am.refValid = false ∨
        (s.gt.get g).cap = 0 → f.dbRequest = 0)

/-- A run outside RUN computes P_auto and F_auto, sets every other field to 0 and clears SHORTFALL; the demand
age still counts and LINK_LOSS is raised at its onset (R62, R55, R56). -/
def Obligations.RunOutsideRunRequestsNothing : Prop :=
  ∀ s : State, s.powered = true → s.timersRunning = true → s.cx.mode ≠ .run →
    let p := s.pm.params.blend
    let pa := min p.pFs (s.bpm.reduction * p.ratio / 10)
    ∃ t, exec .blendRun s = .next t ∧
      t.bc = { pAuto := pa, fAuto := if pa ≤ p.pTouch then 0 else (pa - p.pTouch) * p.kAir / 100
               trucks := .both ⟨0, 0, 0, 0, 0, 0, 0, 0, 0, 0, 0⟩, shortfall := 0, shortfallCond := false
               demandAge := min 255 (s.bc.demandAge + 1), freshRun := false } ∧
      t = { s with bc := t.bc, cx := { s.cx with
        notices := if s.bc.demandAge = 3 then s.cx.notices ||| 0x0020 else s.cx.notices } }

/-- The run that brings the demand age to 4 raises LINK_LOSS, and it uses no handle demand and no achieved
effort: both requests and both capabilities are 0 (R56, R57, R79). That the row is the whole BLEND RUN is the
model's choice (assumption log 1). -/
def Obligations.LinkLossTakesDynamicBrakeOut : Prop :=
  ∀ s : State, s.powered = true → s.timersRunning = true → s.bc.demandAge = 3 →
    ∃ t, exec .linkLoss s = .next t ∧ exec .blendRun s = .next t ∧ t.bc.demandAge = 4 ∧
      t.cx.notices = s.cx.notices ||| 0x0020 ∧ t.demand = s.demand ∧
      (usedDemand t).handle = 0 ∧ (usedDemand t).bailOff = false ∧
      (usedDemand t).groundSpeed = none ∧ (usedDemand t).independent = s.demand.independent ∧
      ∀ g, (t.bc.trucks.get g).dbRequest = 0 ∧ (t.bc.trucks.get g).capability = 0 ∧
        ((usedDemand t).groups.get g).achieved = 0

/-- One thermal update of each group: power, heat, cooling, the clamped temperature, the latch with its notice
and the cap (R88 to R95). Nothing else changes. -/
def Obligations.ThermalUpdateFollowsTheRules : Prop :=
  ∀ s : State, s.powered = true → s.timersRunning = true →
    ∃ t, exec .thermalUpdate s = .next t ∧
      t = { s with gt := t.gt, cx := { s.cx with notices := t.cx.notices } } ∧
      (∀ g, let p := s.pm.params.thermal
        let r := (usedDemand s).groups.get g
        let old := s.gt.get g
        let amb := (usedDemand s).ambient.getD p.ambient
        let kc : Nat := if r.blowers then p.blowerOn else p.blowerOff
        let heat : Nat := r.achieved * reportedRef s.am / 3600 * p.hg / 1000
        let raw : Int := (old.theta : Int) + heat - (((old.theta : Int) - amb) * kc).tdiv 1000
        ((t.gt.get g).theta : Int) = max 0 (min 9000 raw) ∧
        (t.gt.get g).cutout = (if old.cutout then decide (p.thetaRearm < (t.gt.get g).theta)
          else decide (p.thetaCut ≤ (t.gt.get g).theta)) ∧
        (t.gt.get g).cap = (if (t.gt.get g).cutout then 0
          else if (t.gt.get g).theta ≤ p.thetaDerate then s.pm.params.blend.fDbMax
          else s.pm.params.blend.fDbMax * (p.thetaCut - (t.gt.get g).theta) / (p.thetaCut - p.thetaDerate))) ∧
      t.cx.notices = (if (s.gt.a.cutout = false ∧ t.gt.a.cutout = true) ∨ (s.gt.b.cutout = false ∧ t.gt.b.cutout = true) then
        s.cx.notices ||| 0x0004 else s.cx.notices)

/-- The curve effort on a curve whose speeds rise from 0: on the segment from breakpoint a to the next it is
F_a + (F_b − F_a) × (v − v_a) / (v_b − v_a) toward zero, it lies between the two efforts, and from the last
breakpoint on it is the last effort (R85). -/
def Obligations.CurveEffortInterpolates : Prop :=
  ∀ (t : ThermalParams) (v : Nat), t.c1.speed = 0 → speedsRise t.curve = true →
    (t.c8.speed ≤ v → curveEffort t v = t.c8.effort) ∧
    (∀ n : Fin 7, (t.point n.castSucc).speed ≤ v → v < (t.point n.succ).speed →
      let a := t.point n.castSucc
      let b := t.point n.succ
      (curveEffort t v : Int) = a.effort +
        (((b.effort : Int) - a.effort) * ((v : Int) - a.speed)).tdiv ((b.speed : Int) - a.speed) ∧
      min a.effort b.effort ≤ curveEffort t v ∧ curveEffort t v ≤ max a.effort b.effort)

/-- Every step keeps the ranges of the brake pipe record, the thermal fields and the demand age. -/
def Obligations.RangesKept : Prop :=
  ∀ s t : State, rangesHold s = true → step s = .next t → rangesHold t = true

/-! ## CU -/

/-- The condition word holds condition n of R119 at bit n, and no bit from 18 up (8.2.5). That AIR_FAULT_g and
PNEUMATIC follow the latch and the output mode in every state is the model's reading (assumption log 39). A capture
takes the frame of the part as it stands, with a pending mark consumed, into a ring of at most 512 frames, and changes
nothing but CU, the notice set, and of SC the directory, the pending marks, and the number and sequence of the next
opening (R117 to R120, R144). Every value of a frame comes from its owner, those of
the demand record as its readers use it (R118, R57, R12), and stands in the store at its bytes of 8.2.5. That a frame has
no place for an axle's sensor state, which R9 names, is the model's reading (assumption log 58). -/
def Obligations.CaptureTakesTheFrame : Prop :=
  (∀ (s : State) (mark : Bool), (conditionWord s mark).toNat < 262144 ∧
     (List.range 18).map (fun n => (conditionWord s mark).getLsbD n) =
       [s.bpm.emergency, s.bpm.sensorFault, s.sp.relieveCond.a, s.sp.relieveCond.b, s.sp.lockoutCond.a,
         s.sp.lockoutCond.b, s.sp.sanding, s.am.axleFault, s.am.lockedAxle, s.am.standstill,
         decide (4 ≤ s.bc.demandAge), s.bc.shortfallCond, s.gt.a.cutout, s.gt.b.cutout,
         s.co.trucks.a.airFault, s.co.trucks.b.airFault,
         s.co.trucks.a.mode == .pneumatic || s.co.trucks.b.mode == .pneumatic, mark]) ∧
  (∀ s : State, s.powered = true → capturesNow s = true → s.cu.ring.length ≤ 512 →
     ∃ t, exec .capture s = .next t ∧
       t = { s with
         cu := t.cu, cx := { s.cx with notices := t.cx.notices }
         sc := { s.sc with
           directory := t.sc.directory, pendingMarks := t.sc.pendingMarks, nextNumber := t.sc.nextNumber
           nextSequence := t.sc.nextSequence } } ∧
       t.cu.markPending = false ∧ t.cu.interval = s.pm.params.capturePeriod ∧ t.cu.ring.length ≤ 512 ∧
       (dropsFrame s.cu.ring = false →
         t.cu.ring.map (·.frame) =
           frameNow s (conditionWord s s.cu.markPending) :: (s.cu.ring.map (·.frame)).take 511) ∧
       (dropsFrame s.cu.ring = true → s.cu.opened.isSome = true →
         t.cu.ring.map (·.frame) = s.cu.ring.map (·.frame))) ∧
  (∀ (s : State) (w : Word32),
     let f := frameNow s w
     f.vRef = (if s.am.refValid = true then (2 * s.am.refInternal + 10) / 20 else 0) ∧
     f.refValid = s.am.refValid ∧ f.period = s.cu.interval ∧
     (∀ i, f.speeds.get i = (s.am.axles.get i).speed) ∧
     (∀ g, f.dbRequest.get g = (s.bc.trucks.get g).dbRequest ∧
       f.achieved.get g = (if 4 ≤ s.bc.demandAge then 0 else (s.demand.groups.get g).achieved) ∧
       f.pCmd.get g = (s.co.trucks.get g).pCmd.getD 0 ∧ f.measured.get g = (s.co.trucks.get g).measured ∧
       f.corr.get g = (s.sp.trucks.get g).state ∧ f.cap.get g = (s.sp.trucks.get g).cap) ∧
     f.pipe = s.bpm.pressure ∧ f.handle = (if 4 ≤ s.bc.demandAge then 0 else s.demand.handle) ∧
     f.independent = s.demand.independent ∧ f.conditions = w ∧
     (f.sandForward = true ↔ s.sp.sandForward.state = .opened) ∧
     (f.sandReverse = true ↔ s.sp.sandReverse.state = .opened) ∧
     f.mode = s.cx.mode ∧ f.shortfall = s.bc.shortfall) ∧
  ([CorrState.idle, .relieve, .hold, .restore, .lockout].map corrCode = [0, 1, 2, 3, 4] ∧
     [Mode.startup, .setup, .run].map modeCode = [0, 1, 2]) ∧
  (∀ (f : Frame) (i : Nat), (framePlace f i).length = 56 ∧
     fieldsAt (framePlace f i)
       [(0, 2), (2, 2), (4, 1), (5, 1), (6, 2), (8, 2), (10, 2), (12, 2), (14, 2), (16, 2), (18, 2), (20, 2),
        (22, 2), (24, 2), (26, 1), (27, 2), (29, 2), (31, 2), (33, 2), (35, 2), (37, 1), (38, 2), (40, 2),
        (42, 2), (44, 2), (46, 4), (50, 1), (51, 1), (52, 1), (53, 2), (55, 1)] =
       [i % 65536, f.vRef % 65536, f.refValid.toNat, f.period % 256, f.speeds.a1 % 65536, f.speeds.a2 % 65536,
        f.speeds.a3 % 65536, f.speeds.a4 % 65536, f.speeds.a5 % 65536, f.speeds.a6 % 65536,
        f.dbRequest.a % 65536, f.achieved.a % 65536, f.pCmd.a % 65536, f.measured.a % 65536,
        corrCode f.corr.a, f.cap.a % 65536, f.dbRequest.b % 65536, f.achieved.b % 65536, f.pCmd.b % 65536,
        f.measured.b % 65536, corrCode f.corr.b, f.cap.b % 65536, f.pipe % 65536, f.handle % 65536,
        f.independent % 65536, f.conditions.toNat, f.sandForward.toNat, f.sandReverse.toNat, modeCode f.mode,
        f.shortfall % 65536, 0])

/-- No capture overwrites an undrained frame of the open record: every one of them is still in the ring
(R121). -/
def Obligations.UndrainedFramesAreKept : Prop :=
  ∀ (c : Instr) (s t : State), (c = .capture ∨ c = .recordEnd) → s.cu.opened.isSome = true →
    s.cu.ring.length ≤ 512 → exec c s = .next t →
    ∀ (f : RingFrame) (i : Nat), f ∈ s.cu.ring → f.standing = .undrained i → f ∈ t.cu.ring

/-- An opening is refused in STARTUP, under the store-full state, and with 32 records of which none is reclaimable, and
granted otherwise (R125). A granted opening forms the open record at the trigger frame with its pre-frames
undrained, and enters it FILLING at the writer's position, under the next number, or one no other entry has; of 32
records the oldest RELEASED, or else the oldest HELD without protect, is dropped first with its pending mark, and no
other goes; a refused one is a missed incident (R124, R125, R126, R144). At each capture the enabled entries whose
state holds and whose previous match flag is false fire in order of entry number, and every flag becomes the match
found, true for a disabled entry (R122). An entry whose value has HOST_MARK fires on a marked frame that follows a marked
frame too (R119), once it has been seen not to match (R123), which the model's field `armed` holds: the model's reading
of R119 beside R122 (assumption log 59). With no record open the first to fire opens one and the rest join it, or
each is missed; while CAPTURING each joins (R127), and while CLOSING each is missed (R132). -/
def Obligations.OpeningFormsTheRecord : Prop :=
  let makesRoom := fun (sc : StoreController) (dir : List DirEntry) (marks : List Nat) =>
    (sc.directory.length < 32 → dir = sc.directory ∧ marks = sc.pendingMarks) ∧
    (32 ≤ sc.directory.length → ∃ pre v post, sc.directory = pre ++ v :: post ∧ dir = pre ++ post ∧
      marks = sc.pendingMarks.filter (fun n => n != v.number) ∧
      ((v.state = .released ∧ ∀ x ∈ pre, x.state ≠ .released) ∨
       (v.state = .held ∧ v.protect = false ∧ (∀ x ∈ sc.directory, x.state ≠ .released) ∧
         ∀ x ∈ pre, ¬(x.state = .held ∧ x.protect = false))))
  (∀ s : State, grantsOpening s = true ↔ s.cx.mode ≠ .startup ∧ s.sc.storeFull = false ∧
    (s.sc.directory.length < 32 ∨
      ∃ x ∈ s.sc.directory, x.state = .released ∨ (x.state = .held ∧ x.protect = false))) ∧
  (∀ (n : Nat) (e : TriggerEntry) (w : Word32) (s : State), s.cu.ring ≠ [] → directoryOk s.sc →
    (grantsOpening s = true → let t := openRecord n e w s
      let p := min e.preCount (s.cu.ring.length - 1)
      ∃ r, t.cu.opened = some r ∧ r.phase = .capturing ∧ r.preTaken = p ∧ r.nextIndex = p + 1 ∧
        r.captureCount = p + 1 ∧ r.lostCount = 0 ∧ r.endIndex = min (p + e.postCount) 1199 ∧
        r.protect = e.protect ∧ r.triggers = [⟨n, p, w⟩] ∧ r.missed = s.cu.missed ∧ t.cu.missed = 0 ∧
        r.openTime = (usedDemand s).hostTime ∧
        (∀ j, j ≤ p → (t.cu.ring[j]?).map (·.standing) = some (.undrained (p - j))) ∧
        t.sc = { s.sc with
          directory := t.sc.directory, pendingMarks := t.sc.pendingMarks, nextNumber := t.sc.nextNumber
          nextSequence := t.sc.nextSequence } ∧
        (∃ dir d, t.sc.directory = dir ++ [d] ∧ d.number = r.number ∧ d.state = .filling ∧
          d.first = s.sc.position ∧ d.sectionCount = 0 ∧ d.frameCount = 0 ∧ d.protect = e.protect ∧
          d.sequence = s.sc.nextSequence ∧ (∀ x ∈ dir, x.number ≠ r.number) ∧
          makesRoom s.sc dir t.sc.pendingMarks ∧
          ((∀ x ∈ dir, x.number ≠ s.sc.nextNumber) → r.number = s.sc.nextNumber) ∧
          t.sc.nextNumber = (if 65535 ≤ r.number then 1 else r.number + 1) ∧
          t.sc.nextSequence = s.sc.nextSequence + 1) ∧
        t.sc.directory.length ≤ 32) ∧
    (grantsOpening s = false → let t := openRecord n e w s
      t.cu.opened = s.cu.opened ∧ t.sc = s.sc ∧ t.cu.missed = min 65535 (s.cu.missed + 1) ∧
        t.cx.notices = s.cx.notices ||| 0x0200)) ∧
  (∀ s : State, s.powered = true → capturesNow s = true →
    s.cu.prevMatch.length = s.pm.params.triggers.length → s.cu.armed.length = s.pm.params.triggers.length →
    s.cu.missed ≤ 65535 →
    let w := conditionWord s s.cu.markPending
    let onset := fun (e : TriggerEntry) (prev armed : Bool) => e.enabled && (w &&& e.mask) == e.value &&
      (!prev || (e.value.getLsbD 17 && armed))
    let fired := (s.pm.params.triggers.zip (s.cu.prevMatch.zip s.cu.armed)).zipIdx.filter
      (fun q => onset q.1.1 q.1.2.1 q.1.2.2)
    let items := fun f : Nat => fired.map (fun q => (⟨q.2 + 1, f, w⟩ : TriggerItem))
    let ends := fun f first : Nat =>
      fired.foldl (fun n q => max n (min (f + q.1.1.postCount) 1199)) first
    let protects := fired.any (fun q => q.1.1.protect)
    let missedAll := min 65535 (s.cu.missed + fired.length)
    ∃ t, exec .capture s = .next t ∧
      t.cu.prevMatch = s.pm.params.triggers.map (fun e => !e.enabled || (w &&& e.mask) == e.value) ∧
      t.cu.armed = (s.pm.params.triggers.zip s.cu.armed).map (fun q =>
        q.1.enabled && (q.2 || !((w &&& q.1.mask) == q.1.value))) ∧
      (s.cu.opened = none → (fired = [] ∨ grantsOpening s = false) →
        t.cu.opened = none ∧ t.sc = s.sc ∧ t.cu.missed = missedAll ∧
        t.cx.notices = (if fired = [] then s.cx.notices else s.cx.notices ||| 0x0200)) ∧
      (∀ q rest, s.cu.opened = none → fired = q :: rest → grantsOpening s = true → directoryOk s.sc →
        (∀ x ∈ s.sc.directory, x.state ≠ .filling) →
        ∃ u dir d, t.cu.opened = some u ∧ u.preTaken = min q.1.1.preCount (t.cu.ring.length - 1) ∧
          u.triggers = (items u.preTaken).take 8 ∧ u.extraTriggers = min 65535 (fired.length - 8) ∧
          u.endIndex = ends u.preTaken 0 ∧ u.protect = protects ∧ u.missed = s.cu.missed ∧
          u.nextIndex = u.preTaken + 1 ∧ u.captureCount = u.preTaken + 1 ∧ u.lostCount = 0 ∧
          u.openTime = (usedDemand s).hostTime ∧
          u.phase = (if u.preTaken = u.endIndex then .closing else .capturing) ∧
          u.endReason = (if u.preTaken = u.endIndex then some .complete else none) ∧
          t.cu.missed = 0 ∧ t.cx = s.cx ∧ t.sc.directory = dir ++ [d] ∧ d.number = u.number ∧
          d.state = .filling ∧ d.first = s.sc.position ∧ d.protect = protects ∧
          makesRoom s.sc dir t.sc.pendingMarks) ∧
      (∀ r, s.cu.opened = some r → r.phase = .capturing → r.extraTriggers ≤ 65535 →
        let u := { r with
          nextIndex := r.nextIndex + 1
          captureCount := r.captureCount + 1
          lostCount := if dropsFrame s.cu.ring then r.lostCount + 1 else r.lostCount
          triggers := r.triggers ++ (items r.nextIndex).take (8 - r.triggers.length)
          extraTriggers := min 65535 (r.extraTriggers + (fired.length - (8 - r.triggers.length)))
          endIndex := ends r.nextIndex r.endIndex
          protect := r.protect || protects }
        t.cu.opened = some (if r.nextIndex = u.endIndex then
          { u with phase := .closing, endReason := some .complete } else u) ∧
        t.cu.missed = s.cu.missed ∧ t.cx = s.cx ∧
        t.sc = { s.sc with directory := s.sc.directory.map (fun d =>
          if d.state = .filling then { d with protect := d.protect || protects } else d) }) ∧
      (∀ r, s.cu.opened = some r → r.phase = .closing →
        t.cu.opened = some r ∧ t.sc = s.sc ∧ t.cu.missed = missedAll ∧
        t.cx.notices = (if fired = [] then s.cx.notices else s.cx.notices ||| 0x0200)))

/-- The capture whose frame has the record's end index, with no entry firing on it, puts the record in CLOSING
with COMPLETE (R131). That the row is the whole CAPTURE is the model's choice (assumption log 1), and which entries a
marked frame lets fire its reading (assumption log 59). -/
def Obligations.RecordEndsComplete : Prop :=
  ∀ (r : OpenRecord) (s : State), s.powered = true → capturesNow s = true → s.cu.opened = some r →
    r.phase = .capturing → r.nextIndex = r.endIndex →
    (∀ (i : Nat) (e : TriggerEntry) (p : Bool), s.pm.params.triggers[i]? = some e → s.cu.prevMatch[i]? = some p → e.enabled = true →
      p = false ∨ (e.value.getLsbD 17 = true ∧ s.cu.armed[i]? = some true) →
      (conditionWord s s.cu.markPending &&& e.mask) ≠ e.value) →
    ∃ t, exec .recordEnd s = .next t ∧ exec .capture s = .next t ∧ t.sc = s.sc ∧
      t.cu.opened = some { r with
        phase := .closing, endReason := some .complete, nextIndex := r.nextIndex + 1
        captureCount := r.captureCount + 1
        lostCount := if dropsFrame s.cu.ring then r.lostCount + 1 else r.lostCount }

/-! ## SC -/

/-- Every step keeps the directory at no more than 32 records, no two with one number (R143). Whatever the command, a
HELD record with protect true stays in the directory as it is, HELD, protected, with its extent, its counts, its end
reason and its TRAILER section, until RELEASE INCIDENT names it, the part is reset, or the rebuild makes the directory
anew (R143, R147, R125); a TRAILER that the rebuild owes it, programmed, is added to its extent alone (R159). -/
def Obligations.DirectoryKept : Prop :=
  (∀ s t : State, directoryOk s.sc → step s = .next t → directoryOk t.sc) ∧
  (∀ (c : Instr) (s t : State) (e : DirEntry), directoryOk s.sc → exec c s = .next t →
    e ∈ s.sc.directory → e.state = .held → e.protect = true →
    c ≠ .powerOn → c ≠ .resetProceeds → (∀ reads results, c ≠ .rebuildEnd reads results) →
    (c = .releaseIncident → ∀ q rest, s.li.queue = q :: rest → fieldAt q.body 0 2 ≠ e.number) →
    e ∈ t.sc.directory ∨
      ∃ a phys bytes d i, c = .programComplete true ∧
        s.sc.port = some ⟨.writer, .program .rebuildTrailer a phys bytes, d⟩ ∧
        s.sc.rebuildTrailer = some i ∧ i.number = e.number ∧
        { e with sectionCount := (a + 2048 - e.first % 2048) % 2048 + 1, trailer := some a } ∈ t.sc.directory)

/-- The arbiter grants an urgent writer, and otherwise the first waiting requester after the one granted last
in the cyclic order writer, relocator, reader; the grant puts that requester's operation at the port (R156). The writer
is urgent where it has work while CU holds more than 384 undrained frames, and its work is, in this order: a recovery,
step by step (R150); the permitted erase-ahead, but not in RESTART's closing steps (R147, R160); the section due, the
rebuild's TRAILER or that of the open record that is ready (R144, R129, R131); and the oldest pending release mark, in
the TRAILER's section and its copy (R146, R149). The relocator asks for the next step of its copy (R154), the reader for
the section it turned to (R165). That a reader's section is not tested again as its record is dropped is the model's
choice (assumption log 52). That a truncated record which has no HEADER yet still has its HEADER programmed before its
TRAILER is the model's reading (assumption log 22). That an operation on a block
the store does not have faults is the model's choice (assumption log 32). The program granted to the writer writes, at
its position through the map in force, a section of 510 bytes as 8.2 lays it out: the common fields, the HEADER body,
the places of the frames in index order, or the TRAILER body, 00h beyond the body, and the checkword over bytes 0 to
507 (R141, R145, R146). -/
def Obligations.ArbiterGrantsInOrder : Prop :=
  (∀ s : State, s.powered = true → portOpen s = true →
    (∀ (a : Agent) (op : StoreOp), chosenAgent s = some a → requestOf s a = some op →
      ((∀ b ∈ opBlocks op, b < 136) →
        exec .storeGrant s =
          .next { s with sc := { s.sc with port := some ⟨a, op, false⟩, lastGranted := a } }) ∧
      ((∃ b ∈ opBlocks op, 136 ≤ b) → ∃ b, exec .storeGrant s = .fault (.noSuchBlock b) ∧ 136 ≤ b)) ∧
    (writerUrgent s = true → chosenAgent s = some .writer) ∧
    (writerUrgent s = false →
      let n := nextAgent s.sc.lastGranted
      ((requestOf s n).isSome = true → chosenAgent s = some n) ∧
      ((requestOf s n).isSome = false → (requestOf s (nextAgent n)).isSome = true →
        chosenAgent s = some (nextAgent n)) ∧
      ((requestOf s n).isSome = false → (requestOf s (nextAgent n)).isSome = false →
        (requestOf s s.sc.lastGranted).isSome = true → chosenAgent s = some s.sc.lastGranted)) ∧
    ((∀ a, requestOf s a = none) → exec .storeGrant s = .next s)) ∧
  [Agent.writer, .relocator, .reader].map nextAgent = [.relocator, .reader, .writer] ∧
  (∀ s : State,
    let request := requestOf s .writer
    let at_ := fun logical : Nat => physicalBlock s.sc.map (logical / 16) * 16 + logical % 16
    let ahead := if s.sc.seat = .unerased then s.sc.position / 16 else (s.sc.position / 16 + 1) % 128
    let erases := s.sc.eraseAhead = .due true ∧ s.li.closing = false
    (writerUrgent s = true ↔ request.isSome = true ∧ 384 < (undrained s.cu).length) ∧
    (∀ i f, (i, f) ∈ undrained s.cu ↔ ⟨f, .undrained i⟩ ∈ s.cu.ring) ∧
    (∀ r, s.sc.recovery = some r → request = some (match r.step with
      | .erase => .erase r.target
      | .copy slot => .copy (r.failed * 16 + slot) (r.target * 16 + slot)
      | .map => .mapWrite (.replace r.logical r.failed r.target)
      | .retire => .mapWrite (.retire r.target)
      | .reprogram => programOp s (r.job.getD .trailer))) ∧
    (s.sc.recovery = none → erases → request = some (.erase (physicalBlock s.sc.map ahead))) ∧
    (s.sc.recovery = none → ¬erases →
      (∀ job, sectionDue s = some job → request = some (programOp s job)) ∧
      (∀ n rest, sectionDue s = none → s.sc.pendingMarks = n :: rest →
        ∃ sections, request = some (.mark n sections) ∧
          ∀ e x, s.sc.directory.find? (fun d => d.number == n) = some e → e.trailer = some x →
            ∃ copy, sections = at_ x :: copy ∧
              (s.sc.relocation = none → copy = []) ∧
              (∀ r, s.sc.relocation = some r →
                ((r.block = at_ x / 16 ∧ (r.step = .switch ∨ ∃ next, r.step = .copy next ∧ x % 16 < next)) →
                  copy = [r.target * 16 + x % 16]) ∧
                (¬(r.block = at_ x / 16 ∧ (r.step = .switch ∨ ∃ next, r.step = .copy next ∧ x % 16 < next)) →
                  copy = []))) ∧
      (sectionDue s = none → s.sc.pendingMarks = [] → request = none)) ∧
    (s.sc.seat ≠ .normal → sectionDue s = none) ∧
    (s.sc.seat = .normal → s.sc.rebuildTrailer.isSome = true → sectionDue s = some .rebuildTrailer) ∧
    (s.sc.seat = .normal → s.sc.rebuildTrailer = none →
      (s.cu.opened = none ∨ (∀ d ∈ s.sc.directory, d.state ≠ .filling) → sectionDue s = none) ∧
      (∀ r e, s.cu.opened = some r → s.sc.directory.find? (fun d => d.state == .filling) = some e →
        let waiting := (undrained s.cu).map (·.1)
        let header := e.sectionCount = 0 ∧ s.sc.position = e.first
        (header → sectionDue s = some .header) ∧
        (¬header → 8 ≤ waiting.length → sectionDue s = some (.frames (waiting.take 8))) ∧
        (¬header → waiting.length < 8 →
          (r.phase = .closing → waiting = [] → sectionDue s = some .trailer) ∧
          (r.phase = .closing → waiting ≠ [] → sectionDue s = some (.frames waiting)) ∧
          (r.phase = .capturing → sectionDue s = none)))) ∧
    (s.sc.relocation = none → requestOf s .relocator = none) ∧
    (∀ r, s.sc.relocation = some r → requestOf s .relocator = some (match r.step with
      | .erase => .erase r.target
      | .copy slot => .copy (r.block * 16 + slot) (r.target * 16 + slot)
      | .switch => .mapWrite (.replace (logicalOf s.sc.map r.block) r.block r.target)
      | .retire => .mapWrite (.retire r.target))) ∧
    (∀ r logical, s.sc.readOut = some r → r.asking = some logical →
      requestOf s .reader = some (.read logical (at_ logical))) ∧
    (s.sc.readOut.bind (·.asking) = none → requestOf s .reader = none)) ∧
  (∀ (s : State) (job : SectionJob),
    let a := s.sc.position
    programOp s job = .program job a (physicalBlock s.sc.map (a / 16) * 16 + a % 16) (jobBytes s job a)) ∧
  [EndReason.complete, .truncatedStoreFull, .truncatedRestart, .truncatedPower].map endCode = [1, 2, 3, 4] ∧
  (∀ (s : State) (a : Nat),
    let section_ := fun (bs : List Byte) (kind first frames : Nat) (protect : Bool) (number last : Nat) =>
      bs.length = 510 ∧ fieldAt bs 508 2 = (crc16 (bs.take 508)).toNat ∧
      fieldsAt bs [(0, 1), (1, 1), (2, 2), (4, 2), (6, 2), (8, 2)] =
        [kind, protect.toNat, number % 65536, (a + 2048 - first % 2048) % 2048, a % 65536, frames] ∧
      ∀ i, last ≤ i → i < 508 → bs[i]? = some 0
    let trailer := fun (bs : List Byte) (x : TrailerInfo) =>
      section_ bs 3 x.first 0 x.protect x.number (20 + 7 * x.triggers.length) ∧
      fieldsAt bs [(10, 2), (12, 2), (14, 2), (16, 2), (18, 1), (19, 1)] =
        [x.frameCount % 65536, x.lostCount % 65536, x.missed % 65536, x.extraTriggers % 65536,
         endCode x.reason, x.triggers.length] ∧
      ∀ k item, x.triggers[k]? = some item → fieldsAt bs [(20 + 7 * k, 1), (21 + 7 * k, 2), (23 + 7 * k, 4)] =
        [item.entry % 256, item.index % 65536, item.conditions.toNat]
    (∀ x, s.sc.rebuildTrailer = some x → x.triggers.length ≤ 8 → trailer (jobBytes s .rebuildTrailer a) x) ∧
    ∀ (r : OpenRecord) (e : DirEntry), s.cu.opened = some r →
    s.sc.directory.find? (fun x => x.state == .filling) = some e →
    (∀ item rest, r.triggers = item :: rest →
      let bs := jobBytes s .header a
      section_ bs 1 e.first 0 r.protect r.number 29 ∧
      fieldsAt bs [(10, 4), (14, 1), (15, 4), (19, 1), (20, 2), (22, 4), (26, 1), (27, 2)] =
        [e.sequence.toNat, r.openTime.isSome.toNat, r.openTime.getD 0 % 4294967296, item.entry % 256,
         item.index % 65536, item.conditions.toNat, r.preTaken % 256, r.missed % 65536]) ∧
    (∀ indices, let fs := (undrained s.cu).filter (fun f => indices.contains f.1)
      fs.length ≤ 8 → let bs := jobBytes s (.frames indices) a
      section_ bs 2 e.first fs.length r.protect r.number (10 + 56 * fs.length) ∧
      ∀ k i f, fs[k]? = some (i, f) → (bs.drop (10 + 56 * k)).take 56 = framePlace f i) ∧
    (∀ reason, r.endReason = some reason → r.triggers.length ≤ 8 →
      trailer (jobBytes s .trailer a) ⟨r.number, e.first, r.protect, r.captureCount - r.lostCount, r.lostCount,
        r.missed, r.extraTriggers, reason, r.triggers⟩))

/-- A section's program completes: bytes 0 to 509 are the section's, every other byte of the store is as it
was, the port is free, and the position advances (R138, R140); below slot 15 a FRAME section's frames are
drained and counted (R145), and a TRAILER closes the record: its entry is HELD with its end reason and TRAILER
section, CU has no open record, and RECORD_CLOSED is raised (R134). At slot 15 the position enters the ahead block
where that is erased, and the block beyond is examined: its records dropped and its erase permitted, or the store-full
state begun, with STORE_FULL, and the open record closed TRUNCATED_STORE_FULL (R140, R147, R148, R133). Where it is not
erased the position waits for it, and a record that can then have no TRAILER closes without one. The model's readings:
that last close (assumption log 23), with the end reason that RESTART gave the record (log 65, a choice), the
examination in RESTART's closing steps (log 24), and the new end reason of a record that RESTART has truncated
(log 42). -/
def Obligations.ProgramCompleteStoresTheSection : Prop :=
  (∀ (job : SectionJob) (logical phys : Nat) (bytes : List Byte) (d : Bool) (s : State),
     s.powered = true → s.medium.wf = true → phys < 136 * 16 →
     s.sc.port = some ⟨.writer, .program job logical phys bytes, d⟩ →
     ∃ t, exec (.programComplete true) s = .next t ∧
       t = { s with
         medium := t.medium, sc := t.sc, cu := t.cu, cx := { s.cx with notices := t.cx.notices } } ∧
       t.sc.port = none ∧ t.sc.recovery = none ∧
       t.sc.position = (s.sc.position + 1) % 2048 ∧
       (∀ i, i < 510 → i < bytes.length →
         readByte t.medium.cells (phys * 512 + i) = bytes.getD i 0) ∧
       (∀ a, ¬inRun (phys * 512) (min 510 bytes.length) a →
         readByte t.medium.cells a = readByte s.medium.cells a) ∧
       t.medium.unknown = s.medium.unknown ∧ t.medium.copy1 = s.medium.copy1 ∧
       t.medium.copy2 = s.medium.copy2 ∧
       (∀ indices, job = .frames indices → (s.sc.position + 1) % 2048 % 16 ≠ 0 →
         t.cu.ring = s.cu.ring.map (drainFrame indices) ∧
         t.sc.directory = s.sc.directory.map (fun e =>
           if e.state = .filling then
             { e with
               sectionCount := offsetOf e.first logical + 1, frameCount := e.frameCount + indices.length }
           else e))) ∧
  (∀ (logical phys : Nat) (bytes : List Byte) (d : Bool) (r : OpenRecord) (e : DirEntry) (s : State),
     s.powered = true → s.sc.port = some ⟨.writer, .program .trailer logical phys bytes, d⟩ →
     s.cu.opened = some r → (s.sc.position + 1) % 2048 % 16 ≠ 0 →
     e ∈ s.sc.directory → e.state = .filling →
     ∃ t, exec (.programComplete true) s = .next t ∧ t.cu.opened = none ∧
       t.cx.notices.getLsbD 14 = true ∧
       { e with
         state := .held, endReason := r.endReason, trailer := some logical
         sectionCount := offsetOf e.first logical + 1 } ∈ t.sc.directory ∧
       ∀ x ∈ t.sc.directory, x.state ≠ .filling) ∧
  (∀ (job : SectionJob) (logical phys : Nat) (bytes : List Byte) (d : Bool) (s : State), s.powered = true →
     s.sc.port = some ⟨.writer, .program job logical phys bytes, d⟩ → job ≠ .rebuildTrailer →
     (s.sc.position + 1) % 2048 % 16 = 0 →
     let next := (s.sc.position + 1) % 2048
     let dir := s.sc.directory.map (fun e =>
       let n := offsetOf e.first logical + 1
       if e.state = .filling then
         match job with
         | .header => { e with sectionCount := n }
         | .frames indices => { e with sectionCount := n, frameCount := e.frameCount + indices.length }
         | .trailer => { e with
             sectionCount := n, state := .held, endReason := s.cu.opened.bind (·.endReason)
             trailer := some logical }
         | .rebuildTrailer => e
       else e)
     ∃ t, exec (.programComplete true) s = .next t ∧ t.sc.position = next ∧ t.sc.recovery = none ∧
       (job = .trailer → t.cu.opened = none ∧ t.cx.notices.getLsbD 14 = true) ∧
       (s.sc.eraseAhead = .done → s.cx.rebuildEnded = true ∨ s.li.closing = true → t.sc.seat = .normal ∧
         ExaminedAt ((next / 16 + 1) % 128) dir s.sc.storeFull s t ∧
         (s.sc.storeFull = false → job ≠ .trailer → ∀ r, s.cu.opened = some r →
           (t.sc.storeFull = false → t.cu.opened = some r) ∧
           (t.sc.storeFull = true → ∀ e, dir.find? (fun x => x.state == .filling) = some e →
             TruncatedAt r e.frameCount t))) ∧
       (s.sc.eraseAhead ≠ .done →
         t.sc.seat = .unerased ∧ t.sc.eraseAhead = s.sc.eraseAhead ∧ t.sc.storeFull = s.sc.storeFull ∧
         sectionDue t = none ∧
         (s.sc.storeFull = false → s.li.closing = false → t.sc.directory = dir ∧
           (job ≠ .trailer → t.cu.opened = s.cu.opened)) ∧
         (s.sc.storeFull = true ∨ s.li.closing = true → job ≠ .trailer → ∀ r, s.cu.opened = some r →
           t.cu.opened = none ∧ t.cx = s.cx ∧ t.sc.directory = dir.map (fun e =>
             if e.state = .filling then
               { e with state := .held, protect := r.protect, endReason := r.endReason, trailer := none }
             else e))))

/-- A program of the writer that fails with a SPARE block reserves the lowest-numbered one as TARGET and
begins its recovery with the target's erase; the position stays, the section's contents are no longer
determined, and no byte listed changes (R150, R138). That a failure of a recovery's last step begins the same
afresh is the model's reading (assumption log 25). With no SPARE the relocator's TARGET is taken and its relocation
abandoned (R150), also where that target has failed, which is the model's choice (assumption log 40). With neither,
STORE_WEAR is raised and the open record closed TRUNCATED_STORE_FULL, the failed block still MAPPED: where the ahead
block is erased the position jumps to its slot 0 and the block beyond is examined; where it is not, the store-full
state begins, the record closes at once without a TRAILER, and the ahead block is examined (R151, R133, R134), in
RESTART's closing steps too (log 24), whose end reason gives way as well (log 42; both the model's readings). A TRAILER
that the rebuild owes is given up with them (the model's choice, assumption log 56). -/
def Obligations.ProgramFailureBeginsRecovery : Prop :=
  ∀ (job : SectionJob) (logical phys : Nat) (bytes : List Byte) (d : Bool) (s : State),
    s.powered = true → s.sc.port = some ⟨.writer, .program job logical phys bytes, d⟩ →
    (∀ b, LowestSpare s.sc.map b →
      ∃ t, exec (.programComplete false) s = .next t ∧ t = { s with medium := t.medium, sc := t.sc } ∧
        t.sc.recovery = some ⟨some job, logical / 16, logical % 16, phys / 16, b, .erase⟩ ∧
        t.sc.port = none ∧ t.sc.position = s.sc.position ∧ t.sc.directory = s.sc.directory ∧
        t.sc.map = { s.sc.map with states := s.sc.map.states.set b .target } ∧
        t.sc.relocation = s.sc.relocation ∧ phys ∈ t.medium.unknown ∧ t.medium.cells = s.medium.cells) ∧
    (∀ q, NoSpare s.sc.map → s.sc.relocation = some q →
      ∃ t, exec (.programComplete false) s = .next t ∧ t = { s with medium := t.medium, sc := t.sc } ∧
        t.sc.recovery = some ⟨some job, logical / 16, logical % 16, phys / 16, q.target, .erase⟩ ∧
        t.sc.port = none ∧ t.sc.position = s.sc.position ∧ t.sc.directory = s.sc.directory ∧
        t.sc.map = s.sc.map ∧ t.sc.relocation = none ∧ t.sc.relocQueue = s.sc.relocQueue ∧
        phys ∈ t.medium.unknown ∧ t.medium.cells = s.medium.cells) ∧
    (NoSpare s.sc.map → s.sc.relocation = none → (job = .rebuildTrailer → s.cu.opened = none) →
      let block := s.sc.position / 16
      ∃ t, exec (.programComplete false) s = .next t ∧ t.sc.recovery = none ∧ t.sc.rebuildTrailer = none ∧
        t.sc.port = none ∧ t.sc.map = s.sc.map ∧ t.cx.notices.getLsbD 8 = true ∧
        t.cx.notices.getLsbD 14 = s.cx.notices.getLsbD 14 ∧
        phys ∈ t.medium.unknown ∧ t.medium.cells = s.medium.cells ∧
        (s.sc.eraseAhead = .done →
          t.sc.position = (block + 1) % 128 * 16 ∧ t.sc.seat = .normal ∧
          (s.cx.rebuildEnded = true ∨ s.li.closing = true →
            ExaminedAt (((block + 1) % 128 + 1) % 128) s.sc.directory s.sc.storeFull s t) ∧
          ∀ r, s.cu.opened = some r → TruncatedAt r (programmedFrames s.sc) t) ∧
        (s.sc.eraseAhead ≠ .done → let dir := match s.cu.opened with
            | none => s.sc.directory
            | some r => s.sc.directory.map (fun e => if e.state = .filling then
                { e with
                  state := .held, protect := r.protect, endReason := some .truncatedStoreFull, trailer := none }
              else e)
          t.sc.position = s.sc.position ∧ t.sc.seat = .abandoned ∧ t.sc.storeFull = true ∧
          (s.sc.storeFull = false → t.cx.notices.getLsbD 7 = true) ∧ t.cu.opened = none ∧
          ExaminedAt ((block + 1) % 128) dir true s t))

/-- A release mark writes 00h into byte 510 of the sections it was granted for and nowhere else, and the
record leaves the pending list; a mark that fails is not repeated, and changes no other byte (R149). That this holds of
a second mark of one byte too is the model's choice (assumption log 60). -/
def Obligations.ReleaseMarkIsWritten : Prop :=
  ∀ (number : Nat) (sections : List Nat) (d ok : Bool) (s : State), s.powered = true → s.medium.wf = true →
    s.sc.port = some ⟨.writer, .mark number sections, d⟩ → (∀ p ∈ sections, p < 136 * 16) →
    ∃ t, exec (.markProgramComplete ok) s = .next t ∧ t.sc.port = none ∧
      t = { s with medium := t.medium, sc := t.sc, freeCount := t.freeCount } ∧
      number ∉ t.sc.pendingMarks ∧ t.sc.directory = s.sc.directory ∧
      (ok = true → ∀ p ∈ sections, readByte t.medium.cells (p * 512 + 510) = 0) ∧
      (∀ a, (∀ p ∈ sections, a ≠ p * 512 + 510) →
        readByte t.medium.cells a = readByte s.medium.cells a)

/-- An erase completes. Whoever asked for it, every byte of the block is FFh and determined where it succeeds, its
sections are undetermined where it fails, and no other block changes (R138). The erase-ahead: the block leaves the
relocation queue, and the store-full state ends; a position that waited for the block stands at its slot 0, and the block beyond is examined (R138, R147, R148, R151; in RESTART's closing steps too, the
model's reading, assumption log 24), or counts as erased ahead where the rebuild has erased it before (R159; the model's
choice, assumption log 54). With a failure
its recovery begins with the lowest SPARE, or with the relocator's TARGET
(R150; assumption log 40); with neither, STORE_WEAR is raised and the store-full state begins, with STORE_FULL and
the open record TRUNCATED_STORE_FULL (R151, R148, R133; one that RESTART has truncated too, the model's choice,
assumption log 42); the erase of a recovery's or a
relocation's target goes on to the next step, or with a failure retires the target (R150, R154); a discarded
result changes the medium alone (R155). -/
def Obligations.EraseCompletionsFollowTheRules : Prop :=
  let left := fun (ok : Bool) (block : Nat) (s t : State) =>
    (ok = true → BlockErased block s.medium t.medium) ∧ (ok = false → BlockSpoilt block s.medium t.medium)
  (∀ (block : Nat) (s : State), s.powered = true → s.medium.wf = true →
    s.sc.port = some ⟨.writer, .erase block, false⟩ → s.sc.recovery = none → s.sc.seat = .normal →
    ∃ t, exec (.eraseComplete true) s = .next t ∧ t = { s with medium := t.medium, sc := t.sc } ∧
      t.sc.port = none ∧ t.sc.eraseAhead = .done ∧
      t.sc.storeFull = false ∧ block ∉ t.sc.relocQueue ∧ t.sc.directory = s.sc.directory ∧
      t.sc.position = s.sc.position ∧ BlockErased block s.medium t.medium) ∧
  (∀ (block : Nat) (s : State), s.powered = true →
    s.sc.port = some ⟨.writer, .erase block, false⟩ → s.sc.recovery = none → s.sc.seat ≠ .normal →
    let position := if s.sc.seat = .abandoned then (s.sc.position / 16 + 1) % 128 * 16 else s.sc.position
    ∃ t, exec (.eraseComplete true) s = .next t ∧ BlockErased block s.medium t.medium ∧ t.sc.port = none ∧
      t.sc.seat = .normal ∧ t.sc.position = position ∧ block ∉ t.sc.relocQueue ∧
      ((s.sc.seat = .unerased → s.sc.aheadErased = false) → s.cx.rebuildEnded = true ∨ s.li.closing = true →
        ExaminedAt ((position / 16 + 1) % 128) s.sc.directory false s t) ∧
      (s.sc.seat = .unerased → s.sc.aheadErased = true → t = { s with medium := t.medium, sc := t.sc } ∧
        t.sc.eraseAhead = .done ∧ t.sc.aheadErased = false ∧ t.sc.storeFull = false ∧
        t.sc.directory = s.sc.directory ∧ t.sc.pendingMarks = s.sc.pendingMarks)) ∧
  (∀ (block b : Nat) (s : State), s.powered = true →
    s.sc.port = some ⟨.writer, .erase block, false⟩ → s.sc.recovery = none → LowestSpare s.sc.map b →
    ∃ t, exec (.eraseComplete false) s = .next t ∧ t = { s with medium := t.medium, sc := t.sc } ∧
      t.sc.port = none ∧
      t.sc.recovery = some ⟨none, eraseTarget s.sc, 0, block, b, .erase⟩ ∧
      t.sc.map = { s.sc.map with states := s.sc.map.states.set b .target } ∧
      t.sc.directory = s.sc.directory ∧ BlockSpoilt block s.medium t.medium) ∧
  (∀ (block : Nat) (s : State), s.powered = true →
    s.sc.port = some ⟨.writer, .erase block, false⟩ → s.sc.recovery = none → NoSpare s.sc.map →
    ∃ t, exec (.eraseComplete false) s = .next t ∧ t.sc.port = none ∧ t.sc.map = s.sc.map ∧
      t.sc.relocation = none ∧ BlockSpoilt block s.medium t.medium ∧
      (∀ q, s.sc.relocation = some q → t = { s with medium := t.medium, sc := t.sc } ∧
        t.sc.recovery = some ⟨none, eraseTarget s.sc, 0, block, q.target, .erase⟩ ∧
        t.sc.relocQueue = s.sc.relocQueue ∧ t.sc.directory = s.sc.directory) ∧
      (s.sc.relocation = none →
        t.sc.recovery = none ∧ t.sc.eraseAhead = .due false ∧ t.sc.storeFull = true ∧
        t.cx.notices.getLsbD 8 = true ∧ t.sc.position = s.sc.position ∧ t.sc.seat = s.sc.seat ∧
        (s.sc.storeFull = true → t.sc.directory = s.sc.directory ∧ t.cu = s.cu) ∧
        (s.sc.storeFull = false → t.cx.notices.getLsbD 7 = true ∧
          (s.sc.seat = .normal → t.sc.directory = s.sc.directory ∧
            ∀ r, s.cu.opened = some r → TruncatedAt r (programmedFrames s.sc) t)))) ∧
  (∀ (block : Nat) (ok : Bool) (r : Recovery) (s : State), s.powered = true →
    s.sc.port = some ⟨.writer, .erase block, false⟩ → s.sc.recovery = some r →
    ∃ t, exec (.eraseComplete ok) s = .next t ∧
      t = { s with medium := t.medium, sc := { s.sc with port := none, recovery := t.sc.recovery } } ∧
      left ok block s t ∧ t.sc.recovery = some { r with step := if ok then
        (if r.job.isSome = true ∧ 0 < r.slot then .copy 0 else .map) else .retire }) ∧
  (∀ (block : Nat) (ok : Bool) (r : Relocation) (s : State), s.powered = true →
    s.sc.port = some ⟨.relocator, .erase block, false⟩ → s.sc.relocation = some r →
    ∃ t, exec (.eraseComplete ok) s = .next t ∧
      t = { s with medium := t.medium, sc := { s.sc with port := none, relocation := t.sc.relocation } } ∧
      left ok block s t ∧ t.sc.relocation = some { r with step := if ok then .copy 0 else .retire }) ∧
  (∀ (agent : Agent) (block : Nat) (ok : Bool) (s : State), s.powered = true →
    s.sc.port = some ⟨agent, .erase block, true⟩ →
    ∃ t, exec (.eraseComplete ok) s = .next t ∧
      t = { s with medium := t.medium, sc := { s.sc with port := none } } ∧ left ok block s t)

/-- A copy completes. Of the relocator's: a section read CLEAN stands in the erased target with every byte it
had, bytes outside the target's section are as they were, and the relocation goes on to the next slot, or after
slot 15 to the switch (R138, R154); one read UNCORRECTABLE stands there with the fields before its body as they
were and a checkword that fails (R154, R168; assumption log 26); an erased one reads CLEAN (R138). The
writer's recovery copies the slots below the failed one and then writes the map (R150). A failure leaves the
target's section undetermined and retires the target. Whoever asked for it, a section read CLEAN or CORRECTED stands in
the erased target with every byte it had, one read UNCORRECTABLE as said above with its spare bytes as they were, and no
byte outside the target's section changes (R138, R154). Of a section that reads erased, CLEAN with every byte FFh, nothing
is programmed, so that no program of it can fail and the store is as it was (R154). A discarded copy changes the
target's section alone (R155). -/
def Obligations.CopyCompletionsFollowTheRules : Prop :=
  (∀ (src dst slot : Nat) (r : Relocation) (s : State), s.powered = true → s.medium.wf = true →
    s.sc.port = some ⟨.relocator, .copy src dst, false⟩ → s.sc.relocation = some r →
    r.step = .copy slot → src < 136 * 16 → dst < 136 * 16 → src ≠ dst → src ∉ s.medium.unknown →
    (∀ i, i < 512 → readByte s.medium.cells (dst * 512 + i) = 0xFF) →
    ∃ t, exec (.copyComplete .clean true) s = .next t ∧ t.sc.port = none ∧
      t = { s with medium := t.medium, sc := t.sc, freeCount := t.freeCount } ∧
      t.sc.relocation = some { r with step := if slot < 15 then .copy (slot + 1) else .switch } ∧
      (∀ i, i < 512 → readByte t.medium.cells (dst * 512 + i) = readByte s.medium.cells (src * 512 + i)) ∧
      (∀ a, ¬inRun (dst * 512) 512 a → readByte t.medium.cells a = readByte s.medium.cells a) ∧
      t.sc.map = s.sc.map ∧ t.sc.directory = s.sc.directory) ∧
  (∀ (src dst : Nat) (agent : Agent) (d : Bool) (s : State), s.powered = true → s.medium.wf = true →
    s.sc.port = some ⟨agent, .copy src dst, d⟩ → dst < 136 * 16 → isErased s.medium src = false →
    ∃ t, exec (.copyComplete .uncorrectable true) s = .next t ∧ t.sc.port = none ∧
      checkwordPasses (sectionBytes t.medium dst) = false ∧
      (src ∉ s.medium.unknown →
        (sectionBytes t.medium dst).take 10 = (sectionBytes s.medium src).take 10)) ∧
  (∀ (src dst : Nat) (agent : Agent) (d : Bool) (o : MediumOutcome) (s : State), s.powered = true → s.medium.wf = true →
    s.sc.port = some ⟨agent, .copy src dst, d⟩ → src < 136 * 16 → dst < 136 * 16 → src ≠ dst →
    isErased s.medium src = false → (∀ i, i < 512 → readByte s.medium.cells (dst * 512 + i) = 0xFF) →
    ∃ t, exec (.copyComplete o true) s = .next t ∧ t.sc.port = none ∧
      t = { s with medium := t.medium, sc := t.sc, freeCount := t.freeCount } ∧
      t.medium = { s.medium with cells := t.medium.cells } ∧
      (∀ a, ¬inRun (dst * 512) 512 a → readByte t.medium.cells a = readByte s.medium.cells a) ∧
      (src ∉ s.medium.unknown → ∀ i, i < 512 → (o = .uncorrectable → i < 10 ∨ 510 ≤ i) →
        readByte t.medium.cells (dst * 512 + i) = readByte s.medium.cells (src * 512 + i)) ∧
      (o = .uncorrectable → checkwordPasses (sectionBytes t.medium dst) = false)) ∧
  (∀ (src dst : Nat) (ok : Bool) (o : MediumOutcome) (s : State), s.powered = true →
    isErased s.medium src = true → (∃ agent d, s.sc.port = some ⟨agent, .copy src dst, d⟩) →
    ∃ t, exec (.copyComplete o ok) s = .next t ∧ exec (.copyComplete .clean true) s = .next t ∧
      t.medium = s.medium) ∧
  (∀ (src dst slot : Nat) (o : MediumOutcome) (r : Recovery) (s : State), s.powered = true →
    s.sc.port = some ⟨.writer, .copy src dst, false⟩ → s.sc.recovery = some r → r.step = .copy slot →
    ∃ t, exec (.copyComplete o true) s = .next t ∧ t.sc.port = none ∧
      t = { s with medium := t.medium, sc := t.sc, freeCount := t.freeCount } ∧
      t.sc.recovery = some { r with step :=
        if r.job.isSome = true ∧ slot + 1 < r.slot then .copy (slot + 1) else .map } ∧
      t.sc.map = s.sc.map ∧ t.sc.directory = s.sc.directory) ∧
  (∀ (src dst : Nat) (o : MediumOutcome) (s : State), s.powered = true →
    let o' := readOutcome s.medium src o
    let bs := readSection s.medium s.freeCount src o'
    let erased := o' = .clean ∧ ∀ b ∈ bs, b = 0xFF
    (s.medium.wf = true → src ∉ s.medium.unknown →
      (erased ↔ ∀ i, i < 512 → readByte s.medium.cells (src * 512 + i) = 0xFF)) ∧
    (erased → ∀ agent d, s.sc.port = some ⟨agent, .copy src dst, d⟩ →
      ∃ t, exec (.copyComplete o false) s = .next t ∧ exec (.copyComplete o true) s = .next t ∧
        t.medium = s.medium) ∧
    (¬erased → ∀ r, s.sc.port = some ⟨.writer, .copy src dst, false⟩ → s.sc.recovery = some r →
      ∃ t, exec (.copyComplete o false) s = .next t ∧
        t = { s with medium := t.medium, sc := t.sc, freeCount := t.freeCount } ∧
        t.sc.recovery = some { r with step := .retire } ∧
        t.sc.port = none ∧ dst ∈ t.medium.unknown ∧ t.medium.cells = s.medium.cells) ∧
    (¬erased → ∀ r, s.sc.port = some ⟨.relocator, .copy src dst, false⟩ → s.sc.relocation = some r →
      ∃ t, exec (.copyComplete o false) s = .next t ∧
        t = { s with medium := t.medium, sc := t.sc, freeCount := t.freeCount } ∧
        t.sc.relocation = some { r with step := .retire } ∧
        t.sc.port = none ∧ dst ∈ t.medium.unknown ∧ t.medium.cells = s.medium.cells)) ∧
  (∀ (agent : Agent) (src dst : Nat) (o : MediumOutcome) (ok : Bool) (s : State), s.powered = true →
    s.sc.port = some ⟨agent, .copy src dst, true⟩ →
    ∃ t, exec (.copyComplete o ok) s = .next t ∧
      t = { s with medium := t.medium, sc := { s.sc with port := none }, freeCount := t.freeCount } ∧
      t.medium.copy1 = s.medium.copy1 ∧ t.medium.copy2 = s.medium.copy2 ∧
      (∀ p, p ≠ dst → (p ∈ t.medium.unknown ↔ p ∈ s.medium.unknown)) ∧
      (s.medium.wf = true → ∀ a, ¬inRun (dst * 512) 512 a →
        readByte t.medium.cells a = readByte s.medium.cells a))

/-- A map write completes. A replacement is the switch: the target holds the logical block, the old block is RETIRED,
and the medium's newest map is the new one; a relocation ends with it and a writer's recovery goes on to the program
that failed (R139, R150, R154). Retiring a target, the recovery or the relocation begins again with the lowest SPARE
(R150, R154); with none left the writer takes the relocator's TARGET, a failed one too (the model's choice,
assumption log 40), or proceeds by R151, and the relocator discards its entry with STORE_WEAR (R154). The switch of
a failed erase's recovery ends it: the target is the erased ahead block, the store-full state ends, and a position
that waited enters it, the block beyond examined (R151, R147; in RESTART's closing steps too, the model's reading,
log 24) or, erased by the rebuild before, erased ahead (R159; the model's choice, log 54); so also where the relocator's
switch has retired the failed block first (the model's choice, log 62). The initial map goes to the first copy with
generation 1 (R139). A map write that fails leaves the map in force and the other copy as it was, and its repeat goes to the same copy (R139); which copy that is, also where the
failed copy passes, and the generation it holds are the model's reading (assumption log 34; for the write after an
abandoned relocation, log 50). A discarded map write changes the map area and the port, and not the map in force
(R155; the model's reading, assumption log 27). -/
def Obligations.MapWritesFollowTheRules : Prop :=
  (∀ (agent : Agent) (logical old target : Nat) (s : State), s.powered = true →
    s.sc.port = some ⟨agent, .mapWrite (.replace logical old target), false⟩ →
    ((agent = .relocator ∧ s.sc.relocation.isSome = true) ∨
      (agent = .writer ∧ (∃ r j, s.sc.recovery = some r ∧ r.job = some j) ∧
        ∀ q, s.sc.relocation = some q → q.block ≠ old)) →
    (∃ t, exec (.mapWriteComplete true) s = .next t ∧ t.sc.port = none ∧
      t = { s with medium := t.medium, sc := t.sc } ∧
      (agent = .relocator → t.sc.relocation = none) ∧
      (∀ r, agent = .writer → s.sc.recovery = some r → t.sc.recovery = some { r with step := .reprogram } ∧
        old ∉ t.sc.relocQueue) ∧
      (logical < s.sc.map.phys.length → t.sc.map.phys[logical]? = some target) ∧
      (∀ l, l ≠ logical → t.sc.map.phys[l]? = s.sc.map.phys[l]?) ∧
      (target < s.sc.map.states.length → t.sc.map.states[target]? = some .mapped) ∧
      (old < s.sc.map.states.length → old ≠ target → t.sc.map.states[old]? = some .retired) ∧
      (∀ b, b ≠ old → b ≠ target → t.sc.map.states[b]? = s.sc.map.states[b]?) ∧
      (mapAtPowerOn t.medium).phys = t.sc.map.phys ∧ t.medium.cells = s.medium.cells ∧
      t.sc.mapRetry = none ∧
      (s.sc.mapRetry = some .first → t.medium.copy2 = s.medium.copy2) ∧
      (s.sc.mapRetry = some .second → t.medium.copy1 = s.medium.copy1)) ∧
    (∃ t, exec (.mapWriteComplete false) s = .next t ∧ t.sc.map = s.sc.map ∧ t.sc.port = none ∧
      t = { s with medium := t.medium, sc := t.sc, freeCount := t.freeCount } ∧
      t.sc.relocation = s.sc.relocation ∧ t.sc.recovery = s.sc.recovery ∧ t.medium.cells = s.medium.cells ∧
      ((t.sc.mapRetry = some .first ∧ t.medium.copy2 = s.medium.copy2 ∧ s.sc.mapRetry ≠ some .second) ∨
        (t.sc.mapRetry = some .second ∧ t.medium.copy1 = s.medium.copy1 ∧
          s.sc.mapRetry ≠ some .first)))) ∧
  (∀ (failed b : Nat) (s : State), s.powered = true →
    LowestSpare { s.sc.map with states := s.sc.map.states.set failed .retired } b →
    (∀ r, s.sc.port = some ⟨.writer, .mapWrite (.retire failed), false⟩ → s.sc.recovery = some r →
      ∃ t, exec (.mapWriteComplete true) s = .next t ∧ t.sc.port = none ∧
        t.sc.recovery = some { r with target := b, step := .erase } ∧
        t.sc.map = { s.sc.map with states := (s.sc.map.states.set failed .retired).set b .target }) ∧
    (∀ r, s.sc.port = some ⟨.relocator, .mapWrite (.retire failed), false⟩ → s.sc.relocation = some r →
      ∃ t, exec (.mapWriteComplete true) s = .next t ∧ t.sc.port = none ∧
        t.sc.relocation = some ⟨r.block, b, .erase⟩ ∧
        t.sc.map = { s.sc.map with states := (s.sc.map.states.set failed .retired).set b .target })) ∧
  (∀ (failed : Nat) (s : State), s.powered = true →
    let map := { s.sc.map with states := s.sc.map.states.set failed .retired }
    NoSpare map →
    (∀ r, s.sc.port = some ⟨.writer, .mapWrite (.retire failed), false⟩ → s.sc.recovery = some r →
      ∃ t, exec (.mapWriteComplete true) s = .next t ∧ t.sc.port = none ∧ t.sc.relocation = none ∧
        t.sc.map = map ∧
        (∀ q, s.sc.relocation = some q → t = { s with medium := t.medium, sc := t.sc } ∧
          t.sc.recovery = some { r with target := q.target, step := .erase }) ∧
        (s.sc.relocation = none → t.sc.recovery = none ∧ t.cx.notices.getLsbD 8 = true ∧
          (r.job = none → t.sc.eraseAhead = .due false ∧ t.sc.storeFull = true ∧
            t.sc.position = s.sc.position) ∧
          (r.job.isSome = true → s.sc.eraseAhead = .done →
            t.sc.position = (s.sc.position / 16 + 1) % 128 * 16 ∧ t.sc.seat = .normal) ∧
          (r.job.isSome = true → s.sc.eraseAhead ≠ .done →
            t.sc.position = s.sc.position ∧ t.sc.seat = .abandoned ∧ t.sc.storeFull = true))) ∧
    (∀ r, s.sc.port = some ⟨.relocator, .mapWrite (.retire failed), false⟩ → s.sc.relocation = some r →
      ∃ t, exec (.mapWriteComplete true) s = .next t ∧ t.sc.port = none ∧ t.sc.relocation = none ∧
        t.sc.map = map ∧ t.sc.relocQueue = s.sc.relocQueue ∧ t.cx.notices = s.cx.notices ||| 0x0100 ∧
        t = { s with medium := t.medium, sc := t.sc, cx := { s.cx with notices := t.cx.notices } })) ∧
  (∀ (logical old target : Nat) (r : Recovery) (s : State), s.powered = true →
    s.sc.port = some ⟨.writer, .mapWrite (.replace logical old target), false⟩ → s.sc.recovery = some r →
    r.job = none → (∀ q, s.sc.relocation = some q → q.block ≠ old) →
    ∃ t, exec (.mapWriteComplete true) s = .next t ∧ t.sc.port = none ∧ t.sc.recovery = none ∧
      old ∉ t.sc.relocQueue ∧ t.sc.seat = .normal ∧ t.medium.cells = s.medium.cells ∧
      (s.sc.seat = .normal → t = { s with medium := t.medium, sc := t.sc } ∧ t.sc.eraseAhead = .done ∧
        t.sc.storeFull = false ∧ t.sc.position = s.sc.position ∧ t.sc.directory = s.sc.directory ∧
        t.sc.map = ⟨s.sc.map.phys.set logical target,
          (s.sc.map.states.set old .retired).set target .mapped⟩) ∧
      (s.sc.seat ≠ .normal →
        let position := if s.sc.seat = .abandoned then (s.sc.position / 16 + 1) % 128 * 16 else s.sc.position
        t.sc.position = position ∧ t.sc.map.phys = s.sc.map.phys.set logical target ∧
        ((s.sc.seat = .unerased → s.sc.aheadErased = false) → s.cx.rebuildEnded = true ∨ s.li.closing = true →
          ExaminedAt ((position / 16 + 1) % 128) s.sc.directory false s t) ∧
        (s.sc.seat = .unerased → s.sc.aheadErased = true → t = { s with medium := t.medium, sc := t.sc } ∧
          t.sc.eraseAhead = .done ∧ t.sc.aheadErased = false ∧ t.sc.storeFull = false ∧
          t.sc.directory = s.sc.directory ∧ t.sc.pendingMarks = s.sc.pendingMarks))) ∧
  (∀ (change : MapChange) (agent : Agent) (ok : Bool) (s : State), s.powered = true → change ≠ .initial →
    s.sc.port = some ⟨agent, .mapWrite change, true⟩ →
    ∃ t, exec (.mapWriteComplete ok) s = .next t ∧ t.medium.cells = s.medium.cells ∧
      t.medium.unknown = s.medium.unknown ∧
      t = { s with
        medium := t.medium, freeCount := t.freeCount, sc := { s.sc with port := none, mapRetry := t.sc.mapRetry } } ∧
      (ok = true → t.sc.mapRetry = none ∧ (mapAtPowerOn t.medium).phys = (match change with
        | .replace logical _ target => s.sc.map.phys.set logical target
        | _ => s.sc.map.phys))) ∧
  (∀ s : State, s.powered = true → s.sc.port = some ⟨.writer, .mapWrite .initial, false⟩ →
    s.medium.copy1.valid = false ∨ s.sc.mapRetry = some .first → s.medium.copy2.valid = false →
    s.sc.recovery = none → s.sc.mapRetry ≠ some .second →
    (∃ t, exec (.mapWriteComplete true) s = .next t ∧ t.sc.port = none ∧ t.sc.map = initialMap ∧
      t.medium = { s.medium with copy1 := ⟨1, initialMap, true⟩ }) ∧
    (∃ t, exec (.mapWriteComplete false) s = .next t ∧
      t.sc = { s.sc with mapRetry := some .first } ∧ t.medium.copy2 = s.medium.copy2 ∧
      t.medium.copy1.generation = 1 ∧ t.medium.cells = s.medium.cells))

/-- The idle relocator takes the oldest entry that is not the writer's current block and reserves the lowest
SPARE, or with none discards the entry and raises STORE_WEAR (R153). -/
def Obligations.RelocationTakesOldestEntry : Prop :=
  ∀ (b : Nat) (s : State), s.powered = true → s.cx.rebuildEnded = true → s.li.closing = false →
    s.sc.relocation = none → eligibleEntry s.sc = some b →
    b ≠ physicalBlock s.sc.map (s.sc.position / 16) ∧
    (∃ pre post, s.sc.relocQueue = pre ++ b :: post ∧
      ∀ x ∈ pre, x = physicalBlock s.sc.map (s.sc.position / 16)) ∧
    (∀ target, LowestSpare s.sc.map target →
      ∃ t, exec .relocationStart s = .next t ∧ t.sc.relocation = some ⟨b, target, .erase⟩ ∧
        t.sc.relocQueue = s.sc.relocQueue.filter (fun x => !(x == b)) ∧
        t.sc.map = { s.sc.map with states := s.sc.map.states.set target .target } ∧
        t = { s with sc := t.sc }) ∧
    (NoSpare s.sc.map →
      ∃ t, exec .relocationStart s = .next t ∧ t.sc.relocation = none ∧
        t.sc.relocQueue = s.sc.relocQueue.filter (fun x => !(x == b)) ∧
        t.cx.notices = s.cx.notices ||| 0x0100 ∧
        t = { s with sc := t.sc, cx := { s.cx with notices := t.cx.notices } })

/-- A read completes (R166): the first check that fails (the medium outcome, the header, the checkword) ends the
read-out with its status, at the failing index and with the count left. A section that passes is gathered for a READ,
whose reply is placed at the burst and at the end of the count (R167), or counted for a VERIFY, whose one reply
comes at the end of the count, at the limit of a whole-record verify, or at a stop (R170, R171); otherwise the
reader turns to the next section by its two tests (R165). A CORRECTED read queues its block (R152), an erased
section reads CLEAN (R138), and a discarded read changes nothing but the port (R175). The medium is as it was. That
an absent first failing index travels as 0000h and a true flag as 01h is the model's choice (assumption log 44,
47), and that a section of another record read UNCORRECTABLE ends it with UNCORRECTABLE is its reading of R166 against
R168 (assumption log 43). -/
def Obligations.ReadChecksTheSection : Prop :=
  ∀ (logical phys : Nat) (o : MediumOutcome) (s : State), s.powered = true →
    (∀ d, s.sc.port = some ⟨.reader, .read logical phys, d⟩ → d = true ∨ s.sc.readOut = none →
      ∃ t, exec (.readComplete o) s = .next t ∧
        t = { s with sc := { s.sc with port := none }, freeCount := t.freeCount }) ∧
    (∀ r, s.sc.port = some ⟨.reader, .read logical phys, false⟩ → s.sc.readOut = some r →
      let o' := if isErased s.medium phys then MediumOutcome.clean else o
      let bs := readSection s.medium s.freeCount phys o'
      let queue := if o' = .corrected ∧ phys / 16 ∉ s.sc.relocQueue ∧ s.sc.relocQueue.length < 4 ∧
          s.sc.relocation.map (·.block) ≠ some (phys / 16) then
        s.sc.relocQueue ++ [phys / 16] else s.sc.relocQueue
      let after := fun (x : Option ReadOut) (t : State) =>
        { s with
          sc := { s.sc with port := none, readOut := x, relocQueue := queue }, freeCount := t.freeCount }
      let readBytes := fun (st : Byte) (u : ReadOut) =>
        [st] ++ le16 u.number ++ le16 u.nextIndex ++ le16 u.remaining ++ flagByte (stillFilling s.sc r) ++
        le8 u.gathered.length ++ u.gathered.flatMap (fun x => flagByte x.corrected ++ x.bytes)
      let verifyBytes := fun (st : Byte) (u : ReadOut) (failing : Bool) =>
        [st] ++ le16 u.number ++ le16 u.verified ++ flagByte failing ++
        le16 (if failing then u.nextIndex else 0) ++
        le16 (if u.whole then (if failing then u.limitSeen - u.nextIndex else 0) else u.remaining) ++
        le16 u.corrected ++ flagByte (stillFilling s.sc r)
      let ended := fun (st : Byte) (u : ReadOut) (failing : Bool) (t : State) =>
        AnsweredBy (match r.kind with
          | .read => ⟨0x8F, r.tag, readBytes st u, .plain⟩
          | .verify => ⟨0x90, r.tag, verifyBytes st u failing, .plain⟩) (after none t) t
      let passes := o' ≠ .uncorrectable ∧ (sectionNumber bs = r.number ∧ sectionIndex bs = r.nextIndex ∧
        sectionAddr bs = logical) ∧ checkwordPasses bs = true
      (phys ∉ s.medium.unknown → o' ≠ .uncorrectable → bs = sectionBytes s.medium phys) ∧
      (o' = .uncorrectable → ∃ t, exec (.readComplete o) s = .next t ∧ ended 0x0D r true t) ∧
      (o' ≠ .uncorrectable → ¬(sectionNumber bs = r.number ∧ sectionIndex bs = r.nextIndex ∧
          sectionAddr bs = logical) →
        ∃ t, exec (.readComplete o) s = .next t ∧ ended 0x0C r true t) ∧
      (o' ≠ .uncorrectable → sectionNumber bs = r.number → sectionIndex bs = r.nextIndex →
        sectionAddr bs = logical → checkwordPasses bs = false →
        ∃ t, exec (.readComplete o) s = .next t ∧ ended 0x0D r true t) ∧
      (passes →
        let u := match r.kind with
          | .read => { r with
              asking := none, nextIndex := r.nextIndex + 1, remaining := r.remaining - 1
              gathered := r.gathered ++ [⟨o' == .corrected, bs⟩] }
          | .verify => { r with
              asking := none, nextIndex := r.nextIndex + 1, remaining := r.remaining - 1
              verified := r.verified + 1
              corrected := if o' = .corrected then r.corrected + 1 else r.corrected }
        let counted := r.remaining ≤ 1 ∧ (r.kind = .verify → r.whole = false)
        let pauses := r.kind = .read ∧ r.burst ≤ r.gathered.length + 1
        ∃ t, exec (.readComplete o) s = .next t ∧
          (counted → ended 0x00 u false t) ∧
          (¬counted → pauses →
            t = { after (some { u with gathered := [], waiting := true }) t with
              li := { s.li with reports := t.li.reports, replies := t.li.replies, tx := t.li.tx } } ∧
            Placed s.li.reports (s.li.replies ++ [⟨0x8F, r.tag, readBytes 0x00 u, .readPart⟩]) s t) ∧
          (¬counted → ¬pauses →
            (readOutEntry s.sc r = none → ended 0x0A u true t) ∧
            (∀ e, readOutEntry s.sc r = some e →
              (r.nextIndex + 1 < e.sectionCount → t = after (some { u with
                limitSeen := e.sectionCount
                asking := some ((e.first + (r.nextIndex + 1)) % 2048) }) t) ∧
              (e.sectionCount ≤ r.nextIndex + 1 →
                (r.kind = .verify ∧ r.whole = true → ended 0x00 u false t) ∧
                (¬(r.kind = .verify ∧ r.whole = true) → ended 0x0B u true t))))))

/-- Every step keeps the store's canonical form: cells strictly rising, none FFh, none outside the 136
blocks (the model's own form of the memory). Every step keeps the block map to R139, with what would change it next
(`MapKept`): each of the 128 logical blocks on a physical block of the store that is MAPPED, so that none is RETIRED,
no physical block for two of them, in the map in force and in each map copy that is valid. -/
def Obligations.StoreFormKept : Prop :=
  (∀ s t : State, s.medium.wf = true → step s = .next t → t.medium.wf = true) ∧
  (∀ s t : State, MapKept s.sc s.medium → step s = .next t → MapKept t.sc t.medium) ∧
  (∀ (sc : StoreController) (m : Medium), MapKept sc m → mapInStore sc.map = true ∧
    ∀ map, map = sc.map ∨ (m.copy1.valid = true ∧ map = m.copy1.map) ∨ (m.copy2.valid = true ∧ map = m.copy2.map) →
      (∀ l, l < 128 → physicalBlock map l < 136 ∧ map.states[physicalBlock map l]? = some .mapped) ∧
      (∀ l k, l < 128 → k < 128 → physicalBlock map l = physicalBlock map k → l = k) ∧
      ∀ b, map.states[b]? = some .retired → ∀ l, physicalBlock map l ≠ b)

/-! ## LI -/

/-- A CYCLE DEMAND of 27 bytes writes the demand record whole, every field brought into its range and the optional
fields present where the frame marks them so and their values pass (the ambient a signed value from -500 to 600),
and the demand age becomes 0; one of another length changes neither (R52 to R54, R178). A CYCLE REPORT, or a
BAD LENGTH answer, is owed to it: sent at once on an idle line, behind the entries that wait otherwise, and not
placed, with LINK_OVERRUN, where 8 wait (R178, R179, R186); an entry in transmission is no longer waiting
(assumption log 45). The CYCLE REPORT carries every value of R179 at its bytes of 10.8; that its condition word holds no
HOST_MARK and that a true flag travels as 01h is the model's choice (assumption log 15, 47). -/
def Obligations.CycleDemandWritesTheRecord : Prop :=
  ∀ (bytes body : List Byte) (tag : Byte) (s : State), Arrives bytes 0x01 tag body s →
    let raw : Int := fieldAt body 20 2
    let ambient := if raw < 32768 then raw else raw - 65536
    let owed := fun (entry : ReportEntry) (t : State) =>
      (8 ≤ s.li.reports.length → t.li.replies = s.li.replies ∧ t.li.reports = s.li.reports ∧
        t.li.tx = s.li.tx ∧ t.cx.notices = s.cx.notices ||| 0x1000) ∧
      (s.li.reports.length < 8 → t.cx.notices = s.cx.notices ∧
        Placed (s.li.reports ++ [entry]) s.li.replies s t)
    (body.length = 27 → ∃ t, exec (.cycleDemand bytes) s = .next t ∧ t.bc = { s.bc with demandAge := 0 } ∧
      t = { s with
        demand := t.demand, bc := t.bc
        li := { s.li with
          receiver := t.li.receiver, reports := t.li.reports, replies := t.li.replies, tx := t.li.tx }
        cx := { s.cx with notices := t.cx.notices } } ∧
      t.demand.handle = min 1000 (fieldAt body 0 2) ∧ t.demand.independent = min 450 (fieldAt body 2 2) ∧
      t.demand.bailOff = (fieldAt body 4 1 != 0) ∧ t.demand.hostSand = (fieldAt body 6 1 != 0) ∧
      t.demand.hostEmergency = (fieldAt body 7 1 != 0) ∧
      t.demand.direction = (if fieldAt body 5 1 = 1 then .forward
        else if fieldAt body 5 1 = 2 then .reverse else .neutral) ∧
      t.demand.groups.a = ⟨min 6000 (fieldAt body 8 2), fieldAt body 10 1 != 0, fieldAt body 11 1 != 0⟩ ∧
      t.demand.groups.b = ⟨min 6000 (fieldAt body 12 2), fieldAt body 14 1 != 0, fieldAt body 15 1 != 0⟩ ∧
      t.demand.groundSpeed =
        (if fieldAt body 16 1 ≠ 0 ∧ fieldAt body 17 2 ≤ 16000 then some (fieldAt body 17 2) else none) ∧
      t.demand.ambient =
        (if fieldAt body 19 1 ≠ 0 ∧ -500 ≤ ambient ∧ ambient ≤ 600 then some ambient else none) ∧
      t.demand.hostTime = (if fieldAt body 22 1 ≠ 0 then some (fieldAt body 23 4) else none) ∧
      owed (.report tag) t ∧ reportFrame t (.report tag) = frameBytes 0x81 tag (cycleReportBody t) ∧
      (cycleReportBody t).length = 37) ∧
    (body.length ≠ 27 → ∃ t, exec (.cycleDemand bytes) s = .next t ∧
      t = { s with
        li := { s.li with
          receiver := t.li.receiver, reports := t.li.reports, replies := t.li.replies, tx := t.li.tx }
        cx := { s.cx with notices := t.cx.notices } } ∧
      owed (.badLength tag) t ∧ reportFrame t (.badLength tag) = frameBytes 0x81 tag [0x03]) ∧
    [OutputMode.ep, .pneumatic].map outputCode = [0, 1] ∧
    fieldsAt (cycleReportBody s)
      [(0, 1), (1, 2), (3, 2), (5, 2), (7, 2), (9, 2), (11, 2), (13, 1), (14, 1), (15, 1), (16, 1), (17, 1),
       (18, 1), (19, 2), (21, 2), (23, 2), (25, 2), (27, 1), (28, 1), (29, 4), (33, 2), (35, 1), (36, 1)] =
      [0, s.bc.trucks.a.dbRequest % 65536, s.bc.trucks.b.dbRequest % 65536, s.bc.trucks.a.pBlend % 65536,
       s.bc.trucks.b.pBlend % 65536, s.co.trucks.a.pCmd.getD 0 % 65536, s.co.trucks.b.pCmd.getD 0 % 65536,
       outputCode s.co.trucks.a.mode, s.co.trucks.a.dump.toNat, outputCode s.co.trucks.b.mode,
       s.co.trucks.b.dump.toNat, corrCode s.sp.trucks.a.state, corrCode s.sp.trucks.b.state,
       s.sp.trucks.a.cap % 65536, s.sp.trucks.b.cap % 65536, s.bc.shortfall % 65536, reportedRef s.am % 65536,
       s.am.refValid.toNat, modeCode s.cx.mode, (conditionWord s false).toNat,
       (s.cx.notices &&& s.cx.noticeEnable).toNat, (s.sp.sandForward.state == .opened).toNat,
       (s.sp.sandReverse.state == .opened).toNat]

/-- A queued command on arrival: with the latch set it is not queued and is answered OVERRUN; with room it joins the
tail; with 4 waiting it is not queued, the latch is set, LINK_OVERRUN raised and BUSY answered (R180). CLEAR OVERRUN
without a body clears the latch, and with one keeps it (R183). The answer joins the replies that wait, or an idle line
takes the oldest entry, where fewer than 16 replies wait; otherwise LINK_OVERRUN is raised and nothing is placed
(R186). That an entry being sent no longer counts among those that wait is the model's reading (assumption log 45). -/
def Obligations.OverrunLatchIsSetAndCleared : Prop :=
  (∀ (bytes body : List Byte) (kind tag : Byte) (s : State), Arrives bytes kind tag body s →
     kind ≠ 0x01 → kind ≠ 0x1E → kind ≠ 0x1F →
     (s.li.overrun = true → ∃ t, exec (.queuedCommandArrival bytes) s = .next t ∧
       ArrivalAnswered ⟨replyKind kind, tag, [0x02], .plain⟩
         { s with li := { s.li with receiver := t.li.receiver } } t) ∧
     (s.li.overrun = false → s.li.queue.length < 4 →
       ∃ t, exec (.queuedCommandArrival bytes) s = .next t ∧
         t = { s with li := { s.li with
           receiver := t.li.receiver, queue := s.li.queue ++ [⟨kind, tag, body⟩] } }) ∧
     (s.li.overrun = false → 4 ≤ s.li.queue.length →
       ∃ t, exec (.queuedCommandArrival bytes) s = .next t ∧
         ArrivalAnswered ⟨replyKind kind, tag, [0x01], .plain⟩ { s with
           li := { s.li with receiver := t.li.receiver, overrun := true }
           cx := { s.cx with notices := s.cx.notices ||| 0x1000 } } t)) ∧
  (∀ (bytes body : List Byte) (tag : Byte) (s : State), Arrives bytes 0x1E tag body s →
     ∃ t, exec (.clearOverrun bytes) s = .next t ∧
       ArrivalAnswered ⟨0x9E, tag, [if body.isEmpty then 0x00 else 0x03], .plain⟩ { s with li := { s.li with
         receiver := t.li.receiver, overrun := s.li.overrun && !body.isEmpty } } t)

/-- What LI makes of the bytes of the line. It hunts past every byte but 7Eh, which opens a frame (R177). Of the
bytes after the flag nothing comes until the frame ends, a 7Eh among them being data: a length over 600 discards it at
the second length byte, and otherwise it ends at its second checkword byte, where it arrives with its kind, tag and body
if the checkword is that of R141 over kind, tag, length and body, and is discarded if not (R176, R177). A run of bytes
makes what its parts make in turn; one that goes on beyond an event is no row of the table (the model's choice,
assumption log 3). A frame too long or with a wrong checkword, and a frame broken by a gap, is discarded without an
answer and raises FRAME_ERRORS; the byte that ends a gap is examined as a flag (R177). -/
def Obligations.LineErrorsDiscardTheFrame : Prop :=
  (∀ bytes : List Byte, 0x7E ∉ bytes → receive .hunting bytes = some (.hunting, none)) ∧
  receive .hunting [0x7E] = some (.inFrame [], none) ∧
  (∀ bytes : List Byte, bytes.length < 4 → receive (.inFrame []) bytes = some (.inFrame bytes, none)) ∧
  (∀ kind tag l0 l1 : Byte, 600 < l0.toNat + 256 * l1.toNat →
    receive (.inFrame []) [kind, tag, l0, l1] = some (.hunting, some .discarded)) ∧
  (∀ (kind tag l0 l1 c0 c1 : Byte) (body : List Byte),
    l0.toNat + 256 * l1.toNat = body.length → body.length ≤ 600 →
    let checked := [kind, tag, l0, l1] ++ body
    let frame := checked ++ [c0, c1]
    receive (.inFrame []) frame = some (.hunting, some (
      if c0.toNat + 256 * c1.toNat = (crc16 checked).toNat then .arrived kind tag body else .discarded)) ∧
    ∀ n, n < frame.length → receive (.inFrame []) (frame.take n) = some (.inFrame (frame.take n), none)) ∧
  (∀ (r q : Receiver) (e : RxEvent) (bytes more : List Byte),
    (receive r bytes = some (q, none) → receive r (bytes ++ more) = receive q more) ∧
    (receive r bytes = some (q, some e) → more ≠ [] → receive r (bytes ++ more) = none)) ∧
  (∀ (bytes : List Byte) (r : Receiver) (s : State), s.powered = true → s.li.closing = false →
    receive s.li.receiver bytes = some (r, some .discarded) →
    exec (.frameDiscard bytes) s = .next { s with
      li := { s.li with receiver := .hunting }, cx := { s.cx with notices := s.cx.notices ||| 0x2000 } }) ∧
  (∀ (bytes open_ : List Byte) (after : Byte) (s : State), s.powered = true → s.li.closing = false →
    receive s.li.receiver bytes = some (.inFrame open_, none) →
    exec (.frameGap bytes after) s = .next { s with
      li := { s.li with receiver := if after = 0x7E then .inFrame [] else .hunting }
      cx := { s.cx with notices := s.cx.notices ||| 0x2000 } })

/-- When a frame has been sent, the oldest pending report is sent next, or else the oldest pending reply, or
else the line is idle (R186); an entry leaves its list as its transmission begins (the model's reading, assumption
log 45). The RESTART reply sent ends LI's closing step (R203). With a part of a read-out sent, the reader turns to the
next section: it asks for it, or stops with RECORD GONE or ADDRESS OVERFLOW, whose final reply is the last of the list
before the next frame is chosen (R167, R165). A true flag travels as 01h (the model's choice, assumption log 47). -/
def Obligations.FrameSentChoosesTheNext : Prop :=
  ∀ (f : TxFrame) (s : State), s.powered = true → s.li.tx = some f →
    let stops := fun (status : Byte) (filling : Bool) (r : ReadOut) (t : State) =>
      t = { s with li := t.li, sc := { s.sc with readOut := none } } ∧ t.li.queue = s.li.queue.tail ∧
      Sends s.li.reports (s.li.replies ++ [⟨0x8F, r.tag, [status] ++ le16 r.number ++ le16 r.nextIndex ++ le16 r.remaining ++
        flagByte filling ++ le8 r.gathered.length ++
        r.gathered.flatMap (fun x => flagByte x.corrected ++ x.bytes), .plain⟩]) t
    (f.role ≠ .readPart ∨ s.sc.readOut = none →
      ∃ t, exec .frameSent s = .next t ∧ t = { s with li := t.li } ∧ t.li.queue = s.li.queue ∧
        Sends s.li.reports s.li.replies t ∧ t.li.restartSent = (s.li.restartSent || f.role == .restartDone)) ∧
    (∀ r, f.role = .readPart → s.sc.readOut = some r → r.waiting = true →
      (∀ e, readOutEntry s.sc r = some e → r.nextIndex < e.sectionCount →
        ∃ t, exec .frameSent s = .next t ∧
          t = { s with li := t.li, sc := { s.sc with readOut := t.sc.readOut } } ∧ t.li.queue = s.li.queue ∧
          Sends s.li.reports s.li.replies t ∧ t.li.restartSent = s.li.restartSent ∧
          t.sc.readOut = some { r with
            waiting := false, limitSeen := e.sectionCount, asking := some ((e.first + r.nextIndex) % 2048) }) ∧
      (readOutEntry s.sc r = none → r.kind = .read →
        ∃ t, exec .frameSent s = .next t ∧ stops 0x0A false r t) ∧
      (∀ e, readOutEntry s.sc r = some e → e.sectionCount ≤ r.nextIndex → r.kind = .read →
        ∃ t, exec .frameSent s = .next t ∧ stops 0x0B (e.state == .filling) r t))

/-- RESTART accepted sets STARTUP, withdraws both setpoints and closes both dump valves, discards the queue and
the replies, and ends the read-out, whose read is discarded, and a relocation, whose operation is discarded and whose
target returns to SPARE (R184, R203, R116, R155, R175), also where that target has failed (the model's choice,
assumption log 55). A writer's operation and a recovery go on (R160). The open record is closed TRUNCATED_RESTART at the
frames programmed or in the writer's hands (R135); that it is where it is CLOSING already, and that frames under
recovery are in its hands, are the model's readings (assumption log 33). A record whose TRAILER is being programmed, or recovered, keeps its reason (R135, R204), and one
whose writer stands where nothing can be programmed is closed without a TRAILER (R204; where the erase it waits for is
due and the store is not full, the model's reading, assumption log 23), its entry's end reason TRUNCATED_RESTART and not
the TRUNCATED_STORE_FULL of R151 (the model's choice, assumption log 65). A SAVE PARAMETERS in progress stays the head
until its end. The RESTART reply alone waits behind the pending reports, or an idle line takes the oldest of these; a
frame in transmission goes on (R184, R186). That the whole report list stays, a BAD LENGTH answer in it too, is the
model's reading (assumption log 46), and so is that an entry leaves its list as its transmission begins (log 45). With
a body RESTART is refused with BAD LENGTH and changes nothing but LI's receiver
and lists and the notice set (R184). -/
def Obligations.RestartClosesEveryBlock : Prop :=
  (∀ (bytes : List Byte) (tag : Byte) (s : State), Arrives bytes 0x1F tag [] s →
    ∃ t, exec (.restart bytes) s = .next t ∧ t.cx.mode = .startup ∧ t.cx.loadEnded = false ∧
      t.cx.rebuildEnded = false ∧ t.li.closing = true ∧ t.li.restartSent = false ∧
      t.li.queue = (if s.pm.saving then s.li.queue.take 1 else []) ∧
      (∀ g, (t.co.trucks.get g).mode = .pneumatic ∧ (t.co.trucks.get g).pCmd = none ∧
        (t.co.trucks.get g).dump = false) ∧
      t.sc = { s.sc with
        readOut := none, burst := 1, relocation := none
        map := t.sc.map, port := t.sc.port, directory := t.sc.directory } ∧
      (∀ q, s.sc.relocation = some q →
        t.sc.map = { s.sc.map with states := s.sc.map.states.set q.target .spare }) ∧
      (s.sc.relocation = none → t.sc.map = s.sc.map) ∧
      (s.sc.port = none → t.sc.port = none) ∧
      (∀ p, s.sc.port = some p → (p.agent = .writer → t.sc.port = some p) ∧
        (p.agent = .reader ∨ (p.agent = .relocator ∧ s.sc.relocation ≠ none) →
          t.sc.port = some { p with discard := true })) ∧
      Placed s.li.reports [⟨0x9F, tag, [0x00], .restartDone⟩] s t ∧ t.li.overrun = s.li.overrun ∧
      (s.cu.opened = none → t.cu = s.cu ∧ t.sc.directory = s.sc.directory) ∧
      (∀ r, s.cu.opened = some r →
        let closedWith := fun kept : List Nat =>
          (s.sc.seat = .normal → t.sc.directory = s.sc.directory ∧
            t.cu = { s.cu with ring := t.cu.ring, opened := some { r with
              phase := .closing, endReason := some .truncatedRestart
              captureCount := programmedFrames s.sc + kept.length + r.lostCount } } ∧
            t.cu.ring = s.cu.ring.map (fun f => match f.standing with
              | .undrained i => if i ∈ kept then f else { f with standing := .free }
              | _ => f)) ∧
          (s.sc.seat ≠ .normal →
            t.cu = { s.cu with opened := none, ring := s.cu.ring.map (fun f => { f with standing := .free }) } ∧
            t.sc.directory = s.sc.directory.map (fun e => if e.state = .filling then
                { e with
                  state := .held, protect := r.protect, endReason := some .truncatedRestart, trailer := none }
              else e))
        let inHand := fun job : SectionJob => (∃ q, s.sc.recovery = some q ∧ q.job = some job) ∨
          (s.sc.recovery = none ∧ ∃ l p bs d, s.sc.port = some ⟨.writer, .program job l p bs, d⟩)
        (inHand .trailer → t.cu = s.cu ∧ t.sc.directory = s.sc.directory) ∧
        (∀ indices, inHand (.frames indices) → closedWith indices) ∧
        ((∀ job, inHand job → job = .header ∨ job = .rebuildTrailer) → closedWith [])) ∧
      t.medium = s.medium ∧ t.pm = s.pm ∧ t.bpm = s.bpm ∧ t.bc = s.bc ∧ t.demand = s.demand ∧
      t.am = s.am ∧ t.sp = s.sp ∧ t.gt = s.gt ∧ t.cx.notices = s.cx.notices ∧
      t.timersRunning = s.timersRunning) ∧
  (∀ (bytes body : List Byte) (tag : Byte) (s : State), Arrives bytes 0x1F tag body s → body ≠ [] →
    ∃ t, exec (.restart bytes) s = .next t ∧
      ArrivalAnswered ⟨0x9F, tag, [0x03], .plain⟩ { s with li := { s.li with receiver := t.li.receiver } } t)

/-- Every step keeps at most 4 commands in the queue and at most 8 entries in the pending report list (R181,
R186). And every step keeps at most 20 replies in the pending command reply list, with what that bound rests on
(`RepliesKept`): room for the reply of the command in execution, of which at most one is pending at a time, a read-out
waiting just where one part of it waits or is sent (R186, R181, R167). That a reply leaves the list as its transmission
begins is the model's reading (assumption log 45). -/
def Obligations.LinkBoundsKept : Prop :=
  (∀ s t : State, linkBounded s.li = true → step s = .next t → linkBounded t.li = true) ∧
  ∀ s t : State, RepliesKept s → step s = .next t → RepliesKept t

/-! ## CX -/

/-- The commands that read answer at once with their layouts and change nothing but LI: READ STATUS (45 bytes),
READ NOTICES, READ AXLE TABLE (101 bytes), LIST INCIDENTS outside STARTUP, READ PARAMETER and READ TRIGGER
(R189, R188, R190, R162, R198, R123), every value at its bytes of 10.8; a true flag travels as 01h (the model's choice,
assumption log 47). READ AXLE TABLE directly ahead of a window close falls before it or between AM's
evaluation and SP's, with AM's new speeds beside SP's slide fields of the window before, and the window close is then
what it would have been; which of the two is a free value, whose counter alone moves beside LI (R190, assumption log
36). A command of a kind not in the catalogue is refused with UNKNOWN KIND under the kind FFh, and one with another body
length with BAD LENGTH (R182, R176). -/
def Obligations.ReadingCommandsAnswer : Prop :=
  (∀ (c : Command) (s : State), Awaits c s →
     (c.kind = 0x02 → c.body = [] → (statusBody s).length = 45 ∧
       ∃ t, exec .readStatus s = .next t ∧ AnsweredWith (statusBody s) c s t) ∧
     (c.kind = 0x03 → c.body = [] → ∃ t, exec .readNotices s = .next t ∧
       AnsweredWith ([0x00] ++ le16 s.cx.notices.toNat ++ le16 s.cx.noticeEnable.toNat) c s t) ∧
     (c.kind = 0x13 → c.body = [] → (axleTableBody s).length = 101 ∧
       (windowNext s = false →
         ∃ t, exec .readAxleTable s = .next t ∧ AnsweredWith (axleTableBody s) c s t)) ∧
     (c.kind = 0x0E → c.body = [] → s.cx.mode ≠ .startup →
       (listBody s.sc).length = 2 + 14 * s.sc.directory.length ∧
       ∃ t, exec .listIncidents s = .next t ∧ AnsweredWith (listBody s.sc) c s t) ∧
     (c.kind = 0x0E → c.body = [] → s.cx.mode = .startup →
       ∃ t, exec .listIncidents s = .next t ∧ StatusOnly .wrongMode c s t) ∧
     (∀ p, c.kind = 0x06 → c.body.length = 2 → paramOf (fieldAt c.body 0 2) = some p →
       ∃ t, exec .readParameter s = .next t ∧
         AnsweredWith ([0x00] ++ le16 (fieldAt c.body 0 2) ++ le32 (readParam s.pm.params p).toNat) c s t) ∧
     (c.kind = 0x06 → c.body.length = 2 → paramOf (fieldAt c.body 0 2) = none →
       ∃ t, exec .readParameter s = .next t ∧ StatusOnly .unknownParameter c s t) ∧
     (∀ n e, c.kind = 0x0C → c.body.length = 1 → fieldAt c.body 0 1 = n + 1 →
       s.pm.params.triggers[n]? = some e → ∃ t, exec .readTrigger s = .next t ∧
         AnsweredWith ([0x00] ++ le8 (n + 1) ++ flagByte e.enabled ++ le32 e.mask.toNat ++ le32 e.value.toNat ++
           le8 e.preCount ++ le16 e.postCount ++ flagByte e.protect ++ flagByte (s.cu.prevMatch.getD n true))
           c s t) ∧
     (c.kind = 0x0C → c.body.length = 1 →
       (fieldAt c.body 0 1 = 0 ∨ s.pm.params.triggers.length < fieldAt c.body 0 1) →
       ∃ t, exec .readTrigger s = .next t ∧ StatusOnly .badValue c s t)) ∧
  ([Mode.startup, .setup, .run].map modeCode = [0, 1, 2] ∧
     [OutputMode.ep, .pneumatic].map outputCode = [0, 1] ∧
     [SensorState.normal, .stopped, .locked, .faulted].map sensorCode = [0, 1, 2, 3] ∧
     [RecordState.filling, .held, .released].map recordCode = [0, 1, 2] ∧
     [EndReason.complete, .truncatedStoreFull, .truncatedRestart, .truncatedPower].map endCode = [1, 2, 3, 4] ∧
     [Status.ok, .busy, .overrun, .badLength, .unknownKind, .unknownParameter, .badValue, .wrongMode, .noRecord,
       .recordFilling, .recordGone, .addressOverflow, .addressMismatch, .uncorrectable].map
         (fun st => (statusCode st).toNat) = List.range 14) ∧
  (∀ s : State,
     let bs := statusBody s
     let group := fun i : Nat => [(i, 2), (i + 2, 2), (i + 4, 1)]
     let output := fun i : Nat => [(i, 1), (i + 1, 2), (i + 3, 1), (i + 4, 2), (i + 6, 1), (i + 7, 2), (i + 9, 1)]
     fieldsAt bs [(0, 1), (1, 1), (2, 1), (3, 2), (5, 2), (7, 1), (8, 1), (39, 1), (40, 1), (41, 1), (42, 1),
         (43, 1), (44, 1)] =
       [0, modeCode s.cx.mode, s.bc.demandAge % 256, s.bpm.pressure % 65536, s.bpm.reduction % 65536,
        s.bpm.emergency.toNat, s.bpm.sensorFault.toNat, s.co.movedInSetup.toNat, s.sc.storeFull.toNat,
        s.sc.map.states.count .spare % 256, s.sc.directory.length % 256, s.li.overrun.toNat,
        s.li.queue.length % 256] ∧
     ∀ g : Truck,
       fieldsAt bs (group (match g with | .a => 9 | .b => 14)) =
         [(s.gt.get g).theta % 65536, (s.gt.get g).cap % 65536, (s.gt.get g).cutout.toNat] ∧
       (let o := s.co.trucks.get g
        fieldsAt bs (output (match g with | .a => 19 | .b => 29)) =
          [outputCode o.mode, o.pCmd.getD 65535 % 65536, o.dump.toNat, o.measured % 65536,
           o.measuredValid.toNat, o.deviation % 65536, o.airFault.toNat])) ∧
  (∀ (s : State) (k : Fin 6),
     let i := [AxleNo.a1, .a2, .a3, .a4, .a5, .a6][k]
     let x := s.am.axles.get i
     let y := s.sp.axles.get i
     let at_ := 1 + 16 * k.val
     fieldsAt (axleTableBody s) [(0, 1), (97, 2), (99, 1), (100, 1)] =
       [0, reportedRef s.am % 65536, s.am.refValid.toNat, s.am.standstill.toNat] ∧
     fieldsAt (axleTableBody s) [(at_, 2), (at_ + 2, 2), (at_ + 4, 1), (at_ + 5, 1), (at_ + 6, 1), (at_ + 7, 1),
         (at_ + 8, 2), (at_ + 10, 2), (at_ + 12, 1), (at_ + 13, 1), (at_ + 14, 2)] =
       [x.speed % 65536, x.prevSpeed % 65536, x.measured.toNat, x.quiet % 256, x.implausible % 256,
        sensorCode x.sensor, y.creep % 65536, (y.decel % 65536).toNat, y.decelHits % 256, y.sliding.toNat,
        y.faultTime % 65536]) ∧
  (∀ (sc : StoreController) (k : Nat) (e : DirEntry), sc.directory[k]? = some e →
     let at_ := 2 + 14 * k
     fieldsAt (listBody sc) [(0, 1), (1, 1)] = [0, sc.directory.length % 256] ∧
     fieldsAt (listBody sc) [(at_, 2), (at_ + 2, 4), (at_ + 6, 1), (at_ + 7, 1), (at_ + 8, 2), (at_ + 10, 1),
         (at_ + 11, 2), (at_ + 13, 1)] =
       [e.number % 65536, e.sequence.toNat, recordCode e.state, e.protect.toNat, e.first % 65536,
        e.sectionCount % 256, e.frameCount % 65536, (match e.endReason with
          | some reason => endCode reason
          | none => 0)]) ∧
  (∀ (c : Command) (s : State), Awaits c s →
     (requiredLength c.kind = none → knownKind c.kind = false →
       ∃ t, exec .unknownKind s = .next t ∧ AnsweredBy ⟨0xFF, c.tag, [0x04], .plain⟩ s t) ∧
     (∀ q ∈ queuedRows, c.kind = q.1 → c.body.length ≠ q.2.1 →
       ∃ t, exec q.2.2 s = .next t ∧ StatusOnly .badLength c s t)) ∧
  (∀ (c : Command) (a b : Reading) (rest : List Instr) (s : State), Awaits c s → c.kind = 0x13 →
     c.body = [] → s.pending = .windowClose a b :: rest →
     (windowNext s = true ↔ s.timersRunning = true) ∧
     (s.timersRunning = true → ∃ t u v, exec .readAxleTable s = .next t ∧
       (AnsweredWith (axleTableBody s) c { s with freeCount := t.freeCount } t ∨
        AnsweredWith ([0x00] ++
          allAxles.flatMap (fun i => axlePlace ((amWindow s).axles.get i) (s.sp.axles.get i)) ++
          le16 (reportedRef (amWindow s)) ++ flagByte (amWindow s).refValid ++
          flagByte (amWindow s).standstill) c { s with freeCount := t.freeCount } t) ∧
       exec (.windowClose a b) s = .next u ∧ exec (.windowClose a b) t = .next v ∧
       v = { u with li := t.li, freeCount := t.freeCount }))

/-- CLEAR NOTICES removes the notices it names; SET NOTICE ENABLE enables its set-list and disables what is in
the clear-list only; a set with bit 15 is refused and changes nothing (R188). SET TRIGGER replaces one entry
whole, from the fields of its body (10.8), with its previous match flag true, so that it must be seen not to match before it fires, as the model's
field `armed` holds for a trigger on HOST_MARK (assumption log 59), or is refused BAD VALUE by its number, mask, value
and counts (R123); MARK INCIDENT sets the mark pending
flag (R119); SET READ BURST takes 1, 2 or 4, and any other value makes the burst 1 (R163). -/
def Obligations.SettingCommands : Prop :=
  (∀ (c : Command) (s : State), Awaits c s →
     (c.kind = 0x04 → c.body.length = 2 → (noticesAt c.body 0).msb = false →
       ∃ t, exec .clearNotices s = .next t ∧
         StatusOnly .ok c { s with cx := { s.cx with notices := t.cx.notices } } t ∧
         ∀ n, n < 16 → t.cx.notices.getLsbD n =
           (s.cx.notices.getLsbD n && !(noticesAt c.body 0).getLsbD n)) ∧
     (c.kind = 0x04 → c.body.length = 2 → (noticesAt c.body 0).msb = true →
       ∃ t, exec .clearNotices s = .next t ∧ StatusOnly .badValue c s t) ∧
     (c.kind = 0x05 → c.body.length = 4 → (noticesAt c.body 0).msb = false →
       (noticesAt c.body 2).msb = false →
       ∃ t, exec .setNoticeEnable s = .next t ∧
         StatusOnly .ok c { s with cx := { s.cx with noticeEnable := t.cx.noticeEnable } } t ∧
         ∀ n, n < 16 → t.cx.noticeEnable.getLsbD n =
           ((noticesAt c.body 0).getLsbD n ||
             (s.cx.noticeEnable.getLsbD n && !(noticesAt c.body 2).getLsbD n))) ∧
     (c.kind = 0x05 → c.body.length = 4 →
       ((noticesAt c.body 0).msb = true ∨ (noticesAt c.body 2).msb = true) →
       ∃ t, exec .setNoticeEnable s = .next t ∧ StatusOnly .badValue c s t)) ∧
  (∀ (c : Command) (s : State), Awaits c s →
     (c.kind = 0x0B → c.body.length = 14 → let n := fieldAt c.body 0 1
       let e : TriggerEntry := {
         enabled := decide (fieldAt c.body 1 1 ≠ 0), mask := .ofNat 32 (fieldAt c.body 2 4)
         value := .ofNat 32 (fieldAt c.body 6 4), preCount := fieldAt c.body 10 1
         postCount := fieldAt c.body 11 2, protect := decide (fieldAt c.body 13 1 ≠ 0) }
       (1 ≤ n ∧ n ≤ 8 ∧ triggerAllowed e →
         ∃ t, exec .setTrigger s = .next t ∧ StatusOnly .ok c { s with
           pm := { s.pm with params := { s.pm.params with triggers := s.pm.params.triggers.set (n - 1) e } }
           cu := { s.cu with
             prevMatch := s.cu.prevMatch.set (n - 1) true, armed := s.cu.armed.set (n - 1) false } } t) ∧
       (¬(1 ≤ n ∧ n ≤ 8 ∧ triggerAllowed e) →
         ∃ t, exec .setTrigger s = .next t ∧ StatusOnly .badValue c s t)) ∧
     (c.kind = 0x0D → c.body = [] → ∃ t, exec .markIncident s = .next t ∧
       StatusOnly .ok c { s with cu := { s.cu with markPending := true } } t) ∧
     (c.kind = 0x12 → c.body.length = 1 → let v := fieldAt c.body 0 1
       (v = 1 ∨ v = 2 ∨ v = 4 → ∃ t, exec .setReadBurst s = .next t ∧
         StatusOnly .ok c { s with sc := { s.sc with burst := v } } t) ∧
       (¬(v = 1 ∨ v = 2 ∨ v = 4) → ∃ t, exec .setReadBurst s = .next t ∧
         StatusOnly .badValue c { s with sc := { s.sc with burst := 1 } } t)))

/-- WRITE PARAMETER replaces the value in the set, and no other value of it, where the mode, the number, the range and
the relations allow, and is refused in the order of R199 otherwise. The numbers, and the ranges and held values of what
each names, are those of the tables of R15, R41, R50, R82, R98, R115 and R136 (R197): a breakpoint carries its speed in
the low two bytes and its effort in the high two, the ambient is signed, and the capture period is 20, 50 or 100. The
relations are creep_off below creep_on, P_recover above the emergency threshold, P_fs at most P_em, a breakpoint's speed
between its neighbours' or 0 at the first, and θ_rearm below θ_derate below θ_cut (R199, R86, R97). -/
def Obligations.WriteParameterChecksInOrder : Prop :=
  (∀ n, (paramOf n).isSome = true ↔ (∃ r ∈ paramRows defaultParams, r.number = n) ∨ (0x0500 ≤ n ∧ n ≤ 0x0507) ∨
    n = 0x050B ∨ n = 0x0600) ∧
  (∀ ps : ParamSet,
    (∀ r ∈ paramRows ps, ∃ p, paramOf r.number = some p ∧ readParam ps p = .ofNat 32 r.value ∧
      ∀ w, paramInRange p w = true ↔ r.allows w.toNat) ∧
    (∀ (k : Nat) (x : Breakpoint), ps.thermal.curve[k]? = some x → ∃ p, paramOf (0x0500 + k) = some p ∧
      (x.speed < 65536 → readParam ps p = .ofNat 32 (x.speed + 65536 * x.effort)) ∧
      ∀ w : Word32, let speed := w.toNat % 65536
        (paramInRange p w = true ↔ speed ≤ 16000 ∧ w.toNat / 65536 ≤ 6000) ∧
        (relationHolds ps p w = true ↔ (k = 0 → speed = 0) ∧
          (∀ j y, k = j + 1 → ps.thermal.curve[j]? = some y → y.speed < speed) ∧
          (∀ y, k ≠ 0 → ps.thermal.curve[k + 1]? = some y → speed < y.speed))) ∧
    (∃ p, paramOf 0x050B = some p ∧ readParam ps p = .ofInt 32 ps.thermal.ambient ∧
      ∀ w : Word32, paramInRange p w = true ↔ -500 ≤ w.toInt ∧ w.toInt ≤ 600) ∧
    (∃ p, paramOf 0x0600 = some p ∧ readParam ps p = .ofNat 32 ps.capturePeriod ∧
      ∀ w : Word32, paramInRange p w = true ↔ w.toNat = 20 ∨ w.toNat = 50 ∨ w.toNat = 100) ∧
    (∀ (n : Nat) (p : Param) (w : Word32), paramOf n = some p →
      (n < 0x0500 ∨ 0x0507 < n) →
      (relationHolds ps p w = true ↔
        (n = 0x0200 → ps.slide.creepOff < w.toNat) ∧ (n = 0x0201 → w.toNat < ps.slide.creepOn) ∧
        (n = 0x0303 → w.toNat < ps.pipe.pRecover) ∧ (n = 0x0305 → ps.pipe.emThreshold < w.toNat) ∧
        (n = 0x0403 → w.toNat ≤ ps.blend.pEm) ∧ (n = 0x0404 → ps.blend.pFs ≤ w.toNat) ∧
        (n = 0x050C → ps.thermal.thetaRearm < w.toNat ∧ w.toNat < ps.thermal.thetaCut) ∧
        (n = 0x050D → ps.thermal.thetaRearm < ps.thermal.thetaDerate ∧ ps.thermal.thetaDerate < w.toNat) ∧
        (n = 0x050E → w.toNat < ps.thermal.thetaDerate ∧ ps.thermal.thetaDerate < ps.thermal.thetaCut)))) ∧
  ∀ (c : Command) (s : State), Awaits c s → c.kind = 0x07 →
    let n := fieldAt c.body 0 2
    let w := BitVec.ofNat 32 (fieldAt c.body 2 4)
    (c.body.length ≠ 6 → ∃ t, exec .writeParameter s = .next t ∧ StatusOnly .badLength c s t) ∧
    (c.body.length = 6 → s.cx.mode = .startup ∨ (s.cx.mode = .run ∧ (paramOf n).isSome ∧ n < 0x0400) →
      ∃ t, exec .writeParameter s = .next t ∧ StatusOnly .wrongMode c s t) ∧
    (c.body.length = 6 → s.cx.mode ≠ .startup → paramOf n = none →
      ∃ t, exec .writeParameter s = .next t ∧ StatusOnly .unknownParameter c s t) ∧
    (∀ p, c.body.length = 6 → s.cx.mode = .setup ∨ (s.cx.mode = .run ∧ 0x0400 ≤ n) → paramOf n = some p →
      (paramInRange p w && relationHolds s.pm.params p w) = false →
      ∃ t, exec .writeParameter s = .next t ∧ StatusOnly .badValue c s t) ∧
    (∀ p, c.body.length = 6 → s.cx.mode = .setup ∨ (s.cx.mode = .run ∧ 0x0400 ≤ n) → paramOf n = some p →
      (paramInRange p w && relationHolds s.pm.params p w) = true →
      ∃ t, exec .writeParameter s = .next t ∧
        StatusOnly .ok c { s with pm := { s.pm with params := t.pm.params } } t ∧
        readParam t.pm.params p = w ∧ t.pm.params.triggers = s.pm.params.triggers ∧
        ∀ q, q ≠ p → readParam t.pm.params q = readParam s.pm.params q)

/-- SAVE PARAMETERS begins the image write in SETUP and RUN and is refused in STARTUP; at its end the image
holds the set, and a good read-back clears the defaults flag and is answered OK, a bad one is answered
UNCORRECTABLE (R201). Once RESTART is accepted the image write still ends, without a reply (R203). -/
def Obligations.SaveWritesTheImage : Prop :=
  (∀ (c : Command) (s : State), Awaits c s → c.kind = 0x08 → c.body = [] →
    (s.cx.mode ≠ .startup →
      exec .saveParameters s = .next { s with pm := { s.pm with saving := true } }) ∧
    (s.cx.mode = .startup → ∃ t, exec .saveParameters s = .next t ∧ StatusOnly .wrongMode c s t)) ∧
  (∀ (c : Command) (rest : List Command) (ok : Bool) (s : State), s.powered = true → s.pm.saving = true →
    s.li.queue = c :: rest → s.li.closing = false →
    ∃ t, exec (.saveComplete ok) s = .next t ∧ t.pm.image = ⟨s.pm.params, ok⟩ ∧ t.pm.saving = false ∧
      t.pm.params = s.pm.params ∧
      (imageGood ⟨s.pm.params, ok⟩ = true → t.pm.defaultsFlag = false ∧
        StatusOnly .ok c { s with pm := t.pm } t) ∧
      (imageGood ⟨s.pm.params, ok⟩ = false → t.pm.defaultsFlag = s.pm.defaultsFlag ∧
        StatusOnly .uncorrectable c { s with pm := t.pm } t)) ∧
  (∀ (c : Command) (rest : List Command) (ok : Bool) (s : State), s.powered = true → s.pm.saving = true →
    s.li.queue = c :: rest → s.li.closing = true →
    ∃ t, exec (.saveComplete ok) s = .next t ∧ t.pm.image = ⟨s.pm.params, ok⟩ ∧ t.pm.saving = false ∧
      t = { s with pm := t.pm, li := { s.li with queue := rest } })

/-- ENTER SETUP: refused in STARTUP or while STANDSTILL does not hold; accepted otherwise from SETUP or RUN,
with every entry effect and no other (R194, R196): FAULTED axles stand as axles silent at rest, the other axles, the
reference and AM's conditions as they were (R16); the slide fields of the cleared axles are 0 and those of the others
as they were, both truck records and both sand valves have their reset values (R42); the air-fault latches, the
deviation timers and the moved-in-setup latch are clear, and the outputs as they were until the next composition. -/
def Obligations.EnterSetupNeedsStandstill : Prop :=
  ∀ (c : Command) (s : State), Awaits c s → c.kind = 0x09 → c.body = [] →
    (s.cx.mode = .startup ∨ s.am.standstill = false →
      ∃ t, exec .enterSetup s = .next t ∧ StatusOnly .wrongMode c s t) ∧
    (s.cx.mode ≠ .startup → s.am.standstill = true →
      ∃ t, exec .enterSetup s = .next t ∧
        StatusOnly .ok c { s with
          am := { s.am with axles := t.am.axles }
          sp := { s.sp with
            axles := t.sp.axles, trucks := t.sp.trucks, sandForward := t.sp.sandForward
            sandReverse := t.sp.sandReverse }
          co := t.co, cx := { s.cx with mode := .setup } } t ∧
        t.co.movedInSetup = false ∧
        (∀ g, t.co.trucks.get g = { s.co.trucks.get g with airFault := false, deviation := 0 }) ∧
        (∀ g, t.sp.trucks.get g = ⟨.idle, 0, 0, 0, none, s.pm.params.slide.nominalCap, true, false⟩) ∧
        (∀ v, valveOf t.sp v = ⟨.closed, 0, 0⟩) ∧
        (∀ i, ((s.am.axles.get i).sensor ≠ .faulted →
            t.am.axles.get i = s.am.axles.get i ∧ t.sp.axles.get i = s.sp.axles.get i) ∧
          ((s.am.axles.get i).sensor = .faulted →
            t.am.axles.get i = ⟨none, 0, 0, false, 25, 0, .stopped, 0, none⟩ ∧
            t.sp.axles.get i = { s.sp.axles.get i with
              creep := 0, decel := 0, decelHits := 0, sliding := false, faultTime := 0 })))

/-- ENTER RUN, decided by the part mode, the defaults flag and the demand age (R195). From SETUP it clears the
moved-in-setup latch, brings each protected truck's cap to nominal (R34, R196), and makes the next blend run the
first in RUN, which starts each DBR_g from 0 (R84). -/
def Obligations.EnterRunNeedsParametersAndLink : Prop :=
  ∀ (c : Command) (s : State), Awaits c s → c.kind = 0x0A → c.body = [] →
    (s.cx.mode = .startup ∨ (s.cx.mode = .setup ∧ (s.pm.defaultsFlag = true ∨ 3 < s.bc.demandAge)) →
      ∃ t, exec .enterRun s = .next t ∧ StatusOnly .wrongMode c s t) ∧
    (s.cx.mode = .setup → s.pm.defaultsFlag = false → s.bc.demandAge ≤ 3 →
      ∃ t, exec .enterRun s = .next t ∧ StatusOnly .ok c { s with
        co := { s.co with movedInSetup := false }, cx := { s.cx with mode := .run }
        bc := { s.bc with freshRun := true }, sp := { s.sp with trucks := t.sp.trucks } } t ∧
        ∀ g, t.sp.trucks.get g = (if (s.sp.trucks.get g).isProtected = true then
          { s.sp.trucks.get g with cap := s.pm.params.slide.nominalCap } else s.sp.trucks.get g)) ∧
    (s.cx.mode = .run → ∃ t, exec .enterRun s = .next t ∧ StatusOnly .ok c s t)

/-- Whatever the command, the part comes to RUN by ENTER RUN alone, and leaves RUN by ENTER SETUP, RESTART,
POWER ON or the reset that follows RESTART alone (R193, R195). Every step keeps the part in STARTUP until the
parameter load and the rebuild have both ended (R193). -/
def Obligations.ModeChangesOnlyByItsCommands : Prop :=
  (∀ (c : Instr) (s t : State), modeConsistent s.cx = true → exec c s = .next t →
    (s.cx.mode ≠ .run → t.cx.mode = .run → c = .enterRun) ∧
    (s.cx.mode = .run → t.cx.mode ≠ .run →
      c = .enterSetup ∨ c = .powerOn ∨ c = .resetProceeds ∨ ∃ bytes, c = .restart bytes)) ∧
  (∀ s t : State, modeConsistent s.cx = true → step s = .next t → modeConsistent t.cx = true)

/-- READ INCIDENT and VERIFY INCIDENT of a record the directory holds form the read-out and ask for its first
section; a count of 0 is 16 sections, or the whole record for a verify. In STARTUP, with a count too large,
or without such a record they are refused; a start beyond the record's sections ends the read-out with ADDRESS
OVERFLOW and the reply of its end (R161, R164, R165, R167, R170, R171), in which a true flag travels as 01h (the model's
choice, assumption log 47). That the look-up of the record and the first directory test are one moment, so that no drop
falls between them, is the model's choice too (assumption log 63). -/
def Obligations.ReadOutIsFormed : Prop :=
  ∀ (c : Command) (s : State), Awaits c s →
    (c.kind = 0x0F → c.body.length = 5 →
      (s.cx.mode = .startup → ∃ t, exec .readIncident s = .next t ∧ StatusOnly .wrongMode c s t) ∧
      (s.cx.mode ≠ .startup → 16 < fieldAt c.body 4 1 →
        ∃ t, exec .readIncident s = .next t ∧ StatusOnly .badValue c s t) ∧
      (s.cx.mode ≠ .startup → fieldAt c.body 4 1 ≤ 16 → entryOf s.sc (fieldAt c.body 0 2) = none →
        ∃ t, exec .readIncident s = .next t ∧ StatusOnly .noRecord c s t) ∧
      (∀ e, s.cx.mode ≠ .startup → fieldAt c.body 4 1 ≤ 16 → directoryOk s.sc →
        entryOf s.sc (fieldAt c.body 0 2) = some e → fieldAt c.body 2 2 < e.sectionCount →
        ∃ t r, exec .readIncident s = .next t ∧ t = { s with sc := { s.sc with readOut := some r } } ∧
          r.kind = .read ∧ r.tag = c.tag ∧ r.limitSeen = e.sectionCount ∧ r.waiting = false ∧
          r.number = e.number ∧ r.sequence = e.sequence ∧ r.nextIndex = fieldAt c.body 2 2 ∧
          r.remaining = (if fieldAt c.body 4 1 = 0 then 16 else fieldAt c.body 4 1) ∧
          r.burst = s.sc.burst ∧ r.gathered = [] ∧
          r.asking = some ((e.first + fieldAt c.body 2 2) % 2048)) ∧
      (∀ e, s.cx.mode ≠ .startup → fieldAt c.body 4 1 ≤ 16 → directoryOk s.sc →
        entryOf s.sc (fieldAt c.body 0 2) = some e → e.sectionCount ≤ fieldAt c.body 2 2 →
        ∃ t, exec .readIncident s = .next t ∧ AnsweredWith ([0x0B] ++ le16 e.number ++
          le16 (fieldAt c.body 2 2) ++ le16 (if fieldAt c.body 4 1 = 0 then 16 else fieldAt c.body 4 1) ++
          flagByte (e.state == .filling) ++ [0x00]) c s t)) ∧
    (c.kind = 0x10 → c.body.length = 6 →
      (s.cx.mode = .startup → ∃ t, exec .verifyIncident s = .next t ∧ StatusOnly .wrongMode c s t) ∧
      (s.cx.mode ≠ .startup → fieldAt c.body 4 2 ≤ 2048 → entryOf s.sc (fieldAt c.body 0 2) = none →
        ∃ t, exec .verifyIncident s = .next t ∧ StatusOnly .noRecord c s t) ∧
      (s.cx.mode ≠ .startup → 2048 < fieldAt c.body 4 2 →
        ∃ t, exec .verifyIncident s = .next t ∧ StatusOnly .badValue c s t) ∧
      (∀ e, s.cx.mode ≠ .startup → fieldAt c.body 4 2 ≤ 2048 → directoryOk s.sc →
        entryOf s.sc (fieldAt c.body 0 2) = some e → fieldAt c.body 2 2 < e.sectionCount →
        ∃ t r, exec .verifyIncident s = .next t ∧ t = { s with sc := { s.sc with readOut := some r } } ∧
          r.kind = .verify ∧ r.tag = c.tag ∧ r.limitSeen = e.sectionCount ∧ r.sequence = e.sequence ∧
          r.nextIndex = fieldAt c.body 2 2 ∧ r.corrected = 0 ∧ r.firstFailing = none ∧
          r.number = e.number ∧ r.whole = (fieldAt c.body 4 2 == 0) ∧
          r.remaining = fieldAt c.body 4 2 ∧ r.verified = 0 ∧
          r.asking = some ((e.first + fieldAt c.body 2 2) % 2048)) ∧
      (∀ e, s.cx.mode ≠ .startup → fieldAt c.body 4 2 ≤ 2048 → directoryOk s.sc →
        entryOf s.sc (fieldAt c.body 0 2) = some e → e.sectionCount ≤ fieldAt c.body 2 2 →
        ∃ t, exec .verifyIncident s = .next t ∧ AnsweredWith ([0x0B] ++ le16 e.number ++ le16 0 ++ [0x01] ++
          le16 (fieldAt c.body 2 2) ++ le16 (fieldAt c.body 4 2) ++ le16 0 ++
          flagByte (e.state == .filling)) c s t))

/-- RELEASE INCIDENT by the state of the record: FILLING is refused RECORD FILLING; HELD becomes RELEASED and
joins the pending marks once if it has a TRAILER; RELEASED stays as it is (R172); STARTUP and a number without
a record are refused (R161). Accepted while the store is full it has the block examined afresh, whose records
are dropped and whose erase is permitted where every one of them may be reclaimed (R148, R147); that this is the block at
whose slot 0 the position waits, where it waits for that one, is the model's choice (assumption log 54); once that erase is
permitted, a further release changes nothing of it (R148). -/
def Obligations.ReleaseMakesTheRecordReleased : Prop :=
  ∀ (c : Command) (s : State), Awaits c s → c.kind = 0x11 → c.body.length = 2 →
    let released := fun (e : DirEntry) => s.sc.directory.map (fun d =>
      if d.number = e.number then { d with state := .released } else d)
    let marks := fun (e : DirEntry) => if e.trailer.isSome = true ∧ e.number ∉ s.sc.pendingMarks then
      s.sc.pendingMarks ++ [e.number] else s.sc.pendingMarks
    (s.cx.mode = .startup → ∃ t, exec .releaseIncident s = .next t ∧ StatusOnly .wrongMode c s t) ∧
    (s.cx.mode ≠ .startup → entryOf s.sc (fieldAt c.body 0 2) = none →
      ∃ t, exec .releaseIncident s = .next t ∧ StatusOnly .noRecord c s t) ∧
    (∀ e, s.cx.mode ≠ .startup → entryOf s.sc (fieldAt c.body 0 2) = some e →
      (e.state = .filling → ∃ t, exec .releaseIncident s = .next t ∧ StatusOnly .recordFilling c s t) ∧
      (e.state = .released → s.sc.storeFull = false ∨ s.sc.eraseAhead ≠ .due false →
        ∃ t, exec .releaseIncident s = .next t ∧ StatusOnly .ok c s t) ∧
      (e.state = .held → s.sc.storeFull = false ∨ s.sc.eraseAhead ≠ .due false →
        ∃ t, exec .releaseIncident s = .next t ∧
          StatusOnly .ok c { s with sc := { s.sc with directory := released e, pendingMarks := marks e } } t) ∧
      (e.state ≠ .filling → s.sc.storeFull = true → s.sc.eraseAhead = .due false →
        let dir := if e.state = .held then released e else s.sc.directory
        let block := if s.sc.seat = .unerased then s.sc.position / 16 else (s.sc.position / 16 + 1) % 128
        ∃ t, exec .releaseIncident s = .next t ∧ StatusOnly .ok c { s with sc := t.sc } t ∧
          ExaminedAt block dir true { s with sc := { s.sc with
            pendingMarks := if e.state = .held then marks e else s.sc.pendingMarks } } t))

/-! ## Reset -/

/-- The state after reset meets every invariant stated here. -/
def Obligations.InvariantsHoldAtReset : Prop :=
  State.reset.medium.wf = true ∧ directoryOk State.reset.sc ∧ rangesHold State.reset = true ∧
  linkBounded State.reset.li = true ∧ RepliesKept State.reset ∧ modeConsistent State.reset.cx = true ∧
  mapInStore State.reset.sc.map = true ∧ MapKept State.reset.sc State.reset.medium ∧
  ∀ g, outputsAgree (State.reset.co.trucks.get g) = true
end

