-- ==== Sys2Proof/Laws/State.lean ====
section
/-! SUPPORT. One lemma per field for each shared update of the state, so that no proof unfolds a record
update. -/

namespace Sys2Proof.Machine

@[simp] theorem raise_powered (n : Notice) (s : State) : (raise n s).powered = s.powered := rfl
@[simp] theorem raise_timersRunning (n : Notice) (s : State) : (raise n s).timersRunning = s.timersRunning := rfl
@[simp] theorem raise_am (n : Notice) (s : State) : (raise n s).am = s.am := rfl
@[simp] theorem raise_sp (n : Notice) (s : State) : (raise n s).sp = s.sp := rfl
@[simp] theorem raise_bpm (n : Notice) (s : State) : (raise n s).bpm = s.bpm := rfl
@[simp] theorem raise_demand (n : Notice) (s : State) : (raise n s).demand = s.demand := rfl
@[simp] theorem raise_bc (n : Notice) (s : State) : (raise n s).bc = s.bc := rfl
@[simp] theorem raise_gt (n : Notice) (s : State) : (raise n s).gt = s.gt := rfl
@[simp] theorem raise_co (n : Notice) (s : State) : (raise n s).co = s.co := rfl
@[simp] theorem raise_cu (n : Notice) (s : State) : (raise n s).cu = s.cu := rfl
@[simp] theorem raise_sc (n : Notice) (s : State) : (raise n s).sc = s.sc := rfl
@[simp] theorem raise_medium (n : Notice) (s : State) : (raise n s).medium = s.medium := rfl
@[simp] theorem raise_li (n : Notice) (s : State) : (raise n s).li = s.li := rfl
@[simp] theorem raise_cx (n : Notice) (s : State) : (raise n s).cx = { s.cx with notices := s.cx.notices ||| noticeBit n } := rfl
@[simp] theorem raise_pm (n : Notice) (s : State) : (raise n s).pm = s.pm := rfl
@[simp] theorem raise_freeCount (n : Notice) (s : State) : (raise n s).freeCount = s.freeCount := rfl
@[simp] theorem raise_pending (n : Notice) (s : State) : (raise n s).pending = s.pending := rfl

@[simp] theorem withSc_powered (f : StoreController → StoreController) (s : State) : (withSc f s).powered = s.powered := rfl
@[simp] theorem withSc_timersRunning (f : StoreController → StoreController) (s : State) : (withSc f s).timersRunning = s.timersRunning := rfl
@[simp] theorem withSc_am (f : StoreController → StoreController) (s : State) : (withSc f s).am = s.am := rfl
@[simp] theorem withSc_sp (f : StoreController → StoreController) (s : State) : (withSc f s).sp = s.sp := rfl
@[simp] theorem withSc_bpm (f : StoreController → StoreController) (s : State) : (withSc f s).bpm = s.bpm := rfl
@[simp] theorem withSc_demand (f : StoreController → StoreController) (s : State) : (withSc f s).demand = s.demand := rfl
@[simp] theorem withSc_bc (f : StoreController → StoreController) (s : State) : (withSc f s).bc = s.bc := rfl
@[simp] theorem withSc_gt (f : StoreController → StoreController) (s : State) : (withSc f s).gt = s.gt := rfl
@[simp] theorem withSc_co (f : StoreController → StoreController) (s : State) : (withSc f s).co = s.co := rfl
@[simp] theorem withSc_cu (f : StoreController → StoreController) (s : State) : (withSc f s).cu = s.cu := rfl
@[simp] theorem withSc_sc (f : StoreController → StoreController) (s : State) : (withSc f s).sc = f s.sc := rfl
@[simp] theorem withSc_medium (f : StoreController → StoreController) (s : State) : (withSc f s).medium = s.medium := rfl
@[simp] theorem withSc_li (f : StoreController → StoreController) (s : State) : (withSc f s).li = s.li := rfl
@[simp] theorem withSc_cx (f : StoreController → StoreController) (s : State) : (withSc f s).cx = s.cx := rfl
@[simp] theorem withSc_pm (f : StoreController → StoreController) (s : State) : (withSc f s).pm = s.pm := rfl
@[simp] theorem withSc_freeCount (f : StoreController → StoreController) (s : State) : (withSc f s).freeCount = s.freeCount := rfl
@[simp] theorem withSc_pending (f : StoreController → StoreController) (s : State) : (withSc f s).pending = s.pending := rfl

@[simp] theorem withCu_powered (f : CaptureUnit → CaptureUnit) (s : State) : (withCu f s).powered = s.powered := rfl
@[simp] theorem withCu_timersRunning (f : CaptureUnit → CaptureUnit) (s : State) : (withCu f s).timersRunning = s.timersRunning := rfl
@[simp] theorem withCu_am (f : CaptureUnit → CaptureUnit) (s : State) : (withCu f s).am = s.am := rfl
@[simp] theorem withCu_sp (f : CaptureUnit → CaptureUnit) (s : State) : (withCu f s).sp = s.sp := rfl
@[simp] theorem withCu_bpm (f : CaptureUnit → CaptureUnit) (s : State) : (withCu f s).bpm = s.bpm := rfl
@[simp] theorem withCu_demand (f : CaptureUnit → CaptureUnit) (s : State) : (withCu f s).demand = s.demand := rfl
@[simp] theorem withCu_bc (f : CaptureUnit → CaptureUnit) (s : State) : (withCu f s).bc = s.bc := rfl
@[simp] theorem withCu_gt (f : CaptureUnit → CaptureUnit) (s : State) : (withCu f s).gt = s.gt := rfl
@[simp] theorem withCu_co (f : CaptureUnit → CaptureUnit) (s : State) : (withCu f s).co = s.co := rfl
@[simp] theorem withCu_cu (f : CaptureUnit → CaptureUnit) (s : State) : (withCu f s).cu = f s.cu := rfl
@[simp] theorem withCu_sc (f : CaptureUnit → CaptureUnit) (s : State) : (withCu f s).sc = s.sc := rfl
@[simp] theorem withCu_medium (f : CaptureUnit → CaptureUnit) (s : State) : (withCu f s).medium = s.medium := rfl
@[simp] theorem withCu_li (f : CaptureUnit → CaptureUnit) (s : State) : (withCu f s).li = s.li := rfl
@[simp] theorem withCu_cx (f : CaptureUnit → CaptureUnit) (s : State) : (withCu f s).cx = s.cx := rfl
@[simp] theorem withCu_pm (f : CaptureUnit → CaptureUnit) (s : State) : (withCu f s).pm = s.pm := rfl
@[simp] theorem withCu_freeCount (f : CaptureUnit → CaptureUnit) (s : State) : (withCu f s).freeCount = s.freeCount := rfl
@[simp] theorem withCu_pending (f : CaptureUnit → CaptureUnit) (s : State) : (withCu f s).pending = s.pending := rfl

@[simp] theorem freePort_powered (s : State) : (freePort s).powered = s.powered := rfl
@[simp] theorem freePort_timersRunning (s : State) : (freePort s).timersRunning = s.timersRunning := rfl
@[simp] theorem freePort_am (s : State) : (freePort s).am = s.am := rfl
@[simp] theorem freePort_sp (s : State) : (freePort s).sp = s.sp := rfl
@[simp] theorem freePort_bpm (s : State) : (freePort s).bpm = s.bpm := rfl
@[simp] theorem freePort_demand (s : State) : (freePort s).demand = s.demand := rfl
@[simp] theorem freePort_bc (s : State) : (freePort s).bc = s.bc := rfl
@[simp] theorem freePort_gt (s : State) : (freePort s).gt = s.gt := rfl
@[simp] theorem freePort_co (s : State) : (freePort s).co = s.co := rfl
@[simp] theorem freePort_cu (s : State) : (freePort s).cu = s.cu := rfl
@[simp] theorem freePort_sc (s : State) : (freePort s).sc = { s.sc with port := none } := rfl
@[simp] theorem freePort_medium (s : State) : (freePort s).medium = s.medium := rfl
@[simp] theorem freePort_li (s : State) : (freePort s).li = s.li := rfl
@[simp] theorem freePort_cx (s : State) : (freePort s).cx = s.cx := rfl
@[simp] theorem freePort_pm (s : State) : (freePort s).pm = s.pm := rfl
@[simp] theorem freePort_freeCount (s : State) : (freePort s).freeCount = s.freeCount := rfl
@[simp] theorem freePort_pending (s : State) : (freePort s).pending = s.pending := rfl

@[simp] theorem popCommand_powered (s : State) : (popCommand s).powered = s.powered := rfl
@[simp] theorem popCommand_timersRunning (s : State) : (popCommand s).timersRunning = s.timersRunning := rfl
@[simp] theorem popCommand_am (s : State) : (popCommand s).am = s.am := rfl
@[simp] theorem popCommand_sp (s : State) : (popCommand s).sp = s.sp := rfl
@[simp] theorem popCommand_bpm (s : State) : (popCommand s).bpm = s.bpm := rfl
@[simp] theorem popCommand_demand (s : State) : (popCommand s).demand = s.demand := rfl
@[simp] theorem popCommand_bc (s : State) : (popCommand s).bc = s.bc := rfl
@[simp] theorem popCommand_gt (s : State) : (popCommand s).gt = s.gt := rfl
@[simp] theorem popCommand_co (s : State) : (popCommand s).co = s.co := rfl
@[simp] theorem popCommand_cu (s : State) : (popCommand s).cu = s.cu := rfl
@[simp] theorem popCommand_sc (s : State) : (popCommand s).sc = s.sc := rfl
@[simp] theorem popCommand_medium (s : State) : (popCommand s).medium = s.medium := rfl
@[simp] theorem popCommand_li (s : State) : (popCommand s).li = { s.li with queue := s.li.queue.tail } := rfl
@[simp] theorem popCommand_cx (s : State) : (popCommand s).cx = s.cx := rfl
@[simp] theorem popCommand_pm (s : State) : (popCommand s).pm = s.pm := rfl
@[simp] theorem popCommand_freeCount (s : State) : (popCommand s).freeCount = s.freeCount := rfl
@[simp] theorem popCommand_pending (s : State) : (popCommand s).pending = s.pending := rfl

@[simp] theorem withReadOut_powered (r : Option ReadOut) (s : State) : (withReadOut r s).powered = s.powered := rfl
@[simp] theorem withReadOut_timersRunning (r : Option ReadOut) (s : State) : (withReadOut r s).timersRunning = s.timersRunning := rfl
@[simp] theorem withReadOut_am (r : Option ReadOut) (s : State) : (withReadOut r s).am = s.am := rfl
@[simp] theorem withReadOut_sp (r : Option ReadOut) (s : State) : (withReadOut r s).sp = s.sp := rfl
@[simp] theorem withReadOut_bpm (r : Option ReadOut) (s : State) : (withReadOut r s).bpm = s.bpm := rfl
@[simp] theorem withReadOut_demand (r : Option ReadOut) (s : State) : (withReadOut r s).demand = s.demand := rfl
@[simp] theorem withReadOut_bc (r : Option ReadOut) (s : State) : (withReadOut r s).bc = s.bc := rfl
@[simp] theorem withReadOut_gt (r : Option ReadOut) (s : State) : (withReadOut r s).gt = s.gt := rfl
@[simp] theorem withReadOut_co (r : Option ReadOut) (s : State) : (withReadOut r s).co = s.co := rfl
@[simp] theorem withReadOut_cu (r : Option ReadOut) (s : State) : (withReadOut r s).cu = s.cu := rfl
@[simp] theorem withReadOut_sc (r : Option ReadOut) (s : State) : (withReadOut r s).sc = { s.sc with readOut := r } := rfl
@[simp] theorem withReadOut_medium (r : Option ReadOut) (s : State) : (withReadOut r s).medium = s.medium := rfl
@[simp] theorem withReadOut_li (r : Option ReadOut) (s : State) : (withReadOut r s).li = s.li := rfl
@[simp] theorem withReadOut_cx (r : Option ReadOut) (s : State) : (withReadOut r s).cx = s.cx := rfl
@[simp] theorem withReadOut_pm (r : Option ReadOut) (s : State) : (withReadOut r s).pm = s.pm := rfl
@[simp] theorem withReadOut_freeCount (r : Option ReadOut) (s : State) : (withReadOut r s).freeCount = s.freeCount := rfl
@[simp] theorem withReadOut_pending (r : Option ReadOut) (s : State) : (withReadOut r s).pending = s.pending := rfl

@[simp] theorem recoveryTo_powered (r : Recovery) (step : RecoveryStep) (s : State) : (recoveryTo r step s).powered = s.powered := rfl
@[simp] theorem recoveryTo_timersRunning (r : Recovery) (step : RecoveryStep) (s : State) : (recoveryTo r step s).timersRunning = s.timersRunning := rfl
@[simp] theorem recoveryTo_am (r : Recovery) (step : RecoveryStep) (s : State) : (recoveryTo r step s).am = s.am := rfl
@[simp] theorem recoveryTo_sp (r : Recovery) (step : RecoveryStep) (s : State) : (recoveryTo r step s).sp = s.sp := rfl
@[simp] theorem recoveryTo_bpm (r : Recovery) (step : RecoveryStep) (s : State) : (recoveryTo r step s).bpm = s.bpm := rfl
@[simp] theorem recoveryTo_demand (r : Recovery) (step : RecoveryStep) (s : State) : (recoveryTo r step s).demand = s.demand := rfl
@[simp] theorem recoveryTo_bc (r : Recovery) (step : RecoveryStep) (s : State) : (recoveryTo r step s).bc = s.bc := rfl
@[simp] theorem recoveryTo_gt (r : Recovery) (step : RecoveryStep) (s : State) : (recoveryTo r step s).gt = s.gt := rfl
@[simp] theorem recoveryTo_co (r : Recovery) (step : RecoveryStep) (s : State) : (recoveryTo r step s).co = s.co := rfl
@[simp] theorem recoveryTo_cu (r : Recovery) (step : RecoveryStep) (s : State) : (recoveryTo r step s).cu = s.cu := rfl
@[simp] theorem recoveryTo_sc (r : Recovery) (step : RecoveryStep) (s : State) : (recoveryTo r step s).sc = { s.sc with recovery := some { r with step := step } } := rfl
@[simp] theorem recoveryTo_medium (r : Recovery) (step : RecoveryStep) (s : State) : (recoveryTo r step s).medium = s.medium := rfl
@[simp] theorem recoveryTo_li (r : Recovery) (step : RecoveryStep) (s : State) : (recoveryTo r step s).li = s.li := rfl
@[simp] theorem recoveryTo_cx (r : Recovery) (step : RecoveryStep) (s : State) : (recoveryTo r step s).cx = s.cx := rfl
@[simp] theorem recoveryTo_pm (r : Recovery) (step : RecoveryStep) (s : State) : (recoveryTo r step s).pm = s.pm := rfl
@[simp] theorem recoveryTo_freeCount (r : Recovery) (step : RecoveryStep) (s : State) : (recoveryTo r step s).freeCount = s.freeCount := rfl
@[simp] theorem recoveryTo_pending (r : Recovery) (step : RecoveryStep) (s : State) : (recoveryTo r step s).pending = s.pending := rfl

@[simp] theorem relocationTo_powered (r : Relocation) (step : RelocStep) (s : State) : (relocationTo r step s).powered = s.powered := rfl
@[simp] theorem relocationTo_timersRunning (r : Relocation) (step : RelocStep) (s : State) : (relocationTo r step s).timersRunning = s.timersRunning := rfl
@[simp] theorem relocationTo_am (r : Relocation) (step : RelocStep) (s : State) : (relocationTo r step s).am = s.am := rfl
@[simp] theorem relocationTo_sp (r : Relocation) (step : RelocStep) (s : State) : (relocationTo r step s).sp = s.sp := rfl
@[simp] theorem relocationTo_bpm (r : Relocation) (step : RelocStep) (s : State) : (relocationTo r step s).bpm = s.bpm := rfl
@[simp] theorem relocationTo_demand (r : Relocation) (step : RelocStep) (s : State) : (relocationTo r step s).demand = s.demand := rfl
@[simp] theorem relocationTo_bc (r : Relocation) (step : RelocStep) (s : State) : (relocationTo r step s).bc = s.bc := rfl
@[simp] theorem relocationTo_gt (r : Relocation) (step : RelocStep) (s : State) : (relocationTo r step s).gt = s.gt := rfl
@[simp] theorem relocationTo_co (r : Relocation) (step : RelocStep) (s : State) : (relocationTo r step s).co = s.co := rfl
@[simp] theorem relocationTo_cu (r : Relocation) (step : RelocStep) (s : State) : (relocationTo r step s).cu = s.cu := rfl
@[simp] theorem relocationTo_sc (r : Relocation) (step : RelocStep) (s : State) : (relocationTo r step s).sc = { s.sc with relocation := some { r with step := step } } := rfl
@[simp] theorem relocationTo_medium (r : Relocation) (step : RelocStep) (s : State) : (relocationTo r step s).medium = s.medium := rfl
@[simp] theorem relocationTo_li (r : Relocation) (step : RelocStep) (s : State) : (relocationTo r step s).li = s.li := rfl
@[simp] theorem relocationTo_cx (r : Relocation) (step : RelocStep) (s : State) : (relocationTo r step s).cx = s.cx := rfl
@[simp] theorem relocationTo_pm (r : Relocation) (step : RelocStep) (s : State) : (relocationTo r step s).pm = s.pm := rfl
@[simp] theorem relocationTo_freeCount (r : Relocation) (step : RelocStep) (s : State) : (relocationTo r step s).freeCount = s.freeCount := rfl
@[simp] theorem relocationTo_pending (r : Relocation) (step : RelocStep) (s : State) : (relocationTo r step s).pending = s.pending := rfl

@[simp] theorem enterRun_powered (s : State) : (enterRun s).powered = s.powered := rfl
@[simp] theorem enterRun_timersRunning (s : State) : (enterRun s).timersRunning = s.timersRunning := rfl
@[simp] theorem enterRun_am (s : State) : (enterRun s).am = s.am := rfl
@[simp] theorem enterRun_sp (s : State) : (enterRun s).sp = runSlideUnit s.pm.params.slide s.sp := rfl
@[simp] theorem enterRun_bpm (s : State) : (enterRun s).bpm = s.bpm := rfl
@[simp] theorem enterRun_demand (s : State) : (enterRun s).demand = s.demand := rfl
@[simp] theorem enterRun_bc (s : State) : (enterRun s).bc = { s.bc with freshRun := true } := rfl
@[simp] theorem enterRun_gt (s : State) : (enterRun s).gt = s.gt := rfl
@[simp] theorem enterRun_co (s : State) : (enterRun s).co = { s.co with movedInSetup := false } := rfl
@[simp] theorem enterRun_cu (s : State) : (enterRun s).cu = s.cu := rfl
@[simp] theorem enterRun_sc (s : State) : (enterRun s).sc = s.sc := rfl
@[simp] theorem enterRun_medium (s : State) : (enterRun s).medium = s.medium := rfl
@[simp] theorem enterRun_li (s : State) : (enterRun s).li = s.li := rfl
@[simp] theorem enterRun_cx (s : State) : (enterRun s).cx = { s.cx with mode := .run } := rfl
@[simp] theorem enterRun_pm (s : State) : (enterRun s).pm = s.pm := rfl
@[simp] theorem enterRun_freeCount (s : State) : (enterRun s).freeCount = s.freeCount := rfl
@[simp] theorem enterRun_pending (s : State) : (enterRun s).pending = s.pending := rfl

@[simp] theorem enterSetup_powered (s : State) : (enterSetup s).powered = s.powered := rfl
@[simp] theorem enterSetup_timersRunning (s : State) : (enterSetup s).timersRunning = s.timersRunning := rfl
@[simp] theorem enterSetup_am (s : State) : (enterSetup s).am = { s.am with axles := clearFaultedAxles s.am.axles } := rfl
@[simp] theorem enterSetup_sp (s : State) : (enterSetup s).sp = setupSlideUnit s.pm.params.slide s.am.axles s.sp := rfl
@[simp] theorem enterSetup_bpm (s : State) : (enterSetup s).bpm = s.bpm := rfl
@[simp] theorem enterSetup_demand (s : State) : (enterSetup s).demand = s.demand := rfl
@[simp] theorem enterSetup_bc (s : State) : (enterSetup s).bc = s.bc := rfl
@[simp] theorem enterSetup_gt (s : State) : (enterSetup s).gt = s.gt := rfl
@[simp] theorem enterSetup_co (s : State) : (enterSetup s).co = setupCylinderOutput s.co := rfl
@[simp] theorem enterSetup_cu (s : State) : (enterSetup s).cu = s.cu := rfl
@[simp] theorem enterSetup_sc (s : State) : (enterSetup s).sc = s.sc := rfl
@[simp] theorem enterSetup_medium (s : State) : (enterSetup s).medium = s.medium := rfl
@[simp] theorem enterSetup_li (s : State) : (enterSetup s).li = s.li := rfl
@[simp] theorem enterSetup_cx (s : State) : (enterSetup s).cx = { s.cx with mode := .setup } := rfl
@[simp] theorem enterSetup_pm (s : State) : (enterSetup s).pm = s.pm := rfl
@[simp] theorem enterSetup_freeCount (s : State) : (enterSetup s).freeCount = s.freeCount := rfl
@[simp] theorem enterSetup_pending (s : State) : (enterSetup s).pending = s.pending := rfl

@[simp] theorem raiseIf_powered (b : Bool) (n : Notice) (s : State) : (raiseIf b n s).powered = s.powered := by
  cases b <;> rfl
@[simp] theorem raiseIf_timersRunning (b : Bool) (n : Notice) (s : State) : (raiseIf b n s).timersRunning = s.timersRunning := by
  cases b <;> rfl
@[simp] theorem raiseIf_am (b : Bool) (n : Notice) (s : State) : (raiseIf b n s).am = s.am := by
  cases b <;> rfl
@[simp] theorem raiseIf_sp (b : Bool) (n : Notice) (s : State) : (raiseIf b n s).sp = s.sp := by
  cases b <;> rfl
@[simp] theorem raiseIf_bpm (b : Bool) (n : Notice) (s : State) : (raiseIf b n s).bpm = s.bpm := by
  cases b <;> rfl
@[simp] theorem raiseIf_demand (b : Bool) (n : Notice) (s : State) : (raiseIf b n s).demand = s.demand := by
  cases b <;> rfl
@[simp] theorem raiseIf_bc (b : Bool) (n : Notice) (s : State) : (raiseIf b n s).bc = s.bc := by
  cases b <;> rfl
@[simp] theorem raiseIf_gt (b : Bool) (n : Notice) (s : State) : (raiseIf b n s).gt = s.gt := by
  cases b <;> rfl
@[simp] theorem raiseIf_co (b : Bool) (n : Notice) (s : State) : (raiseIf b n s).co = s.co := by
  cases b <;> rfl
@[simp] theorem raiseIf_cu (b : Bool) (n : Notice) (s : State) : (raiseIf b n s).cu = s.cu := by
  cases b <;> rfl
@[simp] theorem raiseIf_sc (b : Bool) (n : Notice) (s : State) : (raiseIf b n s).sc = s.sc := by
  cases b <;> rfl
@[simp] theorem raiseIf_medium (b : Bool) (n : Notice) (s : State) : (raiseIf b n s).medium = s.medium := by
  cases b <;> rfl
@[simp] theorem raiseIf_li (b : Bool) (n : Notice) (s : State) : (raiseIf b n s).li = s.li := by
  cases b <;> rfl
@[simp] theorem raiseIf_pm (b : Bool) (n : Notice) (s : State) : (raiseIf b n s).pm = s.pm := by
  cases b <;> rfl
@[simp] theorem raiseIf_freeCount (b : Bool) (n : Notice) (s : State) : (raiseIf b n s).freeCount = s.freeCount := by
  cases b <;> rfl
@[simp] theorem raiseIf_pending (b : Bool) (n : Notice) (s : State) : (raiseIf b n s).pending = s.pending := by
  cases b <;> rfl

/-- What `raiseIf` leaves of CX. -/
theorem raiseIf_cx (b : Bool) (n : Notice) (s : State) :
    (raiseIf b n s).cx =
      { s.cx with notices := if b then s.cx.notices ||| noticeBit n else s.cx.notices } := by
  cases b <;> rfl

@[simp] theorem raiseIf_mode (b : Bool) (n : Notice) (s : State) : (raiseIf b n s).cx.mode = s.cx.mode := by
  cases b <;> rfl

/-- The answer of a powered part. -/
theorem done_powered {s : State} (t : State) (h : s.powered = true) : done s t = .next t := by
  simp [done, h]

/-- An occasion met. -/
theorem onOccasion_met {s : State} (t : State) (h : s.powered = true) : onOccasion true s t = .next t := by
  simp [onOccasion, done, h]

/-- What a command answered through `done` or `onOccasion` leaves: the given state or the present one. -/
theorem done_cases {s t u : State} (h : done s t = .next u) : u = t ∨ u = s := by
  simp only [done, Host.Outcome.next.injEq] at h
  split at h
  · exact .inl h.symm
  · exact .inr h.symm

theorem onOccasion_cases {s t u : State} {b : Bool} (h : onOccasion b s t = .next u) : u = t ∨ u = s := by
  cases b with
  | true => exact done_cases h
  | false =>
    rcases done_cases h with h | h <;> exact .inr h

end Sys2Proof.Machine
end

