-- ==== Sys2Proof/Laws/Ops.lean ====
section
/-! SUPPORT. For each shared operation of Ops, Link and Directory, one lemma that says all it can do. -/

namespace Sys2Proof.Machine

/-! ## Sending -/

/-- At a frame boundary nothing but the two pending lists and the transmission changes. -/
theorem startTx_frame (s : State) :
    startTx s = { s with li := { s.li with
      reports := (startTx s).li.reports, replies := (startTx s).li.replies, tx := (startTx s).li.tx } } := by
  unfold startTx
  split
  · rfl
  · split <;> rfl

/-- What `startTx` leaves in the lists and on the line. -/
theorem startTx_cases (s : State) :
    (startTx s = s ∧ (s.li.tx.isSome = true ∨ (s.li.reports = [] ∧ s.li.replies = []))) ∨
    (s.li.tx = none ∧ ∃ e rest, s.li.reports = e :: rest ∧
      startTx s = { s with li := { s.li with reports := rest, tx := some ⟨reportFrame s e, .plain⟩ } }) ∨
    (s.li.tx = none ∧ s.li.reports = [] ∧ ∃ r rest, s.li.replies = r :: rest ∧
      startTx s = { s with li := { s.li with
        replies := rest, tx := some ⟨frameBytes r.kind r.tag r.body, r.role⟩ } }) := by
  rcases htx : s.li.tx with _ | f
  · rcases hr : s.li.reports with _ | ⟨e, rest⟩
    · rcases hp : s.li.replies with _ | ⟨r, rest⟩
      · exact .inl ⟨by simp [startTx, htx, hr, hp], .inr ⟨rfl, rfl⟩⟩
      · exact .inr (.inr ⟨rfl, rfl, r, rest, rfl, by simp [startTx, htx, hr, hp]⟩)
    · exact .inr (.inl ⟨rfl, e, rest, rfl, by simp [startTx, htx, hr]⟩)
  · exact .inl ⟨by simp [startTx, htx], .inl rfl⟩

@[simp] theorem startTx_queue (s : State) : (startTx s).li.queue = s.li.queue := by rw [startTx_frame]
@[simp] theorem startTx_overrun (s : State) : (startTx s).li.overrun = s.li.overrun := by rw [startTx_frame]
@[simp] theorem startTx_closing (s : State) : (startTx s).li.closing = s.li.closing := by rw [startTx_frame]
@[simp] theorem startTx_receiver (s : State) : (startTx s).li.receiver = s.li.receiver := by
  rw [startTx_frame]
@[simp] theorem startTx_restartSent (s : State) : (startTx s).li.restartSent = s.li.restartSent := by
  rw [startTx_frame]
@[simp] theorem startTx_powered (s : State) : (startTx s).powered = s.powered := by rw [startTx_frame]
@[simp] theorem startTx_timersRunning (s : State) : (startTx s).timersRunning = s.timersRunning := by
  rw [startTx_frame]
@[simp] theorem startTx_am (s : State) : (startTx s).am = s.am := by rw [startTx_frame]
@[simp] theorem startTx_sp (s : State) : (startTx s).sp = s.sp := by rw [startTx_frame]
@[simp] theorem startTx_bpm (s : State) : (startTx s).bpm = s.bpm := by rw [startTx_frame]
@[simp] theorem startTx_demand (s : State) : (startTx s).demand = s.demand := by rw [startTx_frame]
@[simp] theorem startTx_bc (s : State) : (startTx s).bc = s.bc := by rw [startTx_frame]
@[simp] theorem startTx_gt (s : State) : (startTx s).gt = s.gt := by rw [startTx_frame]
@[simp] theorem startTx_co (s : State) : (startTx s).co = s.co := by rw [startTx_frame]
@[simp] theorem startTx_cu (s : State) : (startTx s).cu = s.cu := by rw [startTx_frame]
@[simp] theorem startTx_sc (s : State) : (startTx s).sc = s.sc := by rw [startTx_frame]
@[simp] theorem startTx_medium (s : State) : (startTx s).medium = s.medium := by rw [startTx_frame]
@[simp] theorem startTx_cx (s : State) : (startTx s).cx = s.cx := by rw [startTx_frame]
@[simp] theorem startTx_pm (s : State) : (startTx s).pm = s.pm := by rw [startTx_frame]
@[simp] theorem startTx_freeCount (s : State) : (startTx s).freeCount = s.freeCount := by rw [startTx_frame]
@[simp] theorem startTx_pending (s : State) : (startTx s).pending = s.pending := by rw [startTx_frame]

/-- `startTx` only shortens the two lists. -/
theorem startTx_reports_le (s : State) : (startTx s).li.reports.length ≤ s.li.reports.length := by
  rcases startTx_cases s with ⟨h, -⟩ | ⟨-, e, rest, hr, h⟩ | ⟨-, hr, r, rest, hp, h⟩ <;> rw [h] <;> simp_all

/-- The frame of a report reads nothing of the line. -/
theorem reportFrame_setLi (e : ReportEntry) (s : State) (l : LinkInterface) :
    reportFrame { s with li := l } e = reportFrame s e := by
  cases e <;> rfl

/-- At a frame boundary the line goes on with its frame, or takes the oldest entry that waits. -/
theorem startTx_placed (s : State) : Placed s.li.reports s.li.replies s (startTx s) := by
  rcases startTx_cases s with ⟨h, hw⟩ | ⟨hn, e, rest, hr, h⟩ | ⟨hn, hr, r, rest, hp, h⟩
  · refine ⟨fun f hf => ?_, fun hn => ?_⟩
    · rw [h]; exact ⟨hf, rfl, rfl⟩
    · rcases hw with hw | ⟨hr, hp⟩
      · rw [hn] at hw; cases hw
      · rw [h, hr, hp]
        refine ⟨?_, ?_, fun _ _ => ⟨hn, hr, hp⟩⟩
        · intro e rest he; cases he
        · intro e rest _ he; cases he
  · refine ⟨fun f hf => absurd (hn.symm.trans hf) (by simp), fun _ => ⟨?_, ?_, ?_⟩⟩
    · intro e' rest' he
      rw [hr] at he
      injection he with h1 h2
      subst h1 h2
      rw [h, reportFrame_setLi]
      exact ⟨rfl, rfl, rfl⟩
    · intro x rest' he; rw [hr] at he; cases he
    · intro he; rw [hr] at he; cases he
  · refine ⟨fun f hf => absurd (hn.symm.trans hf) (by simp), fun _ => ⟨?_, ?_, ?_⟩⟩
    · intro e rest' he; rw [hr] at he; cases he
    · intro x rest' _ he
      rw [hp] at he
      injection he with h1 h2
      subst h1 h2
      rw [h]
      exact ⟨rfl, hr, rfl⟩
    · intro _ he; rw [hp] at he; cases he

/-- A reply placed waits behind all that waits already, or an idle line takes the oldest entry. -/
theorem placeReply_placed (r : Reply) (s : State) :
    Placed s.li.reports (s.li.replies ++ [r]) s (placeReply r s) :=
  startTx_placed { s with li := { s.li with replies := s.li.replies ++ [r] } }

/-- What waits and what is sent depends on the lists, the transmission and the values of a report alone. -/
theorem Placed.congr {reports : List ReportEntry} {replies : List Reply} {s t u : State}
    (h : Placed reports replies s t) (hf : ∀ e, reportFrame u e = reportFrame t e) (hx : u.li.tx = t.li.tx)
    (hr : u.li.reports = t.li.reports) (hp : u.li.replies = t.li.replies) : Placed reports replies s u := by
  unfold Placed Sends
  simp only [hf, hx, hr, hp]
  exact h

/-- Placing a reply changes nothing but the two pending lists and the transmission. -/
theorem placeReply_frame (r : Reply) (s : State) :
    placeReply r s = { s with li := { s.li with
      reports := (placeReply r s).li.reports, replies := (placeReply r s).li.replies
      tx := (placeReply r s).li.tx } } :=
  startTx_frame { s with li := { s.li with replies := s.li.replies ++ [r] } }

/-- A finished command is answered by its reply, and nothing else changes. -/
theorem finishCommand_answered (r : Reply) (s : State) : AnsweredBy r s (finishCommand r s) := by
  refine ⟨?_, ?_⟩
  · unfold finishCommand
    rw [placeReply_frame]
    rfl
  · exact (placeReply_placed r s).congr (fun e => by cases e <;> rfl) rfl rfl rfl

/-- All that placing the reply of an arrival can do. -/
theorem placeArrivalReply_answered (r : Reply) (s : State) : ArrivalAnswered r s (placeArrivalReply r s) := by
  unfold placeArrivalReply
  split
  · rename_i h
    have hx : (placeReply r s).cx.notices = s.cx.notices := by rw [placeReply_frame]
    refine ⟨?_, fun _ => ⟨placeReply_placed r s, hx⟩, fun h' => absurd h (by omega)⟩
    rw [hx, placeReply_frame]
  · rename_i h
    exact ⟨rfl, fun h' => absurd h' h, fun _ => ⟨rfl, rfl⟩⟩

theorem refuseCommand_statusOnly (c : Command) (st : Status) (s : State) :
    StatusOnly st c s (refuseCommand c st s) := finishCommand_answered _ s

theorem answerOk_statusOnly (c : Command) (s : State) : StatusOnly .ok c s (answerOk c s) :=
  finishCommand_answered _ s

theorem answerWith_answered (c : Command) (body : List Byte) (s : State) :
    AnsweredWith body c s (answerWith c body s) := finishCommand_answered _ s

/-- CX takes the awaited head command of the right kind: its rule, or BAD LENGTH. -/
theorem takeCommand_awaited {c : Command} {s : State} {kind : Byte} (len : Nat)
    (rule : Command → State → State) (h : Awaits c s) (hk : c.kind = kind) :
    takeCommand kind len rule s = if c.body.length = len then rule c s else refuseCommand c .badLength s := by
  obtain ⟨-, hq, hm⟩ := h
  unfold takeCommand
  rcases hl : s.li.queue with _ | ⟨d, ds⟩ <;> simp [hl] at hq
  subst hq
  simp [hk, hm]

/-- A command of the required length is answered by its rule. -/
theorem done_take {c : Command} {s : State} {kind : Byte} {len : Nat} {rule : Command → State → State}
    (h : Awaits c s) (hk : c.kind = kind) (hl : c.body.length = len) :
    done s (takeCommand kind len rule s) = .next (rule c s) := by
  rw [done_powered _ h.1, takeCommand_awaited len rule h hk, if_pos hl]

/-- A command of another length is refused with BAD LENGTH. -/
theorem done_take_badLength {c : Command} {s : State} {kind : Byte} {len : Nat}
    {rule : Command → State → State} (h : Awaits c s) (hk : c.kind = kind) (hl : c.body.length ≠ len) :
    done s (takeCommand kind len rule s) = .next (refuseCommand c .badLength s) := by
  rw [done_powered _ h.1, takeCommand_awaited len rule h hk, if_neg hl]

/-- All that placing a report can do: with 8 waiting it is dropped with LINK_OVERRUN, else it joins the list, from
which an idle line takes the oldest; nothing else changes. -/
theorem placeReport_cases (entry : ReportEntry) (s : State) :
    let t := placeReport entry s
    t = { s with
      li := { s.li with reports := t.li.reports, replies := t.li.replies, tx := t.li.tx }
      cx := { s.cx with notices := t.cx.notices } } ∧
      (8 ≤ s.li.reports.length → t.li.replies = s.li.replies ∧ t.li.reports = s.li.reports ∧
        t.li.tx = s.li.tx ∧ t.cx.notices = s.cx.notices ||| 0x1000) ∧
      (s.li.reports.length < 8 → t.cx.notices = s.cx.notices ∧
        Placed (s.li.reports ++ [entry]) s.li.replies s t) := by
  intro t
  by_cases h : s.li.reports.length < 8
  · have e : t = startTx { s with li := { s.li with reports := s.li.reports ++ [entry] } } := if_pos h
    refine ⟨?_, fun h' => absurd h (by omega), fun _ => ⟨?_, ?_⟩⟩
    · rw [e, startTx_cx, startTx_frame]
    · rw [e, startTx_cx]
    · rw [e]
      exact startTx_placed { s with li := { s.li with reports := s.li.reports ++ [entry] } }
  · have e : t = raise .linkOverrun s := if_neg h
    rw [e]
    exact ⟨rfl, fun _ => ⟨rfl, rfl, rfl, rfl⟩, fun h' => absurd h' h⟩

/-! ## Lengths of the layouts -/

@[simp] theorem length_le8 (n : Nat) : (le8 n).length = 1 := by simp [le8]
@[simp] theorem length_le16 (n : Nat) : (le16 n).length = 2 := by simp [le16]
@[simp] theorem length_le32 (n : Nat) : (le32 n).length = 4 := by simp [le32]
@[simp] theorem length_flagByte (b : Bool) : (flagByte b).length = 1 := by simp [flagByte]
@[simp] theorem length_groupPlace (g : ThermalGroup) : (groupPlace g).length = 5 := rfl
@[simp] theorem length_outputPlace (o : TruckOutput) : (outputPlace o).length = 10 := rfl
@[simp] theorem length_axlePlace (x : SpeedFields) (y : SlideFields) : (axlePlace x y).length = 16 := rfl
@[simp] theorem length_listPlace (e : DirEntry) : (listPlace e).length = 14 := rfl

@[simp] theorem length_cycleReportBody (s : State) : (cycleReportBody s).length = 37 := by
  unfold cycleReportBody
  simp only [List.length_append, length_le8, length_le16, length_le32, length_flagByte, List.length_cons,
    List.length_nil]

/-- The frame of a CYCLE REPORT. -/
theorem reportFrame_report (s : State) (tag : Byte) :
    reportFrame s (.report tag) = frameBytes 0x81 tag (cycleReportBody s) := by
  rw [reportFrame, show replyKind kindCycleDemand = 0x81 by decide]

/-- The frame of a BAD LENGTH answer to a CYCLE DEMAND. -/
theorem reportFrame_badLength (s : State) (tag : Byte) :
    reportFrame s (.badLength tag) = frameBytes 0x81 tag [0x03] := by
  rw [reportFrame, show replyKind kindCycleDemand = 0x81 by decide, statusCode]

/-- A signed field is its two bytes in two's complement. -/
theorem signedAt_eq (bs : List Byte) (i : Nat) : signedAt bs i =
    (if (fieldAt bs i 2 : Int) < 32768 then (fieldAt bs i 2 : Int) else fieldAt bs i 2 - 65536) := by
  have h : fieldAt bs i 2 < 65536 := by
    unfold fieldAt
    generalize hl : (bs.drop i).take 2 = l
    have : l.length ≤ 2 := by
      rw [← hl]
      exact List.length_take_le 2 _
    match l, this with
    | [], _ => simp [leValue]
    | [a], _ =>
      simp [leValue]
      omega
    | [a, b], _ =>
      simp [leValue]
      have := a.isLt
      have := b.isLt
      omega
  unfold signedAt
  rw [BitVec.toInt_ofNat']
  generalize fieldAt bs i 2 = n at *
  simp only [Int.bmod]
  omega

/-! ## The evaluations leave the line alone -/

theorem raiseIf_setLi (b : Bool) (n : Notice) (s : State) (l : LinkInterface) (k : Nat) :
    raiseIf b n { s with li := l, freeCount := k } = { raiseIf b n s with li := l, freeCount := k } := by
  cases b <;> rfl

/-- SP's evaluation depends neither on LI nor on the counter of free values. -/
theorem spEvaluate_setLi (s : State) (l : LinkInterface) (k : Nat) :
    spEvaluate { s with li := l, freeCount := k } = { spEvaluate s with li := l, freeCount := k } := by
  unfold spEvaluate
  dsimp only
  rw [← raiseIf_setLi, ← raiseIf_setLi]
  rfl

/-- A composition depends neither on LI nor on the counter of free values. -/
theorem compose_setLi (a b : Reading) (s : State) (l : LinkInterface) (k : Nat) :
    compose a b { s with li := l, freeCount := k } = { compose a b s with li := l, freeCount := k } := by
  unfold compose
  dsimp only
  rw [← raiseIf_setLi, ← raiseIf_setLi]
  rfl

/-- Nor does a window close, which hence is the same after a command that changes nothing else. -/
theorem windowClose_setLi (a b : Reading) (s : State) (l : LinkInterface) (k : Nat) :
    windowClose a b { s with li := l, freeCount := k } = { windowClose a b s with li := l, freeCount := k } := by
  unfold windowClose
  dsimp only
  split
  · rw [← compose_setLi, ← spEvaluate_setLi]
    rfl
  · rfl

/-! ## The read-out -/

/-- A read-out that ends is answered by its final reply and becomes absent; nothing else changes. -/
theorem endReadOut_answered (st : Status) (r : ReadOut) (s : State) :
    AnsweredBy (match r.kind with
      | .read => ⟨0x8F, r.tag, readBody s st r, .plain⟩
      | .verify => ⟨0x90, r.tag, verifyBody s st r, .plain⟩) (withReadOut none s) (endReadOut st r s) := by
  have key : ∀ q : Reply, AnsweredBy q (withReadOut none s) (withReadOut none (finishCommand q s)) := by
    intro q
    obtain ⟨h1, h2⟩ := finishCommand_answered q s
    refine ⟨?_, h2.congr (fun e => by cases e <;> rfl) rfl rfl rfl⟩
    generalize finishCommand q s = t at *
    rw [h1]
    rfl
  unfold endReadOut
  rcases r.kind with _ | _
  · rw [show replyKind kindRead = 0x8F by decide]
    exact key _
  · rw [show replyKind kindVerify = 0x90 by decide]
    exact key _

/-- An erased section reads CLEAN, whatever else is reported (R138). -/
theorem readOutcome_erased {m : Medium} {phys : Nat} (o : MediumOutcome) (h : isErased m phys = true) :
    readOutcome m phys o = .clean := by simp [readOutcome, h]

/-- A section that is not erased reads as the medium reports. -/
theorem readOutcome_written {m : Medium} {phys : Nat} (o : MediumOutcome) (h : isErased m phys = false) :
    readOutcome m phys o = o := by simp [readOutcome, h]

end Sys2Proof.Machine
end

