-- ==== Sys2Proof/Laws/Frames.lean ====
section
/-! SUPPORT. What the operations of SC, CU and the reader leave alone, one lemma for each operation. -/

namespace Sys2Proof.Machine

/-- `t` differs from `s` in CU, SC, the store, the counter of free values and the notice set at most. -/
structure StoreFrame (s t : State) : Prop where
  powered : t.powered = s.powered
  timersRunning : t.timersRunning = s.timersRunning
  am : t.am = s.am
  sp : t.sp = s.sp
  bpm : t.bpm = s.bpm
  demand : t.demand = s.demand
  bc : t.bc = s.bc
  gt : t.gt = s.gt
  co : t.co = s.co
  li : t.li = s.li
  pm : t.pm = s.pm
  pending : t.pending = s.pending
  mode : t.cx.mode = s.cx.mode
  loadEnded : t.cx.loadEnded = s.cx.loadEnded
  rebuildEnded : t.cx.rebuildEnded = s.cx.rebuildEnded
  noticeEnable : t.cx.noticeEnable = s.cx.noticeEnable

theorem StoreFrame.refl (s : State) : StoreFrame s s := by constructor <;> rfl

theorem StoreFrame.trans {s t u : State} (h : StoreFrame s t) (k : StoreFrame t u) : StoreFrame s u where
  powered := k.powered.trans h.powered
  timersRunning := k.timersRunning.trans h.timersRunning
  am := k.am.trans h.am
  sp := k.sp.trans h.sp
  bpm := k.bpm.trans h.bpm
  demand := k.demand.trans h.demand
  bc := k.bc.trans h.bc
  gt := k.gt.trans h.gt
  co := k.co.trans h.co
  li := k.li.trans h.li
  pm := k.pm.trans h.pm
  pending := k.pending.trans h.pending
  mode := k.mode.trans h.mode
  loadEnded := k.loadEnded.trans h.loadEnded
  rebuildEnded := k.rebuildEnded.trans h.rebuildEnded
  noticeEnable := k.noticeEnable.trans h.noticeEnable

theorem withSc_frame (f : StoreController → StoreController) (s : State) : StoreFrame s (withSc f s) := by
  constructor <;> rfl

theorem withCu_frame (f : CaptureUnit → CaptureUnit) (s : State) : StoreFrame s (withCu f s) := by
  constructor <;> rfl

theorem raise_frame (n : Notice) (s : State) : StoreFrame s (raise n s) := by constructor <;> rfl

theorem medium_frame (m : Medium) (n : Nat) (sc : StoreController) (s : State) :
    StoreFrame s { s with medium := m, freeCount := n, sc := sc } := by
  constructor <;> rfl

/-! ## Directory -/

theorem truncateOpen_frame (e : EndReason) (keep : List Nat) (s : State) :
    StoreFrame s (truncateOpen e keep s) := by
  unfold truncateOpen
  split
  · exact .refl s
  · exact withCu_frame _ s

theorem closeWithoutTrailer_frame (s : State) : StoreFrame s (closeWithoutTrailer s) := by
  unfold closeWithoutTrailer
  split
  · exact .refl s
  · exact (withSc_frame _ s).trans (withCu_frame _ _)

theorem truncateStoreFull_frame (s : State) : StoreFrame s (truncateStoreFull s) := by
  unfold truncateStoreFull
  dsimp only
  split
  · exact truncateOpen_frame _ _ s
  · exact (truncateOpen_frame _ _ s).trans (closeWithoutTrailer_frame _)

theorem beginStoreFull_frame (s : State) : StoreFrame s (beginStoreFull s) := by
  unfold beginStoreFull
  split
  · exact .refl s
  · exact ((withSc_frame _ s).trans (raise_frame _ _)).trans (truncateStoreFull_frame _)

theorem examine_frame (s : State) : StoreFrame s (examine s) := by
  unfold examine
  dsimp only
  split
  · exact (withSc_frame _ s).trans (withSc_frame _ _)
  · exact ((withSc_frame _ s).trans (withSc_frame _ _)).trans (beginStoreFull_frame _)

theorem enterBlock_frame (s : State) : StoreFrame s (enterBlock s) := by
  unfold enterBlock
  dsimp only
  split
  · exact (withSc_frame _ s).trans (examine_frame _)
  · exact withSc_frame _ s

theorem advancePosition_frame (s : State) : StoreFrame s (advancePosition s) := by
  unfold advancePosition
  dsimp only
  split
  · exact withSc_frame _ s
  · split
    · exact (withSc_frame _ s).trans (enterBlock_frame _)
    · split
      · exact ((withSc_frame _ s).trans (withSc_frame _ _)).trans (closeWithoutTrailer_frame _)
      · exact (withSc_frame _ s).trans (withSc_frame _ _)

/-! ## The writer -/

theorem freePort_frame (s : State) : StoreFrame s (freePort s) := withSc_frame _ s

theorem recoveryTo_frame (r : Recovery) (st : RecoveryStep) (s : State) : StoreFrame s (recoveryTo r st s) :=
  withSc_frame _ s

theorem relocationTo_frame (r : Relocation) (st : RelocStep) (s : State) :
    StoreFrame s (relocationTo r st s) :=
  withSc_frame _ s

theorem sectionDone_frame (job : SectionJob) (logical : Nat) (s : State) :
    StoreFrame s (sectionDone job logical s) := by
  cases job with
  | header => exact withSc_frame _ s
  | frames indices => constructor <;> rfl
  | trailer => constructor <;> rfl
  | rebuildTrailer =>
    unfold sectionDone
    dsimp only
    split
    · exact .refl s
    · exact withSc_frame _ s

theorem wearOut_frame (job : SectionJob) (s : State) : StoreFrame s (wearOut job s) := by
  unfold wearOut
  dsimp only
  split
  · refine .trans ?_ (enterBlock_frame _)
    refine .trans ?_ (withSc_frame _ _)
    split
    · exact ((withSc_frame _ s).trans (raise_frame _ _)).trans (truncateOpen_frame _ _ _)
    · exact (withSc_frame _ s).trans (raise_frame _ _)
  · refine .trans ?_ (examine_frame _)
    refine .trans ?_ (beginStoreFull_frame _)
    split
    · exact (((withSc_frame _ s).trans (raise_frame _ _)).trans (withSc_frame _ _)).trans
        (truncateStoreFull_frame _)
    · exact ((withSc_frame _ s).trans (raise_frame _ _)).trans (withSc_frame _ _)

theorem eraseWornOut_frame (s : State) : StoreFrame s (eraseWornOut s) :=
  ((withSc_frame _ s).trans (raise_frame _ _)).trans (beginStoreFull_frame _)

theorem beginRecovery_frame (job : Option SectionJob) (logical slot failed : Nat) (s : State) :
    StoreFrame s (beginRecovery job logical slot failed s) := by
  unfold beginRecovery
  split
  · constructor <;> rfl
  · split
    · exact wearOut_frame _ s
    · exact eraseWornOut_frame s

theorem programDone_frame (job : SectionJob) (logical : Nat) (s : State) :
    StoreFrame s (programDone job logical s) :=
  ((withSc_frame _ s).trans (sectionDone_frame _ _ _)).trans (advancePosition_frame _)

theorem programComplete_frame (ok : Bool) (s : State) : StoreFrame s (programComplete ok s) := by
  unfold programComplete
  split
  · split
    · exact (medium_frame _ _ _ s).trans ((freePort_frame _).trans (programDone_frame _ _ _))
    · exact (medium_frame _ _ _ s).trans
        ((freePort_frame _).trans ((withSc_frame _ _).trans (beginRecovery_frame _ _ _ _ _)))
  · exact .refl s

theorem markComplete_frame (ok : Bool) (s : State) : StoreFrame s (markComplete ok s) := by
  unfold markComplete
  split
  · exact (medium_frame _ _ _ s).trans ((freePort_frame _).trans (withSc_frame _ _))
  · exact .refl s

theorem eraseAheadDone_frame (s : State) : StoreFrame s (eraseAheadDone s) := by
  unfold eraseAheadDone
  dsimp only
  split
  · exact (withSc_frame _ s).trans (withSc_frame _ _)
  · split
    · exact (withSc_frame _ s).trans (withSc_frame _ _)
    · exact (withSc_frame _ s).trans (enterBlock_frame _)
  · exact ((withSc_frame _ s).trans (withSc_frame _ _)).trans (enterBlock_frame _)

theorem writerErased_frame (ok : Bool) (block : Nat) (s : State) : StoreFrame s (writerErased ok block s) := by
  unfold writerErased
  split
  · split <;> exact recoveryTo_frame _ _ s
  · split
    · exact (withSc_frame _ s).trans (eraseAheadDone_frame _)
    · exact beginRecovery_frame _ _ _ _ s

theorem relocatorErased_frame (ok : Bool) (s : State) : StoreFrame s (relocatorErased ok s) := by
  unfold relocatorErased
  split
  · split <;> exact relocationTo_frame _ _ s
  · exact .refl s

theorem eraseComplete_frame (ok : Bool) (s : State) : StoreFrame s (eraseComplete ok s) := by
  unfold eraseComplete
  split
  · dsimp only
    split
    · exact (medium_frame _ _ _ s).trans (freePort_frame _)
    · split
      · exact ((medium_frame _ _ _ s).trans (freePort_frame _)).trans (writerErased_frame _ _ _)
      · exact ((medium_frame _ _ _ s).trans (freePort_frame _)).trans (relocatorErased_frame _ _)
      · exact (medium_frame _ _ _ s).trans (freePort_frame _)
  · exact .refl s

theorem writerCopied_frame (ok : Bool) (s : State) : StoreFrame s (writerCopied ok s) := by
  unfold writerCopied
  split
  · split
    · split
      · exact recoveryTo_frame _ _ s
      · exact .refl s
    · exact recoveryTo_frame _ _ s
  · exact .refl s

theorem relocatorCopied_frame (ok : Bool) (s : State) : StoreFrame s (relocatorCopied ok s) := by
  unfold relocatorCopied
  split
  · split
    · split
      · exact relocationTo_frame _ _ s
      · exact .refl s
    · exact relocationTo_frame _ _ s
  · exact .refl s

theorem copyComplete_frame (o : MediumOutcome) (ok : Bool) (s : State) :
    StoreFrame s (copyComplete o ok s) := by
  unfold copyComplete
  split
  · dsimp only
    split
    · exact (medium_frame _ _ _ s).trans (freePort_frame _)
    · split
      · exact ((medium_frame _ _ _ s).trans (freePort_frame _)).trans (writerCopied_frame _ _)
      · exact ((medium_frame _ _ _ s).trans (freePort_frame _)).trans (relocatorCopied_frame _ _)
      · exact (medium_frame _ _ _ s).trans (freePort_frame _)
  · exact .refl s

/-! ## The map and the relocator -/

theorem writerMapped_frame (c : MapChange) (s : State) : StoreFrame s (writerMapped c s) := by
  unfold writerMapped
  split
  · dsimp only
    split
    · exact (withSc_frame _ s).trans (recoveryTo_frame _ _ _)
    · exact (withSc_frame _ s).trans (eraseAheadDone_frame _)
  · exact beginRecovery_frame _ _ _ _ s
  · exact .refl s

theorem restartRelocation_frame (block : Nat) (s : State) : StoreFrame s (restartRelocation block s) := by
  unfold restartRelocation
  split
  · exact withSc_frame _ s
  · exact (withSc_frame _ s).trans (raise_frame _ _)

theorem relocatorMapped_frame (c : MapChange) (s : State) : StoreFrame s (relocatorMapped c s) := by
  unfold relocatorMapped
  split
  · exact withSc_frame _ s
  · exact restartRelocation_frame _ s
  · exact .refl s

theorem mapWriteComplete_frame (ok : Bool) (s : State) : StoreFrame s (mapWriteComplete ok s) := by
  unfold mapWriteComplete
  split
  · dsimp only
    have key : ∀ m : Medium, StoreFrame s
        (withSc (fun sc => { sc with mapRetry := none }) (freePort { s with medium := m })) := fun m =>
      ((medium_frame m s.freeCount s.sc s).trans (freePort_frame _)).trans (withSc_frame _ _)
    split
    · split
      · exact key _
      · split
        · exact (key _).trans ((withSc_frame _ _).trans (writerMapped_frame _ _))
        · exact (key _).trans ((withSc_frame _ _).trans (relocatorMapped_frame _ _))
        · exact (key _).trans (withSc_frame _ _)
    · split
      · exact (medium_frame _ _ _ s).trans (withSc_frame _ _)
      · exact ((medium_frame _ _ _ s).trans (withSc_frame _ _)).trans (freePort_frame _)
  · exact .refl s

theorem relocationStart_frame (s : State) : StoreFrame s (relocationStart s) := by
  unfold relocationStart
  split
  · split
    · exact .refl s
    · exact (withSc_frame _ s).trans (restartRelocation_frame _ _)
  · exact .refl s

/-! ## The Capture Unit -/

theorem missIncident_frame (s : State) : StoreFrame s (missIncident s) :=
  (withCu_frame _ s).trans (raise_frame _ _)

theorem openRecord_frame (n : Nat) (e : TriggerEntry) (w : Word32) (s : State) :
    StoreFrame s (openRecord n e w s) := by
  unfold openRecord
  split
  · exact (withSc_frame _ s).trans (withCu_frame _ _)
  · exact missIncident_frame s

theorem fireEntry_frame (n : Nat) (e : TriggerEntry) (w : Word32) (s : State) :
    StoreFrame s (fireEntry n e w s) := by
  unfold fireEntry
  split
  · exact openRecord_frame _ _ _ s
  · split
    · exact (withCu_frame _ s).trans (withSc_frame _ _)
    · exact missIncident_frame s

theorem evalEntry_frame (n : Nat) (e : TriggerEntry) (p : Bool) (w : Word32) (s : State) :
    StoreFrame s (evalEntry n e p w s).1 := by
  unfold evalEntry
  split
  · exact .refl s
  · dsimp only
    split
    · exact fireEntry_frame _ _ _ s
    · exact .refl s

theorem evalEntries_frame (w : Word32) (es : List TriggerEntry) :
    ∀ (n : Nat) (ps : List Bool) (s : State), StoreFrame s (evalEntries w n es ps s).1 := by
  induction es with
  | nil => intro n ps s; exact .refl s
  | cons e es ih =>
    intro n ps s
    cases ps with
    | nil => exact .refl s
    | cons p ps => exact (evalEntry_frame _ _ _ _ s).trans (ih _ _ _)

theorem capture_frame (s : State) : StoreFrame s (capture s) := by
  unfold capture
  split
  · exact ((withCu_frame _ s).trans (evalEntries_frame _ _ _ _ _)).trans (withCu_frame _ _)
  · exact .refl s

/-! ## The rebuild -/

theorem runOp_frame (op : StoreOp) (report : MediumOutcome × Bool) (s : State) :
    StoreFrame s (runOp op report s) := by
  refine .trans (withSc_frame (fun sc => { sc with port := some ⟨.writer, op, false⟩ }) s) ?_
  cases op with
  | erase => exact eraseComplete_frame _ _
  | program => exact programComplete_frame _ _
  | mark => exact markComplete_frame _ _
  | read => exact freePort_frame _
  | copy => exact copyComplete_frame _ _ _
  | mapWrite => exact mapWriteComplete_frame _ _

theorem settle_frame : ∀ (fuel : Nat) (results : List (MediumOutcome × Bool)) (s : State),
    StoreFrame s (settle fuel results s).1
  | 0, _, s => .refl s
  | fuel + 1, results, s => by
    unfold settle
    split
    · exact .refl s
    · exact (runOp_frame _ _ s).trans (settle_frame fuel _ _)

theorem clearSeat_frame (s : State × List (MediumOutcome × Bool)) : StoreFrame s.1 (clearSeat s).1 := by
  have key : ∀ t, StoreFrame s.1 t → StoreFrame s.1
      (if (settle (settleFuel s.2) s.2 t).1.sc.seat = .normal then settle (settleFuel s.2) s.2 t
        else (withSc (fun sc => { sc with rebuildTrailer := none }) (settle (settleFuel s.2) s.2 t).1,
          (settle (settleFuel s.2) s.2 t).2)).1 := by
    intro t h
    split
    · exact h.trans (settle_frame _ _ _)
    · exact (h.trans (settle_frame _ _ _)).trans (by constructor <;> rfl)
  refine key _ ?_
  split
  · exact examine_frame _
  · exact .refl _

theorem eraseAheadNow_frame (s : State × List (MediumOutcome × Bool)) : StoreFrame s.1 (eraseAheadNow s).1 :=
  (examine_frame _).trans (settle_frame _ _ _)

theorem eraseAheadStep_frame (s : State × List (MediumOutcome × Bool)) : StoreFrame s.1 (eraseAheadStep s).1 := by
  unfold eraseAheadStep
  split
  · exact ((withSc_frame seatAside s.1).trans (eraseAheadNow_frame (withSc seatAside s.1, s.2))).trans (withSc_frame _ _)
  · exact eraseAheadNow_frame s

theorem endSteps_frame (results : List (MediumOutcome × Bool)) (s : State) : StoreFrame s (endSteps results s) :=
  ((clearSeat_frame (s, results)).trans (clearSeat_frame _)).trans (eraseAheadStep_frame _)

theorem rebuild_frame (reads : List (Nat × MediumOutcome)) (results : List (MediumOutcome × Bool)) (s : State) :
    StoreFrame s (rebuild reads results s) := by
  unfold rebuild
  refine .trans ?_ (endSteps_frame _ _)
  refine .trans ?_ (withSc_frame _ _)
  exact medium_frame s.medium _ _ s

/-! ## Answers and the reader -/

/-- `t` differs from `s` in LI's transmission and in lists that have not grown past a queue or a report list
of `s`, and in CU, SC, the store, the counter of free values and the notice set at most. -/
structure AnswerFrame (s t : State) : Prop where
  powered : t.powered = s.powered
  timersRunning : t.timersRunning = s.timersRunning
  am : t.am = s.am
  sp : t.sp = s.sp
  bpm : t.bpm = s.bpm
  demand : t.demand = s.demand
  bc : t.bc = s.bc
  gt : t.gt = s.gt
  co : t.co = s.co
  receiver : t.li.receiver = s.li.receiver
  overrun : t.li.overrun = s.li.overrun
  closing : t.li.closing = s.li.closing
  restartSent : t.li.restartSent = s.li.restartSent
  queue : t.li.queue.length ≤ s.li.queue.length
  reports : t.li.reports.length ≤ s.li.reports.length
  pm : t.pm = s.pm
  pending : t.pending = s.pending
  mode : t.cx.mode = s.cx.mode
  loadEnded : t.cx.loadEnded = s.cx.loadEnded
  rebuildEnded : t.cx.rebuildEnded = s.cx.rebuildEnded
  noticeEnable : t.cx.noticeEnable = s.cx.noticeEnable

theorem StoreFrame.answer {s t : State} (h : StoreFrame s t) : AnswerFrame s t where
  powered := h.powered
  timersRunning := h.timersRunning
  am := h.am
  sp := h.sp
  bpm := h.bpm
  demand := h.demand
  bc := h.bc
  gt := h.gt
  co := h.co
  receiver := by rw [h.li]
  overrun := by rw [h.li]
  closing := by rw [h.li]
  restartSent := by rw [h.li]
  queue := Nat.le_of_eq (by rw [h.li])
  reports := Nat.le_of_eq (by rw [h.li])
  pm := h.pm
  pending := h.pending
  mode := h.mode
  loadEnded := h.loadEnded
  rebuildEnded := h.rebuildEnded
  noticeEnable := h.noticeEnable

theorem AnswerFrame.refl (s : State) : AnswerFrame s s := (StoreFrame.refl s).answer

theorem AnswerFrame.trans {s t u : State} (h : AnswerFrame s t) (k : AnswerFrame t u) : AnswerFrame s u where
  powered := k.powered.trans h.powered
  timersRunning := k.timersRunning.trans h.timersRunning
  am := k.am.trans h.am
  sp := k.sp.trans h.sp
  bpm := k.bpm.trans h.bpm
  demand := k.demand.trans h.demand
  bc := k.bc.trans h.bc
  gt := k.gt.trans h.gt
  co := k.co.trans h.co
  receiver := k.receiver.trans h.receiver
  overrun := k.overrun.trans h.overrun
  closing := k.closing.trans h.closing
  restartSent := k.restartSent.trans h.restartSent
  queue := Nat.le_trans k.queue h.queue
  reports := Nat.le_trans k.reports h.reports
  pm := k.pm.trans h.pm
  pending := k.pending.trans h.pending
  mode := k.mode.trans h.mode
  loadEnded := k.loadEnded.trans h.loadEnded
  rebuildEnded := k.rebuildEnded.trans h.rebuildEnded
  noticeEnable := k.noticeEnable.trans h.noticeEnable

theorem startTx_answer (s : State) : AnswerFrame s (startTx s) := by
  constructor <;> first | exact startTx_reports_le s | simp

theorem placeReply_answer (r : Reply) (s : State) : AnswerFrame s (placeReply r s) := by
  refine .trans (t := { s with li := { s.li with replies := s.li.replies ++ [r] } }) ?_ (startTx_answer _)
  constructor <;> first | exact Nat.le_refl _ | rfl

theorem popCommand_answer (s : State) : AnswerFrame s (popCommand s) := by
  constructor <;> simp

theorem finishCommand_answer (r : Reply) (s : State) : AnswerFrame s (finishCommand r s) :=
  (placeReply_answer r s).trans (popCommand_answer _)

theorem refuseCommand_answer (c : Command) (st : Status) (s : State) : AnswerFrame s (refuseCommand c st s) :=
  finishCommand_answer _ s

theorem answerOk_answer (c : Command) (s : State) : AnswerFrame s (answerOk c s) := finishCommand_answer _ s

theorem answerWith_answer (c : Command) (body : List Byte) (s : State) :
    AnswerFrame s (answerWith c body s) :=
  finishCommand_answer _ s

theorem placeArrivalReply_answer (r : Reply) (s : State) : AnswerFrame s (placeArrivalReply r s) := by
  unfold placeArrivalReply
  split
  · exact placeReply_answer r s
  · exact (raise_frame _ s).answer

theorem withReadOut_frame (r : Option ReadOut) (s : State) : StoreFrame s (withReadOut r s) := withSc_frame _ s

theorem endReadOut_answer (st : Status) (r : ReadOut) (s : State) : AnswerFrame s (endReadOut st r s) :=
  (finishCommand_answer _ s).trans (withReadOut_frame _ _).answer

theorem stopReadOut_answer (st : Status) (r : ReadOut) (s : State) : AnswerFrame s (stopReadOut st r s) :=
  endReadOut_answer _ _ s

theorem turnReader_answer (r : ReadOut) (s : State) : AnswerFrame s (turnReader r s) := by
  unfold turnReader
  split
  · exact stopReadOut_answer _ _ s
  · dsimp only
    split
    · split
      · exact endReadOut_answer _ _ s
      · exact stopReadOut_answer _ _ s
    · exact (withReadOut_frame _ s).answer

theorem afterGather_answer (r : ReadOut) (s : State) : AnswerFrame s (afterGather r s) := by
  unfold afterGather
  split
  · exact endReadOut_answer _ _ s
  · split
    · exact (withReadOut_frame _ s).answer.trans (placeReply_answer _ _)
    · exact turnReader_answer _ s

theorem afterVerify_answer (r : ReadOut) (s : State) : AnswerFrame s (afterVerify r s) := by
  unfold afterVerify
  split
  · exact endReadOut_answer _ _ s
  · exact turnReader_answer _ s

theorem readComplete_answer (o : MediumOutcome) (s : State) : AnswerFrame s (readComplete o s) := by
  unfold readComplete
  split
  · have h : AnswerFrame s (freePort { s with freeCount := s.freeCount + sectionSize }) :=
      ((medium_frame s.medium _ s.sc s).trans (freePort_frame _)).answer
    dsimp only
    split
    · exact h
    · split
      · exact h
      · refine h.trans ?_
        have k : ∀ (q : MediumOutcome) (p : Nat) (t : State),
            AnswerFrame t (if q = .corrected then withSc (queueBlock p) t else t) := by
          intro q p t
          split
          · exact (withSc_frame _ t).answer
          · exact .refl t
        split
        · exact (k _ _ _).trans (stopReadOut_answer _ _ _)
        · split
          · exact (k _ _ _).trans (afterGather_answer _ _)
          · exact (k _ _ _).trans (afterVerify_answer _ _)
  · exact .refl s

theorem readReplySent_answer (s : State) : AnswerFrame s (readReplySent s) := by
  unfold readReplySent
  split
  · split
    · exact turnReader_answer _ s
    · exact .refl s
  · exact .refl s

theorem takeCommand_answer {kind : Byte} {len : Nat} {rule : Command → State → State}
    (h : ∀ c s, AnswerFrame s (rule c s)) (s : State) : AnswerFrame s (takeCommand kind len rule s) := by
  unfold takeCommand
  split
  · exact .refl s
  · split
    · split
      · exact h _ _
      · exact refuseCommand_answer _ _ s
    · exact .refl s

theorem storeCommand_answer {rule : Command → State → State} (h : ∀ c s, AnswerFrame s (rule c s))
    (c : Command) (s : State) : AnswerFrame s (storeCommand rule c s) := by
  unfold storeCommand
  split
  · exact refuseCommand_answer _ _ s
  · exact h c s

theorem readIncident_answer (c : Command) (s : State) : AnswerFrame s (readIncident c s) := by
  unfold readIncident
  split
  · exact refuseCommand_answer _ _ s
  · split
    · exact refuseCommand_answer _ _ s
    · exact turnReader_answer _ s

theorem verifyIncident_answer (c : Command) (s : State) : AnswerFrame s (verifyIncident c s) := by
  unfold verifyIncident
  split
  · exact refuseCommand_answer _ _ s
  · split
    · exact refuseCommand_answer _ _ s
    · exact turnReader_answer _ s

theorem reexamine_frame (s : State) : StoreFrame s (reexamine s) := by
  unfold reexamine
  split
  · exact examine_frame s
  · exact .refl s

theorem releaseIncident_answer (c : Command) (s : State) : AnswerFrame s (releaseIncident c s) := by
  unfold releaseIncident
  split
  · exact refuseCommand_answer _ _ s
  · split
    · exact refuseCommand_answer _ _ s
    · exact ((withSc_frame _ s).answer.trans (answerOk_answer _ _)).trans (reexamine_frame _).answer
    · exact (answerOk_answer _ s).trans (reexamine_frame _).answer

/-! ## Whole commands -/

theorem done_answer {s t u : State} (h : done s t = .next u) (f : AnswerFrame s t) : AnswerFrame s u := by
  rcases done_cases h with rfl | rfl
  · exact f
  · exact .refl _

theorem onOccasion_answer {b : Bool} {s t u : State} (h : onOccasion b s t = .next u)
    (f : AnswerFrame s t) : AnswerFrame s u := by
  rcases onOccasion_cases h with rfl | rfl
  · exact f
  · exact .refl _

theorem execStoreGrant_answer {s u : State} (h : execStoreGrant s = .next u) : AnswerFrame s u := by
  unfold execStoreGrant at h
  split at h
  · cases h; exact .refl _
  · split at h
    · cases h; exact .refl _
    · split at h
      · cases h; exact .refl _
      · split at h
        · cases h
        · cases h; exact (withSc_frame _ s).answer

/-- The commands of CU and SC after start-up, and those of CX's that change no more than they. -/
def staysWithinStore : Instr → Bool
  | .capture => true
  | .recordEnd => true
  | .storeGrant => true
  | .programComplete _ => true
  | .markProgramComplete _ => true
  | .eraseComplete _ => true
  | .copyComplete _ _ => true
  | .mapWriteComplete _ => true
  | .readComplete _ => true
  | .relocationStart => true
  | .readStatus => true
  | .readNotices => true
  | .readParameter => true
  | .readTrigger => true
  | .markIncident => true
  | .listIncidents => true
  | .readIncident => true
  | .verifyIncident => true
  | .releaseIncident => true
  | .setReadBurst => true
  | .readAxleTable => true
  | .unknownKind => true
  | _ => false

/-- What those commands leave alone. -/
theorem staysWithinStore_answer {c : Instr} {s t : State} (q : staysWithinStore c = true)
    (h : exec c s = .next t) : AnswerFrame s t := by
  cases c <;> first | exact absurd q Bool.false_ne_true | skip
  · exact done_answer h (capture_frame s).answer
  · exact onOccasion_answer h (capture_frame s).answer
  · exact execStoreGrant_answer h
  · exact done_answer h (programComplete_frame _ s).answer
  · exact done_answer h (markComplete_frame _ s).answer
  · exact done_answer h (eraseComplete_frame _ s).answer
  · exact done_answer h (copyComplete_frame _ _ s).answer
  · exact done_answer h (mapWriteComplete_frame _ s).answer
  · exact done_answer h (readComplete_answer _ s)
  · exact done_answer h (relocationStart_frame s).answer
  · exact done_answer h (takeCommand_answer (fun c s => answerWith_answer _ _ s) s)
  · exact done_answer h (takeCommand_answer (fun c s => answerWith_answer _ _ s) s)
  · refine done_answer h (takeCommand_answer (fun c s => ?_) s)
    unfold readParameter
    dsimp only
    split
    · exact refuseCommand_answer _ _ s
    · exact answerWith_answer _ _ s
  · refine done_answer h (takeCommand_answer (fun c s => ?_) s)
    unfold readTrigger
    dsimp only
    split
    · exact refuseCommand_answer _ _ s
    · exact answerWith_answer _ _ s
  · exact done_answer h
      (takeCommand_answer (fun c s => (withCu_frame _ s).answer.trans (answerOk_answer _ _)) s)
  · exact done_answer h
      (takeCommand_answer (storeCommand_answer (fun c s => answerWith_answer _ _ s)) s)
  · exact done_answer h (takeCommand_answer (storeCommand_answer readIncident_answer) s)
  · exact done_answer h (takeCommand_answer (storeCommand_answer verifyIncident_answer) s)
  · exact done_answer h (takeCommand_answer (storeCommand_answer releaseIncident_answer) s)
  · refine done_answer h (takeCommand_answer (fun c s => ?_) s)
    unfold setReadBurst
    dsimp only
    split
    · exact (withSc_frame _ s).answer.trans (answerOk_answer _ _)
    · exact (withSc_frame _ s).answer.trans (refuseCommand_answer _ _ _)
  · refine done_answer h (takeCommand_answer (fun c s => ?_) s)
    unfold readAxleTable
    split
    · exact (medium_frame s.medium (s.freeCount + 1) s.sc s).answer.trans (answerWith_answer _ _ _)
    · exact answerWith_answer _ _ s
  · refine done_answer h ?_
    unfold unknownKind
    split
    · exact .refl _
    · split
      · exact refuseCommand_answer _ _ s
      · exact .refl _

@[simp] theorem windowClose_powered (a b : Reading) (s : State) : (windowClose a b s).powered = s.powered := by
  unfold windowClose
  split <;> simp [compose, spEvaluate]
@[simp] theorem windowClose_timersRunning (a b : Reading) (s : State) : (windowClose a b s).timersRunning = s.timersRunning := by
  unfold windowClose
  split <;> simp [compose, spEvaluate]
@[simp] theorem windowClose_bpm (a b : Reading) (s : State) : (windowClose a b s).bpm = s.bpm := by
  unfold windowClose
  split <;> simp [compose, spEvaluate]
@[simp] theorem windowClose_demand (a b : Reading) (s : State) : (windowClose a b s).demand = s.demand := by
  unfold windowClose
  split <;> simp [compose, spEvaluate]
@[simp] theorem windowClose_bc (a b : Reading) (s : State) : (windowClose a b s).bc = s.bc := by
  unfold windowClose
  split <;> simp [compose, spEvaluate]
@[simp] theorem windowClose_gt (a b : Reading) (s : State) : (windowClose a b s).gt = s.gt := by
  unfold windowClose
  split <;> simp [compose, spEvaluate]
@[simp] theorem windowClose_cu (a b : Reading) (s : State) : (windowClose a b s).cu = s.cu := by
  unfold windowClose
  split <;> simp [compose, spEvaluate]
@[simp] theorem windowClose_sc (a b : Reading) (s : State) : (windowClose a b s).sc = s.sc := by
  unfold windowClose
  split <;> simp [compose, spEvaluate]
@[simp] theorem windowClose_medium (a b : Reading) (s : State) : (windowClose a b s).medium = s.medium := by
  unfold windowClose
  split <;> simp [compose, spEvaluate]
@[simp] theorem windowClose_li (a b : Reading) (s : State) : (windowClose a b s).li = s.li := by
  unfold windowClose
  split <;> simp [compose, spEvaluate]
@[simp] theorem windowClose_pm (a b : Reading) (s : State) : (windowClose a b s).pm = s.pm := by
  unfold windowClose
  split <;> simp [compose, spEvaluate]
@[simp] theorem windowClose_freeCount (a b : Reading) (s : State) : (windowClose a b s).freeCount = s.freeCount := by
  unfold windowClose
  split <;> simp [compose, spEvaluate]
@[simp] theorem windowClose_pending (a b : Reading) (s : State) : (windowClose a b s).pending = s.pending := by
  unfold windowClose
  split <;> simp [compose, spEvaluate]
@[simp] theorem windowClose_mode (a b : Reading) (s : State) : (windowClose a b s).cx.mode = s.cx.mode := by
  unfold windowClose
  split <;> simp [compose, spEvaluate]

/-- REBUILD END answers the part with the rebuild done, or as it stood. -/
theorem execRebuildEnd_cases {reads : List (Nat × MediumOutcome)} {results : List (MediumOutcome × Bool)} {s t : State}
    (h : execRebuildEnd reads results s = .next t) :
    t = s ∨ (rebuilding s = true ∧ t = rebuildEnded (rebuild reads results s)) := by
  unfold execRebuildEnd at h
  split at h
  · exact .inl (Host.Outcome.next.inj h).symm
  · rename_i hg
    split at h
    · exact Host.Outcome.noConfusion rfl rfl rfl (heq_of_eq h)
    · exact .inr ⟨by simp at hg; exact hg.2, (Host.Outcome.next.inj h).symm⟩

/-- The end of the rebuild sets CX's mark, and enters SETUP where the load has ended. -/
theorem rebuildEnded_eq (s : State) :
    rebuildEnded s = if s.cx.loadEnded then enterSetup { s with cx := { s.cx with rebuildEnded := true } }
      else { s with cx := { s.cx with rebuildEnded := true } } := rfl

/-- A frame of the line is taken by its rule, with the receiver moved on, or nothing happens. -/
theorem onFrame_cases (bytes : List Byte) (accepts : Byte → Bool)
    (rule : Byte → Byte → List Byte → State → State) (s : State) :
    (∃ k tag body r, receive s.li.receiver bytes = some (r, some (.arrived k tag body)) ∧
      accepts k = true ∧ s.li.closing = false ∧
      onFrame bytes accepts rule s = rule k tag body { s with li := { s.li with receiver := r } }) ∨
    onFrame bytes accepts rule s = s := by
  unfold onFrame onLine
  split
  · exact .inr rfl
  · rename_i hc
    split
    · rename_i r e he
      cases e with
      | arrived k tag body =>
        dsimp only
        split
        · rename_i ha
          exact .inl ⟨k, tag, body, r, he, ha, by simpa using hc, rfl⟩
        · exact .inr rfl
      | discarded => exact .inr rfl
    · exact .inr rfl

/-- A frame that arrives is taken by the rule of its kind. -/
theorem onFrame_arrives {bytes : List Byte} {kind tag : Byte} {body : List Byte} {s : State}
    {accepts : Byte → Bool} (rule : Byte → Byte → List Byte → State → State)
    (h : Arrives bytes kind tag body s) (ha : accepts kind = true) :
    ∃ r, onFrame bytes accepts rule s = rule kind tag body { s with li := { s.li with receiver := r } } := by
  obtain ⟨-, hc, r, hr⟩ := h
  exact ⟨r, by simp [onFrame, onLine, hc, hr, ha]⟩

end Sys2Proof.Machine
end

