-- ==== Sys2Proof/Laws/BlockMap.lean ====
section
/-! SUPPORT. The block map (R139): that every operation on the store, and every step of SC, keeps `MapKept`, one
lemma for each. `MapSame` is what most of them are seen to keep. Each operation of the rebuild leaves the port free. -/

namespace Sys2Proof.Machine

/-- In a list without repeats an element has one place. -/
theorem nodup_index {l : List Nat} (h : l.Nodup) {i j : Nat} (hi : i < l.length) (hj : j < l.length)
    (e : l[i] = l[j]) : i = j := by
  have h' := List.pairwise_iff_getElem.mp h
  rcases Nat.lt_trichotomy i j with hlt | heq | hgt
  · exact absurd e (h' i j hi hj hlt)
  · exact heq
  · exact absurd e.symm (h' j i hj hi hgt)

theorem physicalBlock_mem {m : BlockMap} {l : Nat} (h : physicalBlock m l < 136) :
    physicalBlock m l ∈ m.phys := by
  unfold physicalBlock at *
  rw [List.getD_eq_getElem?_getD] at *
  rcases hx : m.phys[l]? with _ | b
  · simp [hx] at h
  · simpa using List.mem_of_getElem? hx

theorem mapRule.lt {m : BlockMap} (h : mapRule m) {b : Nat} (hb : b ∈ m.phys) : b < 136 := by
  have := (List.getElem?_eq_some_iff.mp (h.2.2.2 b hb)).1
  have := h.2.1
  omega

theorem mapRule.notMem {m : BlockMap} (h : mapRule m) {b : Nat} {st : BlockState} (hs : m.states[b]? = some st)
    (hn : st ≠ .mapped) : b ∉ m.phys := by
  intro hb
  have := h.2.2.2 b hb
  rw [hs] at this
  exact hn (Option.some.inj this)

theorem mapRule_initialMap : mapRule initialMap := by
  refine ⟨rfl, rfl, List.nodup_range, ?_⟩
  intro b hb
  have : b < 128 := by simpa [initialMap] using hb
  show (List.replicate 128 BlockState.mapped ++ List.replicate 8 .spare)[b]? = _
  rw [List.getElem?_append_left (by simpa using this), List.getElem?_replicate, if_pos this]

theorem mapRule_setBlockState {m : BlockMap} (h : mapRule m) {b : Nat} (st : BlockState) (hb : b ∉ m.phys) :
    mapRule (setBlockState b st m) := by
  refine ⟨h.1, by simpa [setBlockState] using h.2.1, h.2.2.1, fun c hc => ?_⟩
  have hc' : c ∈ m.phys := hc
  have : b ≠ c := fun e => hb (e ▸ hc')
  simp only [setBlockState, List.getElem?_set_ne this]
  exact h.2.2.2 c hc'

theorem mapRule_mapForCopy {m : BlockMap} (h : mapRule m) : mapRule (mapForCopy m) := by
  refine ⟨h.1, by simpa [mapForCopy] using h.2.1, h.2.2.1, fun c hc => ?_⟩
  have hc' : c ∈ m.phys := hc
  simp [mapForCopy, h.2.2.2 c hc']

/-- A replacement keeps the rule, and moves only the block that it replaces. -/
theorem mapRule_replace {m : BlockMap} (h : mapRule m) {l old tgt : Nat}
    (hl : physicalBlock m l = old ∨ old ∉ m.phys) (ht : tgt ∉ m.phys) (hlt : tgt < 136) :
    mapRule (changeMap (.replace l old tgt) m) ∧
    (∀ b ∈ m.phys, b ≠ old → b ≠ physicalBlock m l → b ∈ (changeMap (.replace l old tgt) m).phys) := by
  have hphys : (changeMap (.replace l old tgt) m).phys = m.phys.set l tgt := rfl
  have hst : (changeMap (.replace l old tgt) m).states = (m.states.set old .retired).set tgt .mapped := rfl
  refine ⟨⟨by rw [hphys, List.length_set]; exact h.1, by rw [hst]; simpa using h.2.1, ?_, ?_⟩, ?_⟩
  · rw [hphys]
    refine List.pairwise_iff_getElem.mpr (fun i j hi hj hij e => ?_)
    simp only [List.length_set] at hi hj
    rw [List.getElem_set, List.getElem_set] at e
    split at e <;> split at e
    · omega
    · exact ht (e ▸ List.getElem_mem _)
    · exact ht (e ▸ List.getElem_mem _)
    · exact Nat.ne_of_lt hij (nodup_index h.2.2.1 hi hj e)
  · intro b hb
    rw [hphys] at hb
    rw [hst]
    by_cases hbt : b = tgt
    · subst hbt
      rw [List.getElem?_set_self (by simp [h.2.1, hlt])]
    · have hbm : b ∈ m.phys := by
        rcases List.mem_or_eq_of_mem_set hb with h' | h'
        · exact h'
        · exact absurd h' hbt
      have hbo : b ≠ old := by
        intro e
        subst e
        rcases hl with hl | hl
        · -- b sits at l, hence not in the changed list
          obtain ⟨i, hi, e⟩ := List.getElem_of_mem hb
          by_cases hil : i = l
          · subst hil
            simp at e
            exact hbt e.symm
          · have hi' : i < m.phys.length := by simpa using hi
            rw [List.getElem_set_ne (Ne.symm hil)] at e
            have hl2 : l < m.phys.length := by
              rcases Nat.lt_or_ge l m.phys.length with h' | h'
              · exact h'
              · have : physicalBlock m l = 136 := by simp [physicalBlock, List.getElem?_eq_none h']
                have := h.lt hbm
                omega
            have : m.phys[l] = b := by simpa [physicalBlock, hl2] using hl
            exact hil (nodup_index h.2.2.1 hi' hl2 (e.trans this.symm))
        · exact hl hbm
      rw [List.getElem?_set_ne (Ne.symm hbt), List.getElem?_set_ne (Ne.symm hbo)]
      exact h.2.2.2 b hbm
  · intro b hb _ hbl
    rw [hphys]
    obtain ⟨i, hi, e⟩ := List.getElem_of_mem hb
    have : i ≠ l := by
      intro e'
      subst e'
      exact hbl (by simp [physicalBlock, hi, e])
    exact List.mem_of_getElem? (i := i) (by rw [List.getElem?_set_ne (Ne.symm this)]; simp [hi, e])

theorem mapRule_changeMap {m : BlockMap} (h : mapRule m) {c : MapChange} (hc : changeFits m c) :
    mapRule (changeMap c m) := by
  cases c with
  | initial => exact mapRule_initialMap
  | replace l old tgt => exact (mapRule_replace h hc.1 hc.2.1 hc.2.2).1
  | retire b => exact mapRule_setBlockState h _ hc


theorem inUse_set {m : BlockMap} {b c : Nat} (h : inUse m b) (st : BlockState)
    (hs : (st ≠ .spare ∧ st ≠ .target) ∨ m.states[c]? = some .spare ∨ m.states[c]? = some .target) :
    inUse (setBlockState c st m) b := by
  show (m.states.set c st)[b]? ≠ _ ∧ (m.states.set c st)[b]? ≠ _
  by_cases e : c = b
  · subst e
    rcases hs with hs | hs | hs
    · rw [List.getElem?_set]
      simp only [↓reduceIte]
      split
      · exact ⟨fun e => hs.1 (Option.some.inj e), fun e => hs.2 (Option.some.inj e)⟩
      · exact ⟨by simp, by simp⟩
    · exact absurd hs h.1
    · exact absurd hs h.2
  · rw [List.getElem?_set_ne e]
    exact h

theorem inUse_changeMap {m : BlockMap} {b : Nat} (h : inUse m b) {c : MapChange} (hc : c ≠ .initial) :
    inUse (changeMap c m) b := by
  cases c with
  | initial => exact absurd rfl hc
  | replace l o t =>
    exact inUse_set (inUse_set (m := { m with phys := m.phys.set l t }) h .retired (.inl ⟨by decide, by decide⟩))
      .mapped (.inl ⟨by decide, by decide⟩)
  | retire x => exact inUse_set h .retired (.inl ⟨by decide, by decide⟩)

theorem mapRule.inUse_phys {m : BlockMap} (h : mapRule m) (l : Nat) : inUse m (physicalBlock m l) := by
  by_cases hb : physicalBlock m l ∈ m.phys
  · have := h.2.2.2 _ hb
    exact ⟨by rw [this]; decide, by rw [this]; decide⟩
  · have : physicalBlock m l = 136 := by
      unfold physicalBlock at *
      rw [List.getD_eq_getElem?_getD] at *
      rcases hx : m.phys[l]? with _ | b
      · simp
      · rw [hx] at hb
        exact absurd (List.mem_of_getElem? hx) (by simpa using hb)
    rw [this]
    have : m.states[136]? = none := by simp [h.2.1]
    exact ⟨by rw [this]; simp, by rw [this]; simp⟩

/-! ## Nothing that bears on the map changes -/

/-- `t` has the map, the map area, the recovery, the relocation and the port of `s`, and, while an operation holds
the port, the queue and the block of the writer's erase. -/
structure MapSame (s t : State) : Prop where
  map : t.sc.map = s.sc.map
  first : t.medium.copy1 = s.medium.copy1
  second : t.medium.copy2 = s.medium.copy2
  relocation : t.sc.relocation = s.sc.relocation
  recovery : t.sc.recovery = s.sc.recovery
  queue : ∀ b ∈ t.sc.relocQueue, b ∈ s.sc.relocQueue
  port : t.sc.port = s.sc.port
  held : s.sc.port = none ∨ (t.sc.relocQueue = s.sc.relocQueue ∧ eraseTarget t.sc = eraseTarget s.sc)

theorem MapSame.refl (s : State) : MapSame s s := ⟨rfl, rfl, rfl, rfl, rfl, fun _ h => h, rfl, .inr ⟨rfl, rfl⟩⟩

theorem MapSame.trans {s t u : State} (h : MapSame s t) (k : MapSame t u) : MapSame s u where
  map := k.map.trans h.map
  first := k.first.trans h.first
  second := k.second.trans h.second
  relocation := k.relocation.trans h.relocation
  recovery := k.recovery.trans h.recovery
  queue := fun b hb => h.queue b (k.queue b hb)
  port := k.port.trans h.port
  held := by
    rcases h.held with e | ⟨e, e'⟩
    · exact .inl e
    · rcases k.held with f | ⟨f, f'⟩
      · exact .inl (h.port ▸ f)
      · exact .inr ⟨f.trans e, f'.trans e'⟩

theorem MapSame.of_eq {s t : State} (h : t.sc = s.sc) (k : t.medium = s.medium) : MapSame s t where
  map := by rw [h]
  first := by rw [k]
  second := by rw [k]
  relocation := by rw [h]
  recovery := by rw [h]
  queue := by rw [h]; exact fun _ h => h
  port := by rw [h]
  held := .inr (by rw [h]; exact ⟨rfl, rfl⟩)

/-- An operation agrees with two maps of the same blocks. -/
theorem portFits_congr {a b : StoreController} (h1 : b.map.phys = a.map.phys) (h2 : b.relocQueue = a.relocQueue)
    (h3 : b.relocation = a.relocation) (h4 : b.recovery = a.recovery) (h5 : eraseTarget b = eraseTarget a)
    (h6 : ∀ c, inUse a.map c → inUse b.map c) (p : PortOp) (h : portFits a p) : portFits b p := by
  have hp : ∀ l, physicalBlock b.map l = physicalBlock a.map l := fun l => by simp [physicalBlock, h1]
  have hl : ∀ l, logicalOf b.map l = logicalOf a.map l := fun l => by simp [logicalOf, h1]
  have hc : ∀ c, changeFits b.map c ↔ changeFits a.map c := fun c => by
    cases c <;> simp [changeFits, hp, h1]
  obtain ⟨agent, op, d⟩ := p
  cases agent <;> cases op <;> simp_all [portFits]
  all_goals
    rename_i c
    cases c <;> simp_all

theorem MapKept.same {s t : State} (h : MapKept s.sc s.medium) (k : MapSame s t) : MapKept t.sc t.medium where
  rule := k.map ▸ h.rule
  first := by rw [k.first]; exact h.first
  second := by rw [k.second]; exact h.second
  queued := by rw [k.map]; exact fun b hb => h.queued b (k.queue b hb)
  relocation := by rw [k.relocation, k.map]; exact h.relocation
  recovery := by rw [k.recovery, k.map, k.relocation]; exact h.recovery
  port := by
    intro p hp
    rw [k.port] at hp
    rcases k.held with e | ⟨e, e'⟩
    · rw [e] at hp; cases hp
    · exact portFits_congr (by rw [k.map]) e k.relocation k.recovery e' (by rw [k.map]; exact fun _ h => h) p
        (h.port p hp)

theorem withCu_same (f : CaptureUnit → CaptureUnit) (s : State) : MapSame s (withCu f s) := .of_eq rfl rfl
theorem raise_same (n : Notice) (s : State) : MapSame s (raise n s) := .of_eq rfl rfl

/-- A change of SC that leaves the map's part of it alone. -/
theorem withSc_same (f : StoreController → StoreController) (s : State) (h1 : (f s.sc).map = s.sc.map)
    (h3 : (f s.sc).relocation = s.sc.relocation)
    (h4 : (f s.sc).recovery = s.sc.recovery) (h5 : (f s.sc).port = s.sc.port)
    (h6 : s.sc.port = none ∨ ((f s.sc).relocQueue = s.sc.relocQueue ∧ eraseTarget (f s.sc) = eraseTarget s.sc))
    (h7 : ∀ b ∈ (f s.sc).relocQueue, b ∈ s.sc.relocQueue := by exact fun _ h => h) :
    MapSame s (withSc f s) :=
  ⟨h1, rfl, rfl, h3, h4, h7, h5, h6⟩

theorem onFilling_same (f : DirEntry → DirEntry) (s : State) : MapSame s (withSc (onFilling f) s) :=
  withSc_same _ s rfl rfl rfl rfl (.inr ⟨rfl, rfl⟩)

theorem truncateOpen_same (e : EndReason) (keep : List Nat) (s : State) : MapSame s (truncateOpen e keep s) := by
  unfold truncateOpen
  split
  · exact .refl s
  · exact withCu_same _ s

theorem closeWithoutTrailer_same (s : State) : MapSame s (closeWithoutTrailer s) := by
  unfold closeWithoutTrailer
  split
  · exact .refl s
  · exact (onFilling_same _ s).trans (withCu_same _ _)

theorem truncateStoreFull_same (s : State) : MapSame s (truncateStoreFull s) := by
  unfold truncateStoreFull
  dsimp only
  split
  · exact truncateOpen_same _ _ s
  · exact (truncateOpen_same _ _ s).trans (closeWithoutTrailer_same _)

theorem beginStoreFull_same (s : State) : MapSame s (beginStoreFull s) := by
  unfold beginStoreFull
  split
  · exact .refl s
  · exact ((withSc_same _ s rfl rfl rfl rfl (.inr ⟨rfl, rfl⟩)).trans (raise_same _ _)).trans
      (truncateStoreFull_same _)

/-! ## Relocations given up, examinations, positions -/

theorem portFits_abandon {sc : StoreController} {r : Relocation} (hr : sc.relocation = some r) {p : PortOp}
    (h : portFits sc p) (m : BlockMap) (hm : m.phys = sc.map.phys)
    (hu : ∀ c, inUse sc.map c → inUse m c) :
    portFits { sc with
      relocation := none, map := m
      port := sc.port.map (fun p => if p.agent = .relocator then { p with discard := true } else p) }
      (if p.agent = .relocator then { p with discard := true } else p) := by
  have hp : ∀ l, physicalBlock m l = physicalBlock sc.map l := fun l => by simp [physicalBlock, hm]
  have hc : ∀ c, changeFits m c ↔ changeFits sc.map c := fun c => by
    cases c <;> simp [changeFits, hp, hm]
  obtain ⟨agent, op, d⟩ := p
  cases agent <;> cases op <;> simp_all [portFits, eraseTarget]
  all_goals
    rename_i c
    cases c <;> simp_all

theorem MapKept.abandon {sc : StoreController} {m : Medium} (h : MapKept sc m) :
    MapKept (abandonRelocation sc) m := by
  unfold abandonRelocation
  split
  · exact h
  · rename_i r hr
    have ht := (h.relocation r hr).2
    have hn : r.target ∉ sc.map.phys := h.rule.notMem ht (by decide)
    have hu : ∀ c, inUse sc.map c → inUse (setBlockState r.target .spare sc.map) c :=
      fun c hc => inUse_set hc _ (.inr (.inr ht))
    refine ⟨mapRule_setBlockState h.rule _ hn, h.first, h.second, fun b hb => hu b (h.queued b hb),
      fun _ e => by simp at e, ?_, ?_⟩
    · intro q hq' hs
      obtain ⟨h1, h2, h3⟩ := h.recovery q hq' hs
      have hne : r.target ≠ q.target := h3 r hr
      refine ⟨h1.imp id (fun h1 => ?_), ?_, fun _ e => by simp at e⟩
      · have hnf : r.target ≠ q.failed := fun e => by rw [e, h1] at ht; cases ht
        show (sc.map.states.set r.target .spare)[q.failed]? = _
        rw [List.getElem?_set_ne hnf]
        exact h1
      · show (sc.map.states.set r.target .spare)[q.target]? = _
        rw [List.getElem?_set_ne hne]
        exact h2
    · intro p hp
      have hp' : sc.port.map (fun p => if p.agent = .relocator then { p with discard := true } else p) =
          some p := hp
      rcases hport : sc.port with _ | p0
      · simp [hport] at hp'
      · simp only [hport, Option.map_some] at hp'
        obtain rfl := Option.some.inj hp'
        have := portFits_abandon hr (h.port p0 hport) (setBlockState r.target .spare sc.map) rfl hu
        rw [hport] at this
        exact this

theorem abandonRelocation_port {sc : StoreController} (h : sc.port = none) : (abandonRelocation sc).port = none := by
  unfold abandonRelocation
  split
  · exact h
  · simp [h]

theorem MapKept.abandonOf {sc : StoreController} {m : Medium} (h : MapKept sc m) (b : Nat) :
    MapKept (abandonRelocationOf b sc) m := by
  unfold abandonRelocationOf
  split
  · split
    · exact h.abandon
    · exact h
  · exact h

theorem abandonRelocationOf_port {sc : StoreController} (b : Nat) (h : sc.port = none) :
    (abandonRelocationOf b sc).port = none := by
  unfold abandonRelocationOf
  split
  · split
    · exact abandonRelocation_port h
    · exact h
  · exact h

/-- The examination keeps the map (R147, R155). -/
theorem examine_kept {s : State} (h : MapKept s.sc s.medium) : MapKept (examine s).sc (examine s).medium := by
  unfold examine
  dsimp only
  have hk : MapKept (withSc (abandonRelocationOf (physicalBlock s.sc.map (eraseTarget s.sc))) s).sc
      (withSc (abandonRelocationOf (physicalBlock s.sc.map (eraseTarget s.sc))) s).medium := h.abandonOf _
  split
  · exact hk.same (withSc_same _ _ rfl rfl rfl rfl (.inr ⟨rfl, rfl⟩))
  · exact hk.same ((withSc_same _ _ rfl rfl rfl rfl (.inr ⟨rfl, rfl⟩)).trans (beginStoreFull_same _))

/-- So does the entry into a block. -/
theorem enterBlock_kept {s : State} (h : MapKept s.sc s.medium) (hp : s.sc.port = none) :
    MapKept (enterBlock s).sc (enterBlock s).medium := by
  unfold enterBlock
  dsimp only
  have hk := h.same (withSc_same (fun sc => { sc with seat := .normal, eraseAhead := .due false }) s
    rfl rfl rfl rfl (.inl hp))
  split
  · exact examine_kept hk
  · exact hk

/-- So does the advance of the position (R140). -/
theorem advancePosition_kept {s : State} (h : MapKept s.sc s.medium) (hp : s.sc.port = none) :
    MapKept (advancePosition s).sc (advancePosition s).medium := by
  unfold advancePosition
  dsimp only
  have k1 := withSc_same (fun sc => { sc with position := (s.sc.position + 1) % 2048 }) s
    rfl rfl rfl rfl (.inl hp)
  split
  · exact h.same k1
  · split
    · exact enterBlock_kept (h.same k1) hp
    · have k2 := k1.trans (withSc_same (fun sc => { sc with seat := .unerased }) _ rfl rfl rfl rfl (.inl hp))
      split
      · exact h.same (k2.trans (closeWithoutTrailer_same _))
      · exact h.same k2

theorem sectionDone_same (job : SectionJob) (logical : Nat) (s : State) : MapSame s (sectionDone job logical s) := by
  unfold sectionDone
  split
  · exact onFilling_same _ s
  · exact (onFilling_same _ s).trans (withCu_same _ _)
  · exact ((onFilling_same _ s).trans (withCu_same _ _)).trans (raise_same _ _)
  · split
    · exact .refl s
    · exact withSc_same _ s rfl rfl rfl rfl (.inr ⟨rfl, rfl⟩)

/-! ## Recoveries -/

/-- The end of a recovery while the port is free. -/
theorem MapKept.endRecovery {s : State} (h : MapKept s.sc s.medium) (hp : s.sc.port = none)
    (f : StoreController → StoreController) (h1 : (f s.sc).map = s.sc.map)
    (h3 : (f s.sc).relocation = s.sc.relocation) (h4 : (f s.sc).recovery = none)
    (h5 : (f s.sc).port = s.sc.port) (h6 : (f s.sc).relocQueue = s.sc.relocQueue := by rfl) :
    MapKept (withSc f s).sc (withSc f s).medium where
  rule := by show mapRule (f s.sc).map; rw [h1]; exact h.rule
  first := h.first
  second := h.second
  queued := by show ∀ b ∈ (f s.sc).relocQueue, inUse (f s.sc).map b; rw [h1, h6]; exact h.queued
  relocation := by
    show ∀ r, (f s.sc).relocation = some r → inUse (f s.sc).map r.block ∧ (f s.sc).map.states[r.target]? = _
    rw [h1, h3]; exact h.relocation
  recovery := by
    show ∀ r, (f s.sc).recovery = some r → _
    rw [h4]; intro r e; cases e
  port := by
    show ∀ p, (f s.sc).port = some p → _
    rw [h5, hp]; intro p e; cases e

theorem lowestSpare_spec {m : BlockMap} {b : Nat} (h : lowestSpare m = some b) :
    m.states[b]? = some .spare := by
  have := List.find?_some h
  simpa using this

/-- A block found is SPARE, exists, and no SPARE block has a lower number. -/
theorem LowestSpare.found {m : BlockMap} {b : Nat} : LowestSpare m b ↔ lowestSpare m = some b := by
  constructor
  · intro ⟨hb, hs, hl⟩
    unfold lowestSpare
    rw [List.find?_range_eq_some]
    refine ⟨by simp [hs], by simpa using hb, fun c hc => ?_⟩
    simpa using hl c hc
  · intro h
    unfold lowestSpare at h
    rw [List.find?_range_eq_some] at h
    refine ⟨by simpa using h.2.1, by simpa using h.1, fun c hc => ?_⟩
    simpa using h.2.2 c hc

/-- None is found just where no block is SPARE. -/
theorem NoSpare.found {m : BlockMap} : NoSpare m ↔ lowestSpare m = none := by
  unfold NoSpare lowestSpare
  rw [List.find?_eq_none]
  simp

/-- A spare is reserved. -/
theorem MapKept.reserve {sc : StoreController} {m : Medium} {b : Nat} (h : MapKept sc m)
    (hb : lowestSpare sc.map = some b) (hp : sc.port = none) :
    MapKept { sc with map := setBlockState b .target sc.map } m := by
  have hs := lowestSpare_spec hb
  have hn : b ∉ sc.map.phys := h.rule.notMem hs (by decide)
  have hset : ∀ (c : Nat) (st : BlockState), st ≠ BlockState.spare → sc.map.states[c]? = some st →
      (sc.map.states.set b .target)[c]? = some st := by
    intro c st hst hc
    have : b ≠ c := fun e => by rw [e, hc] at hs; exact hst (Option.some.inj hs)
    rw [List.getElem?_set_ne this]; exact hc
  have hu : ∀ c, inUse sc.map c → inUse (setBlockState b .target sc.map) c :=
    fun c hc => inUse_set hc _ (.inr (.inl hs))
  refine ⟨mapRule_setBlockState h.rule _ hn, h.first, h.second, fun c hc => hu c (h.queued c hc), ?_, ?_, ?_⟩
  · intro r hr
    exact ⟨hu _ (h.relocation r hr).1, hset _ _ (by decide) (h.relocation r hr).2⟩
  · intro q hq' hst
    obtain ⟨h1, h2, h3⟩ := h.recovery q hq' hst
    exact ⟨h1.imp id (hset _ _ (by decide)), hset _ _ (by decide) h2, h3⟩
  · intro p e
    rw [hp] at e
    cases e

/-- A recovery begins, with the failed block where the map has it or out of use. -/
theorem beginRecovery_kept {s : State} (h : MapKept s.sc s.medium) (hp : s.sc.port = none)
    (job : Option SectionJob) (logical slot failed : Nat)
    (hf : physicalBlock s.sc.map logical = failed ∨ s.sc.map.states[failed]? = some .retired) :
    MapKept (beginRecovery job logical slot failed s).sc (beginRecovery job logical slot failed s).medium := by
  unfold beginRecovery takeTarget
  rcases hl : lowestSpare s.sc.map with _ | b
  · rcases hr : s.sc.relocation with _ | r
    · simp only [Option.map_none]
      rcases job with _ | j
      · -- no block for a failed erase
        unfold eraseWornOut
        exact MapKept.same (MapKept.endRecovery h hp _ rfl rfl rfl rfl)
          ((raise_same _ _).trans (beginStoreFull_same _))
      · dsimp only
        unfold wearOut
        dsimp only
        have k0 := MapKept.endRecovery h hp (fun sc => { sc with recovery := none, rebuildTrailer := none })
          rfl rfl rfl rfl
        have k1 := k0.same (raise_same .storeWear _)
        split
        · have k2 : MapSame (raise .storeWear
              (withSc (fun sc => { sc with recovery := none, rebuildTrailer := none }) s))
              (if ofOpenRecord j = true then truncateOpen .truncatedStoreFull [] (raise .storeWear
                (withSc (fun sc => { sc with recovery := none, rebuildTrailer := none }) s)) else
                (raise .storeWear (withSc (fun sc => { sc with recovery := none, rebuildTrailer := none }) s))) := by
            split
            · exact truncateOpen_same _ _ _
            · exact .refl _
          have hp2 := k2.port.trans hp
          exact enterBlock_kept ((k1.same k2).same (withSc_same _ _ rfl rfl rfl rfl (.inl hp2))) hp2
        · have k2 := withSc_same (fun sc => { sc with seat := .abandoned }) (raise .storeWear
              (withSc (fun sc => { sc with recovery := none, rebuildTrailer := none }) s)) rfl rfl rfl rfl (.inl hp)
          split
          · exact examine_kept ((k1.same k2).same ((truncateStoreFull_same _).trans (beginStoreFull_same _)))
          · exact examine_kept ((k1.same k2).same (beginStoreFull_same _))
    · -- the relocator's target is taken
      simp only [Option.map_some]
      refine ⟨h.rule, h.first, h.second, h.queued, fun _ e => by simp at e, ?_, ?_⟩
      · intro q hq _
        obtain rfl := Option.some.inj hq
        exact ⟨hf, (h.relocation r hr).2, fun _ e => by simp at e⟩
      · intro p e
        have : s.sc.port = some p := e
        rw [hp] at this
        cases this
  · dsimp only
    have k := h.reserve hl hp
    have hs := lowestSpare_spec hl
    refine ⟨k.rule, k.first, k.second, k.queued, k.relocation, ?_, ?_⟩
    · intro q hq _
      obtain rfl := Option.some.inj hq
      refine ⟨hf.imp id (fun e => ?_), ?_, ?_⟩
      · show (s.sc.map.states.set b .target)[failed]? = _
        have : b ≠ failed := fun e' => by rw [e', e] at hs; cases hs
        rw [List.getElem?_set_ne this]; exact e
      · show (s.sc.map.states.set b .target)[b]? = _
        rw [List.getElem?_set_self (List.getElem?_eq_some_iff.mp hs).1]
      · intro q hq e
        have := (h.relocation q hq).2
        have e' : q.target = b := e
        rw [e', hs] at this
        cases this
    · intro p e
      have : s.sc.port = some p := e
      rw [hp] at this
      cases this

/-! ## Completions -/

/-- The port is free: what the operation was goes with it. -/
theorem MapKept.free {s : State} (h : MapKept s.sc s.medium) : MapKept (freePort s).sc (freePort s).medium where
  rule := h.rule
  first := h.first
  second := h.second
  queued := h.queued
  relocation := h.relocation
  recovery := h.recovery
  port := by intro p e; cases (show none = some p from e)

/-- The medium's bytes change, and its map copies do not. -/
theorem MapKept.bytes {sc : StoreController} {m n : Medium} (h : MapKept sc m) (h1 : n.copy1 = m.copy1)
    (h2 : n.copy2 = m.copy2) : MapKept sc n where
  rule := h.rule
  first := by rw [h1]; exact h.first
  second := by rw [h2]; exact h.second
  queued := h.queued
  relocation := h.relocation
  recovery := h.recovery
  port := h.port

theorem forgetBlock_kept {s : State} (h : MapKept s.sc s.medium) (hp : s.sc.port = none) (b : Nat) :
    MapKept (withSc (forgetBlock b) s).sc (withSc (forgetBlock b) s).medium ∧
    (withSc (forgetBlock b) s).sc.port = none := by
  have hp' := abandonRelocationOf_port b hp
  refine ⟨?_, hp'⟩
  have k : MapKept (withSc (abandonRelocationOf b) s).sc (withSc (abandonRelocationOf b) s).medium := h.abandonOf b
  exact k.same (t := withSc (forgetBlock b) s)
    ⟨rfl, rfl, rfl, rfl, rfl, fun _ hb => (List.mem_filter.mp hb).1, rfl, .inl hp'⟩

/-- A recovery goes on from a step at which its target was reserved. -/
theorem recoveryTo_kept {s : State} (h : MapKept s.sc s.medium) (hp : s.sc.port = none) {r : Recovery}
    (hr : s.sc.recovery = some r) (step : RecoveryStep) (hs : step ≠ .reprogram → r.step ≠ .reprogram) :
    MapKept (recoveryTo r step s).sc (recoveryTo r step s).medium where
  rule := h.rule
  first := h.first
  second := h.second
  queued := h.queued
  relocation := h.relocation
  recovery := by
    intro q hq hst
    obtain rfl := Option.some.inj hq
    exact h.recovery r hr (hs hst)
  port := by intro p e; have e' : s.sc.port = some p := e; rw [hp] at e'; cases e'

theorem relocationTo_kept {s : State} (h : MapKept s.sc s.medium) (hp : s.sc.port = none) {r : Relocation}
    (hr : s.sc.relocation = some r) (step : RelocStep) :
    MapKept (relocationTo r step s).sc (relocationTo r step s).medium where
  rule := h.rule
  first := h.first
  second := h.second
  queued := h.queued
  relocation := by
    intro q hq
    obtain rfl := Option.some.inj hq
    exact h.relocation r hr
  recovery := by
    intro q hq hst
    obtain ⟨h1, h2, h3⟩ := h.recovery q hq hst
    refine ⟨h1, h2, fun p e => ?_⟩
    obtain rfl := Option.some.inj e
    exact h3 r hr
  port := by intro p e; have e' : s.sc.port = some p := e; rw [hp] at e'; cases e'

theorem programSection_copies (m : Medium) (p : Nat) (bs : List Byte) :
    (programSection m p bs).copy1 = m.copy1 ∧ (programSection m p bs).copy2 = m.copy2 := by
  unfold programSection
  split <;> exact ⟨rfl, rfl⟩

theorem writeStoreByte_copies (m : Medium) (a : Nat) (b : Byte) :
    (writeStoreByte m a b).copy1 = m.copy1 ∧ (writeStoreByte m a b).copy2 = m.copy2 := by
  unfold writeStoreByte
  split <;> exact ⟨rfl, rfl⟩

theorem markStore_copies (ok : Bool) (ps : List Nat) (free : Nat) (m : Medium) :
    (markStore ok free m ps).copy1 = m.copy1 ∧ (markStore ok free m ps).copy2 = m.copy2 := by
  induction ps generalizing free m with
  | nil => exact ⟨rfl, rfl⟩
  | cons p ps ih =>
    have h := writeStoreByte_copies m (p * sectionSize + 510) (if ok then 0 else Config.freeByte free)
    exact ⟨(ih _ _).1.trans h.1, (ih _ _).2.trans h.2⟩

theorem spoilFold_copies (f : Nat → Nat) (l : List Nat) (m : Medium) :
    (l.foldl (fun m i => spoilSection m (f i)) m).copy1 = m.copy1 ∧
    (l.foldl (fun m i => spoilSection m (f i)) m).copy2 = m.copy2 := by
  induction l generalizing m with
  | nil => exact ⟨rfl, rfl⟩
  | cons i l ih => exact ih _

theorem spoilBlock_copies (m : Medium) (b : Nat) :
    (spoilBlock m b).copy1 = m.copy1 ∧ (spoilBlock m b).copy2 = m.copy2 :=
  spoilFold_copies _ _ _

theorem copySpare_copies (bs : List Byte) (dst i : Nat) (m : Medium) :
    (copySpare bs dst i m).copy1 = m.copy1 ∧ (copySpare bs dst i m).copy2 = m.copy2 := by
  unfold copySpare
  split
  · exact ⟨rfl, rfl⟩
  · exact writeStoreByte_copies _ _ _

theorem copySection_copies (o : MediumOutcome) (bs : List Byte) (src dst : Nat) (m : Medium) :
    (copySection o bs src dst m).copy1 = m.copy1 ∧ (copySection o bs src dst m).copy2 = m.copy2 := by
  unfold copySection
  split
  · exact ⟨rfl, rfl⟩
  · have h1 := copySpare_copies bs dst 511 (copySpare bs dst 510
      (programSection m dst (if o = .uncorrectable then damagedCopy m src bs else bs)))
    have h2 := copySpare_copies bs dst 510
      (programSection m dst (if o = .uncorrectable then damagedCopy m src bs else bs))
    have h3 := programSection_copies m dst (if o = .uncorrectable then damagedCopy m src bs else bs)
    exact ⟨h1.1.trans (h2.1.trans h3.1), h1.2.trans (h2.2.trans h3.2)⟩

theorem sectionDone_port (job : SectionJob) (logical : Nat) (s : State) :
    (sectionDone job logical s).sc.port = s.sc.port := (sectionDone_same job logical s).port

theorem programDone_kept {s : State} (h : MapKept s.sc s.medium) (hp : s.sc.port = none) (job : SectionJob)
    (logical : Nat) : MapKept (programDone job logical s).sc (programDone job logical s).medium := by
  unfold programDone
  have k := MapKept.endRecovery h hp (fun sc => { sc with recovery := none }) rfl rfl rfl rfl
  have hs := sectionDone_same job logical (withSc (fun sc => { sc with recovery := none }) s)
  exact advancePosition_kept (k.same hs) (hs.port.trans hp)

/-- PROGRAM COMPLETE keeps the map (R145, R150, R151). -/
theorem programComplete_kept {s : State} (h : MapKept s.sc s.medium) (ok : Bool) :
    MapKept (programComplete ok s).sc (programComplete ok s).medium := by
  unfold programComplete
  split
  · rename_i job logical phys bytes d hport
    have hf : physicalBlock s.sc.map (blockOf logical) = phys / 16 := h.port _ hport
    split
    · have hc := programSection_copies s.medium phys bytes
      exact programDone_kept (MapKept.free (s := { s with medium := programSection s.medium phys bytes })
        (h.bytes hc.1 hc.2)) rfl job logical
    · have k : MapKept (freePort { s with medium := spoilSection s.medium phys }).sc
          (freePort { s with medium := spoilSection s.medium phys }).medium :=
        MapKept.free (s := { s with medium := spoilSection s.medium phys }) (h.bytes rfl rfl)
      exact beginRecovery_kept (MapKept.endRecovery k rfl (fun sc => { sc with recovery := none }) rfl rfl rfl rfl)
        rfl _ _ _ _ (.inl hf)
  · exact h

/-- MARK PROGRAM COMPLETE keeps the map. -/
theorem markComplete_kept {s : State} (h : MapKept s.sc s.medium) (ok : Bool) :
    MapKept (markComplete ok s).sc (markComplete ok s).medium := by
  unfold markComplete
  split
  · rename_i number sections d hport
    dsimp only
    have hc := markStore_copies ok sections s.freeCount s.medium
    exact (MapKept.free (s := { s with
      medium := markStore ok s.freeCount s.medium sections
      freeCount := s.freeCount + sections.length }) (h.bytes hc.1 hc.2)).same
      (withSc_same _ _ rfl rfl rfl rfl (.inl rfl))
  · exact h

theorem eraseAheadDone_kept {s : State} (h : MapKept s.sc s.medium) (hp : s.sc.port = none) :
    MapKept (eraseAheadDone s).sc (eraseAheadDone s).medium := by
  unfold eraseAheadDone
  dsimp only
  have k := MapKept.endRecovery h hp (fun sc => { sc with storeFull := false, recovery := none }) rfl rfl rfl rfl
  split
  · exact k.same (withSc_same _ _ rfl rfl rfl rfl (.inl hp))
  · split
    · exact k.same (withSc_same _ _ rfl rfl rfl rfl (.inl hp))
    · exact enterBlock_kept k hp
  · exact enterBlock_kept (k.same (withSc_same _ _ rfl rfl rfl rfl (.inl hp))) hp

theorem copyOrMap_ne (r : Recovery) (n : Nat) : copyOrMap r n ≠ .reprogram := by
  unfold copyOrMap
  split <;> simp

/-- ERASE COMPLETE keeps the map (R147, R150, R154). -/
theorem eraseComplete_kept {s : State} (h : MapKept s.sc s.medium) (ok : Bool) :
    MapKept (eraseComplete ok s).sc (eraseComplete ok s).medium := by
  unfold eraseComplete
  split
  · rename_i agent block discard hport
    dsimp only
    have k : MapKept (freePort { s with
        medium := if ok then eraseBlock s.medium block else spoilBlock s.medium block }).sc
        (freePort { s with
          medium := if ok then eraseBlock s.medium block else spoilBlock s.medium block }).medium := by
      refine MapKept.free (s := { s with
          medium := if ok then eraseBlock s.medium block else spoilBlock s.medium block }) (h.bytes ?_ ?_)
      · cases ok
        · exact (spoilBlock_copies _ _).1
        · rfl
      · cases ok
        · exact (spoilBlock_copies _ _).2
        · rfl
    generalize hu : freePort { s with
      medium := if ok then eraseBlock s.medium block else spoilBlock s.medium block } = u at k ⊢
    have hup : u.sc.port = none := by rw [← hu]; rfl
    have hur : u.sc.recovery = s.sc.recovery := by rw [← hu]; rfl
    have hum : u.sc.map = s.sc.map := by rw [← hu]; rfl
    have hue : eraseTarget u.sc = eraseTarget s.sc := by rw [← hu]; rfl
    split
    · exact k
    · cases agent
      · obtain ⟨f1, f2⟩ : (s.sc.recovery = none → physicalBlock s.sc.map (eraseTarget s.sc) = block) ∧
            ∀ r, s.sc.recovery = some r → r.step ≠ .reprogram := h.port _ hport
        dsimp only
        unfold writerErased
        split
        · rename_i r hr
          have hst := f2 r (hur ▸ hr)
          split
          · exact recoveryTo_kept k hup hr _ (fun _ => hst)
          · exact recoveryTo_kept k hup hr _ (fun _ => hst)
        · rename_i hr
          split
          · obtain ⟨k1, k2⟩ := forgetBlock_kept k hup block
            exact eraseAheadDone_kept k1 k2
          · exact beginRecovery_kept k hup _ _ _ _ (.inl (by rw [hum, hue]; exact f1 (hur ▸ hr)))
      · dsimp only
        unfold relocatorErased
        split
        · rename_i r hr
          split
          · exact relocationTo_kept k hup hr _
          · exact relocationTo_kept k hup hr _
        · exact k
      · exact k
  · exact h

/-- COPY COMPLETE keeps the map (R150, R154). -/
theorem copyComplete_kept {s : State} (h : MapKept s.sc s.medium) (o : MediumOutcome) (ok : Bool) :
    MapKept (copyComplete o ok s).sc (copyComplete o ok s).medium := by
  unfold copyComplete
  split
  · rename_i agent src dst discard hport
    dsimp only
    generalize hok : (ok || readsErased (readOutcome s.medium src o)
      (readSection s.medium s.freeCount src (readOutcome s.medium src o))) = ok'
    generalize hm : (if ok' = true then copySection (readOutcome s.medium src o)
      (readSection s.medium s.freeCount src (readOutcome s.medium src o)) src dst s.medium
      else spoilSection s.medium dst) = m'
    have hc : m'.copy1 = s.medium.copy1 ∧ m'.copy2 = s.medium.copy2 := by
      rw [← hm]
      split
      · exact copySection_copies _ _ _ _ _
      · exact ⟨rfl, rfl⟩
    have k : MapKept (freePort { s with medium := m', freeCount := s.freeCount + sectionSize }).sc
        (freePort { s with medium := m', freeCount := s.freeCount + sectionSize }).medium :=
      MapKept.free (s := { s with medium := m', freeCount := s.freeCount + sectionSize }) (h.bytes hc.1 hc.2)
    generalize hu : freePort { s with medium := m', freeCount := s.freeCount + sectionSize } = u at k ⊢
    have hup : u.sc.port = none := by rw [← hu]; rfl
    have hur : u.sc.recovery = s.sc.recovery := by rw [← hu]; rfl
    split
    · exact k
    · cases agent
      · have f : ∀ r, s.sc.recovery = some r → r.step ≠ .reprogram := h.port _ hport
        dsimp only
        unfold writerCopied
        split
        · rename_i r hr
          have hst := f r (hur ▸ hr)
          split
          · split
            · exact recoveryTo_kept k hup hr _ (fun _ => hst)
            · exact k
          · exact recoveryTo_kept k hup hr _ (fun _ => hst)
        · exact k
      · dsimp only
        unfold relocatorCopied
        split
        · rename_i r hr
          split
          · split
            · exact relocationTo_kept k hup hr _
            · exact k
          · exact relocationTo_kept k hup hr _
        · exact k
      · exact k
  · exact h

/-! ## Map writes -/

theorem mapRule.fits {m : BlockMap} (h : mapRule m) {logical failed target : Nat}
    (hf : physicalBlock m logical = failed ∨ m.states[failed]? = some .retired)
    (ht : m.states[target]? = some .target) {c : MapChange}
    (hc : c = .replace logical failed target ∨ c = .retire target) : changeFits m c := by
  have hn : target ∉ m.phys := h.notMem ht (by decide)
  rcases hc with rfl | rfl
  · refine ⟨hf.imp id (fun e => h.notMem e (by decide)), hn, ?_⟩
    have := (List.getElem?_eq_some_iff.mp ht).1
    have := h.2.1
    omega
  · exact hn

theorem writeMapCopy_kept {sc : StoreController} {m : Medium} (h : MapKept sc m) {map : BlockMap}
    (hm : mapRule map) (v : Bool) (retry : Option MapSide) : MapKept sc (writeMapCopy map v retry m) := by
  unfold writeMapCopy
  split
  · exact ⟨h.rule, fun _ => mapRule_mapForCopy hm, h.second, h.queued, h.relocation, h.recovery, h.port⟩
  · exact ⟨h.rule, h.first, fun _ => mapRule_mapForCopy hm, h.queued, h.relocation, h.recovery, h.port⟩

/-- What a map write at the port changes fits the map in force. -/
theorem MapKept.portChange {sc : StoreController} {m : Medium} (h : MapKept sc m) {agent : Agent}
    {c : MapChange} {d : Bool} (hp : sc.port = some ⟨agent, .mapWrite c, d⟩) : changeFits sc.map c := by
  have := h.port _ hp
  rcases agent with _ | _ | _ <;> rcases c with _ | ⟨l, o, t⟩ | b
  · trivial
  · obtain ⟨r, hr, hs, hc⟩ : ∃ r, sc.recovery = some r ∧ r.step ≠ .reprogram ∧
      (MapChange.replace l o t = .replace r.logical r.failed r.target ∨
        MapChange.replace l o t = .retire r.target) := this
    obtain ⟨h1, h2, _⟩ := h.recovery r hr hs
    exact h.rule.fits h1 h2 hc
  · obtain ⟨r, hr, hs, hc⟩ : ∃ r, sc.recovery = some r ∧ r.step ≠ .reprogram ∧
      (MapChange.retire b = .replace r.logical r.failed r.target ∨ MapChange.retire b = .retire r.target) := this
    obtain ⟨h1, h2, _⟩ := h.recovery r hr hs
    exact h.rule.fits h1 h2 hc
  · trivial
  · exact this.1
  · exact this.1
  · trivial
  · exact this.elim
  · exact this.elim

theorem abandonRelocationOf_recovery (b : Nat) (x : Option Recovery) (sc : StoreController) :
    abandonRelocationOf b { sc with recovery := x } = { abandonRelocationOf b sc with recovery := x } := by
  unfold abandonRelocationOf abandonRelocation
  obtain ⟨map, dir, nn, ns, pos, seat, ea, ae, sf, pm, rec, rt, rq, rel, port, lg, bu, ro, mr⟩ := sc
  rcases rel with _ | r
  · rfl
  · dsimp only
    split <;> rfl

theorem forgetBlock_recovery (b : Nat) (x : Option Recovery) (sc : StoreController) :
    forgetBlock b { sc with recovery := x } = { forgetBlock b sc with recovery := x } := by
  unfold forgetBlock
  rw [abandonRelocationOf_recovery]

theorem eraseAheadDone_recovery (s : State) :
    eraseAheadDone (withSc (fun sc => { sc with recovery := none }) s) = eraseAheadDone s := by
  unfold eraseAheadDone
  show (match s.sc.seat with | .normal => _ | .unerased => _ | .abandoned => _) = _
  rcases s.sc.seat <;> rfl

/-- The facts that need no recovery, with the port free. -/
theorem MapKept.dropRecovery {sc : StoreController} {m : Medium} (h : MapKept sc m) (hp : sc.port = none) :
    MapKept { sc with recovery := none } m where
  rule := h.rule
  first := h.first
  second := h.second
  queued := h.queued
  relocation := h.relocation
  recovery := by intro r e; cases e
  port := by intro p e; have e' : sc.port = some p := e; rw [hp] at e'; cases e'

/-- A recovery's map write completes. -/
theorem writerMapped_kept {s : State} (h : MapKept { s.sc with recovery := none } s.medium)
    (hp : s.sc.port = none) {r : Recovery} (hr : s.sc.recovery = some r) {c : MapChange}
    (hc : c = .replace r.logical r.failed r.target ∨ c = .retire r.target)
    (hret : c = .retire r.target → physicalBlock s.sc.map r.logical = r.failed ∨
      s.sc.map.states[r.failed]? = some .retired) :
    MapKept (writerMapped c s).sc (writerMapped c s).medium := by
  have hs0 : MapKept (withSc (fun sc => { sc with recovery := none }) s).sc
      (withSc (fun sc => { sc with recovery := none }) s).medium := h
  rcases hc with rfl | rfl
  · unfold writerMapped
    rw [hr]
    dsimp only
    obtain ⟨k1, k2⟩ := forgetBlock_kept hs0 hp r.failed
    have e : (withSc (forgetBlock r.failed) (withSc (fun sc => { sc with recovery := none }) s)) =
        withSc (fun sc => { sc with recovery := none }) (withSc (forgetBlock r.failed) s) := by
      simp only [withSc]
      rw [forgetBlock_recovery]
    rw [e] at k1 k2
    split
    · refine ⟨k1.rule, k1.first, k1.second, k1.queued, k1.relocation, ?_, ?_⟩
      · intro q hq hst
        obtain rfl := Option.some.inj hq
        exact absurd rfl hst
      · intro p hp'
        have e' : (withSc (forgetBlock r.failed) s).sc.port = some p := hp'
        have : (withSc (forgetBlock r.failed) s).sc.port = none := k2
        rw [this] at e'
        cases e'
    · rw [← eraseAheadDone_recovery]
      exact eraseAheadDone_kept k1 k2
  · unfold writerMapped
    rw [hr]
    dsimp only
    have hk : beginRecovery r.job r.logical r.slot r.failed s =
        beginRecovery r.job r.logical r.slot r.failed (withSc (fun sc => { sc with recovery := none }) s) := by
      unfold beginRecovery takeTarget
      show _ = (match (match lowestSpare s.sc.map with
        | some b => some (b, { s.sc with recovery := none, map := setBlockState b .target s.sc.map })
        | none => s.sc.relocation.map (fun (r : Relocation) =>
            (r.target, { s.sc with recovery := none, relocation := none }))) with
        | some (target, sc) => _
        | none => _)
      rcases lowestSpare s.sc.map with _ | b
      · rcases s.sc.relocation with _ | q
        · rcases r.job with _ | j <;> rfl
        · rfl
      · rfl
    rw [hk]
    exact beginRecovery_kept hs0 hp _ _ _ _ (hret rfl)

theorem logicalOf_spec {m : BlockMap} {b l : Nat} (h : mapRule m) (hl : physicalBlock m l = b) (hb : b < 136) :
    logicalOf m b = l := by
  have hll : l < m.phys.length := by
    rcases Nat.lt_or_ge l m.phys.length with h' | h'
    · exact h'
    · simp [physicalBlock, List.getElem?_eq_none h'] at hl
      omega
  have hval : m.phys[l] = b := by simpa [physicalBlock, hll] using hl
  have hlt : logicalOf m b < m.phys.length := by
    unfold logicalOf
    exact List.findIdx_lt_length_of_exists ⟨b, hval ▸ List.getElem_mem _, by simp⟩
  have hv : m.phys[logicalOf m b] = b := by
    exact eq_of_beq (List.findIdx_getElem (p := fun x => x == b) (xs := m.phys) (w := hlt))
  exact nodup_index h.2.2.1 hlt hll (hv.trans hval.symm)

theorem logicalOf_none {m : BlockMap} {b : Nat} (h : b ∉ m.phys) : m.phys.length ≤ logicalOf m b := by
  unfold logicalOf
  refine Nat.le_of_eq (List.findIdx_eq_length_of_false fun x hx => ?_).symm
  simp only [beq_eq_false_iff_ne, ne_eq]
  exact fun e => h (e ▸ hx)

/-- A recovery's failed block through a relocation's switch or the retiring of its target. -/
theorem recovery_through {m : BlockMap} (h : mapRule m) {logical failed old target : Nat}
    (hf : physicalBlock m logical = failed ∨ m.states[failed]? = some .retired)
    (ht : m.states[target]? = some .target) {c : MapChange}
    (hc : c = .replace (logicalOf m old) old target ∨ c = .retire target) :
    physicalBlock (changeMap c m) logical = failed ∨ (changeMap c m).states[failed]? = some .retired := by
  have htn : target ∉ m.phys := h.notMem ht (by decide)
  rcases hc with rfl | rfl
  · rcases hf with hf | hf
    · have hph : physicalBlock (changeMap (.replace (logicalOf m old) old target) m) logical =
          ((m.phys.set (logicalOf m old) target).getD logical 136) := rfl
      by_cases hl : logicalOf m old = logical
      · by_cases hlen : logical < m.phys.length
        · right
          have hval : m.phys[logical] = failed := by simpa [physicalBlock, hlen] using hf
          have hmem : old ∈ m.phys := by
            refine Decidable.byContradiction (fun hno => ?_)
            have := logicalOf_none hno
            omega
          obtain ⟨i, hi, e⟩ := List.getElem_of_mem hmem
          have : logicalOf m old = i := logicalOf_spec h (by simp [physicalBlock, hi, e]) (h.lt hmem)
          have hof : old = failed := by
            have hil : i = logical := this.symm.trans hl
            subst hil
            exact e.symm.trans hval
          subst hof
          show ((m.states.set old .retired).set target .mapped)[old]? = _
          have hne : target ≠ old := fun e => htn (e ▸ hmem)
          have := h.lt hmem
          rw [List.getElem?_set_ne hne, List.getElem?_set_self (by rw [h.2.1]; exact this)]
        · left
          rw [hph]
          rw [List.set_eq_of_length_le (by omega)]
          exact hf
      · left
        rw [hph, List.getD_eq_getElem?_getD, List.getElem?_set_ne hl]
        simpa [physicalBlock] using hf
    · right
      show ((m.states.set old .retired).set target .mapped)[failed]? = _
      have hne : target ≠ failed := fun e => by rw [e, hf] at ht; cases ht
      rw [List.getElem?_set_ne hne]
      by_cases ho : old = failed
      · subst ho
        rw [List.getElem?_set_self (List.getElem?_eq_some_iff.mp hf).1]
      · rw [List.getElem?_set_ne ho]
        exact hf
  · refine hf.imp id (fun hf => ?_)
    show (m.states.set target .retired)[failed]? = _
    have hne : target ≠ failed := fun e => by rw [e, hf] at ht; cases ht
    rw [List.getElem?_set_ne hne]
    exact hf

theorem restartRelocation_kept {s : State} (h : MapKept { s.sc with relocation := none } s.medium)
    (hp : s.sc.port = none ∨ (∀ p, s.sc.port = some p → ∀ r, portFits { s.sc with relocation := r } p))
    (block : Nat) (hbl : inUse s.sc.map block) :
    MapKept (restartRelocation block s).sc (restartRelocation block s).medium := by
  unfold restartRelocation
  split
  · rename_i b hb
    have hs := lowestSpare_spec hb
    have hn : b ∉ s.sc.map.phys := h.rule.notMem hs (by decide)
    have hset : ∀ (c : Nat) (st : BlockState), st ≠ BlockState.spare → s.sc.map.states[c]? = some st →
        (s.sc.map.states.set b .target)[c]? = some st := by
      intro c st hst hc
      have : b ≠ c := fun e => by rw [e, hc] at hs; exact hst (Option.some.inj hs)
      rw [List.getElem?_set_ne this]; exact hc
    have hu : ∀ c, inUse s.sc.map c → inUse (setBlockState b .target s.sc.map) c :=
      fun c hc => inUse_set hc _ (.inr (.inl hs))
    refine ⟨mapRule_setBlockState h.rule _ hn, h.first, h.second, fun c hc => hu c (h.queued c hc), ?_, ?_, ?_⟩
    · intro r hr
      obtain rfl := Option.some.inj hr
      refine ⟨hu _ hbl, ?_⟩
      show (s.sc.map.states.set b .target)[b]? = _
      rw [List.getElem?_set_self (List.getElem?_eq_some_iff.mp hs).1]
    · intro q hq hst
      obtain ⟨h1, h2, _⟩ := h.recovery q hq hst
      refine ⟨h1.imp id (hset _ _ (by decide)), hset _ _ (by decide) h2, ?_⟩
      intro r hr e
      obtain rfl := Option.some.inj hr
      have e' : b = q.target := e
      have h2' : s.sc.map.states[q.target]? = some .target := h2
      rw [← e', hs] at h2'
      cases h2'
    · intro p hp'
      have e : s.sc.port = some p := hp'
      rcases hp with hp | hp
      · rw [hp] at e; cases e
      · exact portFits_congr (a := { s.sc with relocation := some ⟨block, b, .erase⟩ })
          (b := { s.sc with map := setBlockState b .target s.sc.map, relocation := some ⟨block, b, .erase⟩ })
          rfl rfl rfl rfl rfl hu p
          (hp p e _)
  · exact h

/-- The initial map in force, with nothing that would change it. -/
theorem MapKept.initial {s : State} (h : MapKept s.sc s.medium) (hp : s.sc.port = none)
    (hq : s.sc.relocQueue = []) (hl : s.sc.relocation = none) (hr : s.sc.recovery = none) :
    MapKept (withSc (fun sc => { sc with map := initialMap }) s).sc s.medium where
  rule := mapRule_initialMap
  first := h.first
  second := h.second
  queued := by
    show ∀ b ∈ s.sc.relocQueue, _
    rw [hq]; intro b hb; cases hb
  relocation := by
    show ∀ r, s.sc.relocation = some r → _
    rw [hl]; intro r e; cases e
  recovery := by
    show ∀ r, s.sc.recovery = some r → _
    rw [hr]; intro r e; cases e
  port := by
    show ∀ p, s.sc.port = some p → _
    rw [hp]; intro p e; cases e

/-- MAP WRITE COMPLETE keeps R139, whatever it changes and whether or not it succeeds. -/
theorem mapWriteComplete_kept {s : State} (h : MapKept s.sc s.medium) (ok : Bool) :
    MapKept (mapWriteComplete ok s).sc (mapWriteComplete ok s).medium := by
  unfold mapWriteComplete
  split
  · rename_i agent change discard hport
    dsimp only
    have hfit := h.portChange hport
    have hmap := mapRule_changeMap h.rule hfit
    split
    · -- success
      have k0 : MapKept
          (freePort { s with medium := writeMapCopy (changeMap change s.sc.map) true s.sc.mapRetry s.medium }).sc
          (freePort { s with medium := writeMapCopy (changeMap change s.sc.map) true s.sc.mapRetry s.medium }).medium :=
        MapKept.free (s := { s with medium := writeMapCopy (changeMap change s.sc.map) true s.sc.mapRetry s.medium })
          (writeMapCopy_kept h hmap _ _)
      have k1 := k0.same (withSc_same (fun sc => { sc with mapRetry := none }) _ rfl rfl rfl rfl (.inl rfl))
      split
      · exact k1
      · rename_i hd
        generalize hu : withSc (fun sc => { sc with mapRetry := none }) (freePort { s with
          medium := writeMapCopy (changeMap change s.sc.map) true s.sc.mapRetry s.medium }) = u at k1 ⊢
        have hum : u.sc.map = s.sc.map := by rw [← hu]; rfl
        have hup : u.sc.port = none := by rw [← hu]; rfl
        have hur : u.sc.recovery = s.sc.recovery := by rw [← hu]; rfl
        have huq : u.sc.relocation = s.sc.relocation := by rw [← hu]; rfl
        have huw : u.sc.relocQueue = s.sc.relocQueue := by rw [← hu]; rfl
        have hpf := h.port _ hport
        by_cases hi : change = .initial
        · subst hi
          obtain ⟨p1, p2, p3⟩ : s.sc.relocQueue = [] ∧ s.sc.relocation = none ∧ s.sc.recovery = none := hpf
          have k2 := k1.initial hup (huw.trans p1) (huq.trans p2) (hur.trans p3)
          have hw : writerMapped .initial (withSc (fun sc => { sc with map := initialMap }) u) =
              withSc (fun sc => { sc with map := initialMap }) u := by
            unfold writerMapped
            rw [show (withSc (fun sc => { sc with map := initialMap }) u).sc.recovery = none from hur.trans p3]
          have hl : relocatorMapped .initial (withSc (fun sc => { sc with map := initialMap }) u) =
              withSc (fun sc => { sc with map := initialMap }) u := by
            unfold relocatorMapped
            rw [show (withSc (fun sc => { sc with map := initialMap }) u).sc.relocation = none from huq.trans p2]
          rcases agent with _ | _ | _
          · show MapKept (writerMapped .initial (withSc (fun sc => { sc with map := initialMap }) u)).sc
              (writerMapped .initial (withSc (fun sc => { sc with map := initialMap }) u)).medium
            rw [hw]; exact k2
          · show MapKept (relocatorMapped .initial (withSc (fun sc => { sc with map := initialMap }) u)).sc
              (relocatorMapped .initial (withSc (fun sc => { sc with map := initialMap }) u)).medium
            rw [hl]; exact k2
          · exact k2
        · rcases agent with _ | _ | _
          · -- writer
            obtain ⟨r, hr, hs, hc⟩ : ∃ r, s.sc.recovery = some r ∧ r.step ≠ .reprogram ∧
                (change = .replace r.logical r.failed r.target ∨ change = .retire r.target) := by
              rcases change with _ | _ | _
              · exact absurd rfl hi
              · exact hpf
              · exact hpf
            obtain ⟨h1, h2, h3⟩ := h.recovery r hr hs
            dsimp only
            refine writerMapped_kept (r := r) (s := withSc (fun sc => { sc with map := changeMap change s.sc.map }) u)
              ⟨hmap, k1.first, k1.second, ?_, ?_, ?_, ?_⟩ hup (hur.trans hr) hc ?_
            · intro b hb
              exact inUse_changeMap (h.queued b (huw ▸ hb)) hi
            · intro q e
              have e' : s.sc.relocation = some q := huq ▸ e
              obtain ⟨hqb, hqt⟩ := h.relocation q e'
              have hne := h3 q e'
              refine ⟨inUse_changeMap hqb hi, ?_⟩
              rcases hc with rfl | rfl
              · show ((s.sc.map.states.set r.failed .retired).set r.target .mapped)[q.target]? = _
                rw [List.getElem?_set_ne (Ne.symm hne)]
                have hnf : r.failed ≠ q.target := by
                  intro e2
                  rcases h1 with h1 | h1
                  · have := (h.rule.inUse_phys r.logical).2
                    rw [h1, e2] at this
                    exact this hqt
                  · rw [e2, hqt] at h1; cases h1
                rw [List.getElem?_set_ne hnf]; exact hqt
              · show (s.sc.map.states.set r.target .retired)[q.target]? = _
                rw [List.getElem?_set_ne (Ne.symm hne)]; exact hqt
            · intro q e; cases e
            · intro p e
              have e' : u.sc.port = some p := e
              rw [hup] at e'; cases e'
            · rintro rfl
              exact h1.imp id (fun h1 => by
                show (s.sc.map.states.set r.target .retired)[r.failed]? = _
                by_cases hx : r.target = r.failed
                · rw [hx, List.getElem?_set_self (List.getElem?_eq_some_iff.mp h1).1]
                · rw [List.getElem?_set_ne hx]; exact h1)
          · -- relocator
            obtain ⟨r, hr, hc⟩ : ∃ r, s.sc.relocation = some r ∧
                (change = .replace (logicalOf s.sc.map r.block) r.block r.target ∨ change = .retire r.target) := by
              rcases change with _ | _ | _
              · exact absurd rfl hi
              · exact hpf.2 (by simpa using hd)
              · exact hpf.2 (by simpa using hd)
            obtain ⟨hb, ht⟩ := h.relocation r hr
            have hru : u.sc.relocation = some r := huq.trans hr
            have kept : MapKept
                { (withSc (fun sc => { sc with map := changeMap change s.sc.map }) u).sc with relocation := none }
                (withSc (fun sc => { sc with map := changeMap change s.sc.map }) u).medium := by
              refine ⟨hmap, k1.first, k1.second, ?_, fun _ e => by simp at e, ?_, ?_⟩
              · intro b hb
                exact inUse_changeMap (h.queued b (huw ▸ hb)) hi
              · intro q e hst
                have e' : s.sc.recovery = some q := hur ▸ e
                obtain ⟨g1, g2, g3⟩ := h.recovery q e' hst
                refine ⟨recovery_through h.rule g1 ht hc, ?_, fun _ e => by simp at e⟩
                have hne := g3 r hr
                rcases hc with rfl | rfl
                · show ((s.sc.map.states.set r.block .retired).set r.target .mapped)[q.target]? = _
                  have hbt : r.block ≠ q.target := fun e => hb.2 (e ▸ g2)
                  rw [List.getElem?_set_ne hne, List.getElem?_set_ne hbt]; exact g2
                · show (s.sc.map.states.set r.target .retired)[q.target]? = _
                  rw [List.getElem?_set_ne hne]; exact g2
              · intro p e
                have e' : u.sc.port = some p := e
                rw [hup] at e'; cases e'
            dsimp only
            unfold relocatorMapped
            rw [show (withSc (fun sc => { sc with map := changeMap change s.sc.map }) u).sc.relocation = some r
              from hru]
            rcases hc with rfl | rfl
            · exact kept
            · exact restartRelocation_kept kept (.inl hup) _ (inUse_changeMap hb hi)
          · rcases change with _ | _ | _
            · exact absurd rfl hi
            · exact hpf.elim
            · exact hpf.elim
    · -- failure
      have k := writeMapCopy_kept h hmap (Config.freeBit s.freeCount) s.sc.mapRetry
      have k1 : MapKept (withSc (fun sc => { sc with mapRetry := some (mapSide sc.mapRetry s.medium) }) { s with
          medium := writeMapCopy (changeMap change s.sc.map) (Config.freeBit s.freeCount) s.sc.mapRetry s.medium
          freeCount := s.freeCount + 1 }).sc _ :=
        k.same (s := { s with
          medium := writeMapCopy (changeMap change s.sc.map) (Config.freeBit s.freeCount) s.sc.mapRetry s.medium
          freeCount := s.freeCount + 1 })
          (withSc_same (fun sc => { sc with mapRetry := some (mapSide sc.mapRetry s.medium) }) _ rfl rfl rfl rfl
            (.inr ⟨rfl, rfl⟩))
      split
      · exact k1
      · exact k1.free
  · exact h

/-! ## Reads and replies -/

theorem queueBlock_cases (b : Nat) (sc : StoreController) :
    queueBlock b sc = sc ∨ queueBlock b sc = { sc with relocQueue := sc.relocQueue ++ [b] } := by
  unfold queueBlock
  dsimp only
  split <;> split <;> first | exact .inl rfl | exact .inr rfl

theorem queueBlock_kept {s : State} (h : MapKept s.sc s.medium) (hp : s.sc.port = none) {b : Nat}
    (hb : inUse s.sc.map b) : MapKept (withSc (queueBlock b) s).sc (withSc (queueBlock b) s).medium := by
  show MapKept (queueBlock b s.sc) s.medium
  rcases queueBlock_cases b s.sc with e | e <;> rw [e]
  · exact h
  · refine ⟨h.rule, h.first, h.second, ?_, h.relocation, h.recovery, ?_⟩
    · intro c hc
      rcases List.mem_append.mp hc with hc | hc
      · exact h.queued c hc
      · rw [List.mem_singleton.mp hc]; exact hb
    · intro p e
      have e' : s.sc.port = some p := e
      rw [hp] at e'; cases e'

theorem startTx_same (s : State) : MapSame s (startTx s) := .of_eq (by simp) (by simp)
theorem placeReply_same (r : Reply) (s : State) : MapSame s (placeReply r s) := by
  unfold placeReply
  exact (MapSame.of_eq (s := s) (t := { s with li := { s.li with replies := s.li.replies ++ [r] } }) rfl rfl).trans
    (startTx_same _)
theorem finishCommand_same (r : Reply) (s : State) : MapSame s (finishCommand r s) := by
  unfold finishCommand popCommand
  exact (placeReply_same r s).trans (.of_eq rfl rfl)
theorem placeArrivalReply_same (r : Reply) (s : State) : MapSame s (placeArrivalReply r s) := by
  unfold placeArrivalReply
  split
  · exact placeReply_same r s
  · exact raise_same _ s
theorem placeReport_same (r : ReportEntry) (s : State) : MapSame s (placeReport r s) := by
  unfold placeReport
  split
  · exact (MapSame.of_eq (s := s) (t := { s with li := { s.li with reports := s.li.reports ++ [r] } })
      rfl rfl).trans (startTx_same _)
  · exact raise_same _ s
theorem withReadOut_same (r : Option ReadOut) (s : State) : MapSame s (withReadOut r s) :=
  withSc_same _ s rfl rfl rfl rfl (.inr ⟨rfl, rfl⟩)
theorem endReadOut_same (st : Status) (r : ReadOut) (s : State) : MapSame s (endReadOut st r s) := by
  unfold endReadOut
  exact (finishCommand_same _ s).trans (withReadOut_same _ _)
theorem stopReadOut_same (st : Status) (r : ReadOut) (s : State) : MapSame s (stopReadOut st r s) :=
  endReadOut_same _ _ s
theorem turnReader_same (r : ReadOut) (s : State) : MapSame s (turnReader r s) := by
  unfold turnReader
  split
  · exact stopReadOut_same _ _ s
  · dsimp only
    split
    · split
      · exact endReadOut_same _ _ s
      · exact stopReadOut_same _ _ s
    · exact withReadOut_same _ s
theorem afterGather_same (r : ReadOut) (s : State) : MapSame s (afterGather r s) := by
  unfold afterGather
  split
  · exact endReadOut_same _ _ s
  · split
    · exact (withReadOut_same _ s).trans (placeReply_same _ _)
    · exact turnReader_same r s
theorem afterVerify_same (r : ReadOut) (s : State) : MapSame s (afterVerify r s) := by
  unfold afterVerify
  split
  · exact endReadOut_same _ _ s
  · exact turnReader_same r s

/-- READ COMPLETE keeps the map; the block it queues is in use (R152). -/
theorem readComplete_kept {s : State} (h : MapKept s.sc s.medium) (o : MediumOutcome) :
    MapKept (readComplete o s).sc (readComplete o s).medium := by
  unfold readComplete
  split
  · rename_i logical phys discard hport
    dsimp only
    have hu : inUse s.sc.map (phys / 16) := h.port _ hport
    have k : MapKept (freePort { s with freeCount := s.freeCount + sectionSize }).sc
      (freePort { s with freeCount := s.freeCount + sectionSize }).medium :=
      MapKept.free (s := { s with freeCount := s.freeCount + sectionSize }) h
    split
    · exact k
    · split
      · exact k
      · rename_i r hr
        generalize readSection s.medium s.freeCount phys (readOutcome s.medium phys o) = bs
        have k2 : MapKept (if readOutcome s.medium phys o = .corrected then
            withSc (queueBlock (phys / 16)) (freePort { s with freeCount := s.freeCount + sectionSize })
            else freePort { s with freeCount := s.freeCount + sectionSize }).sc
            (if readOutcome s.medium phys o = .corrected then
            withSc (queueBlock (phys / 16)) (freePort { s with freeCount := s.freeCount + sectionSize })
            else freePort { s with freeCount := s.freeCount + sectionSize }).medium := by
          split
          · exact queueBlock_kept k rfl hu
          · exact k
        split
        · exact k2.same (stopReadOut_same _ _ _)
        · split
          · exact k2.same (afterGather_same _ _)
          · exact k2.same (afterVerify_same _ _)
  · exact h

theorem readReplySent_same (s : State) : MapSame s (readReplySent s) := by
  unfold readReplySent
  split
  · split
    · exact turnReader_same _ s
    · exact .refl s
  · exact .refl s

theorem frameSent_same (s : State) : MapSame s (frameSent s) := by
  unfold frameSent
  split
  · exact .refl s
  · rename_i f hf
    dsimp only
    refine (MapSame.of_eq (s := s) (t := { s with li := { s.li with tx := none } }) rfl rfl).trans
      (MapSame.trans ?_ (startTx_same _))
    split
    · exact .refl _
    · exact readReplySent_same _
    · exact .of_eq rfl rfl

/-! ## Relocation and grants -/

theorem portFits_idle {sc : StoreController} (hn : sc.relocation = none) (hq : sc.relocQueue ≠ []) {p : PortOp}
    (h : portFits sc p) (q : List Nat) (r : Option Relocation) :
    portFits { sc with relocQueue := q, relocation := r } p := by
  obtain ⟨agent, op, d⟩ := p
  rcases op with _ | _ | _ | _ | _ | c
  rotate_right
  · rcases c with _ | _ | _
    · rcases agent with _ | _ | _ <;> exact absurd h.1 hq
    all_goals
      rcases agent with _ | _ | _
      · exact h
      · refine ⟨h.1, fun hd => ?_⟩
        obtain ⟨x, hx, _⟩ := h.2 hd
        rw [hn] at hx
        cases hx
      · exact h
  all_goals rcases agent with _ | _ | _ <;> exact h

/-- RELOCATION START keeps the map (R153). -/
theorem relocationStart_kept {s : State} (h : MapKept s.sc s.medium) :
    MapKept (relocationStart s).sc (relocationStart s).medium := by
  unfold relocationStart
  split
  · rename_i hc
    have hn : s.sc.relocation = none := by
      simp only [Bool.and_eq_true, Option.isNone_iff_eq_none] at hc
      exact hc.2
    split
    · exact h
    · rename_i block he
      have hmem : block ∈ s.sc.relocQueue := List.mem_of_find?_eq_some he
      refine restartRelocation_kept ?_ (.inr ?_) block (h.queued _ hmem)
      · refine ⟨h.rule, h.first, h.second, fun b hb => h.queued b (List.mem_filter.mp hb).1,
          fun _ e => by simp at e, ?_, ?_⟩
        · intro q e hst
          obtain ⟨g1, g2, _⟩ := h.recovery q e hst
          exact ⟨g1, g2, fun _ e => by simp at e⟩
        · intro p e
          exact portFits_idle hn (List.ne_nil_of_mem hmem) (h.port p e) _ _
      · intro p e r
        exact portFits_idle hn (List.ne_nil_of_mem hmem) (h.port p e) _ _
  · exact h

/-- The port taken by an operation that fits. -/
theorem MapKept.grant {sc : StoreController} {m : Medium} (h : MapKept sc m) (p : PortOp) (a : Agent)
    (hf : portFits sc p) : MapKept { sc with port := some p, lastGranted := a } m where
  rule := h.rule
  first := h.first
  second := h.second
  queued := h.queued
  relocation := h.relocation
  recovery := h.recovery
  port := by
    intro q e
    obtain rfl := Option.some.inj (show some p = some q from e)
    exact portFits_congr (a := sc) rfl rfl rfl rfl rfl (fun _ h => h) p hf

theorem programOp_fits (s : State) (job : SectionJob) (d : Bool) (sc : StoreController) (hm : sc.map = s.sc.map) :
    portFits sc ⟨.writer, programOp s job, d⟩ := by
  show physicalBlock sc.map (blockOf s.sc.position) =
    (physicalBlock s.sc.map (blockOf s.sc.position) * 16 + s.sc.position % 16) / 16
  rw [hm]
  omega

theorem writerOp_fits {s : State} {op : StoreOp} (ho : writerOp s = some op) (d : Bool) :
    portFits s.sc ⟨.writer, op, d⟩ := by
  unfold writerOp at ho
  split at ho
  · rename_i r hr
    obtain rfl := Option.some.inj ho
    unfold recoveryOp
    split
    · rename_i hs
      refine ⟨fun e => (by rw [hr] at e; cases e), ?_⟩
      intro q e
      rw [hr] at e
      obtain rfl := Option.some.inj e
      rw [hs]; simp
    · rename_i slot hs
      intro q e
      rw [hr] at e
      obtain rfl := Option.some.inj e
      rw [hs]; simp
    · rename_i hs
      exact ⟨r, hr, by rw [hs]; simp, .inl rfl⟩
    · rename_i hs
      exact ⟨r, hr, by rw [hs]; simp, .inr rfl⟩
    · exact programOp_fits s _ d s.sc rfl
  · rename_i hr
    split at ho
    · obtain rfl := Option.some.inj ho
      exact ⟨fun _ => rfl, fun q e => by rw [hr] at e; cases e⟩
    · split at ho
      · obtain rfl := Option.some.inj ho
        exact programOp_fits s _ d s.sc rfl
      · rcases hh : s.sc.pendingMarks.head? with _ | n
        · rw [hh] at ho; cases ho
        · rw [hh] at ho
          obtain rfl := Option.some.inj ho
          trivial

/-- What an agent asks the port for agrees with the map (R150, R154, R165). -/
theorem requestOf_fits {s : State} (h : MapKept s.sc s.medium) {a : Agent} {op : StoreOp}
    (ho : requestOf s a = some op) : portFits s.sc ⟨a, op, false⟩ := by
  cases a
  · exact writerOp_fits ho false
  · have ho' : relocatorOp s.sc = some op := ho
    unfold relocatorOp at ho'
    rcases hr : s.sc.relocation with _ | r
    · rw [hr] at ho'; cases ho'
    · rw [hr] at ho'
      obtain ⟨hb, ht⟩ := h.relocation r hr
      have hn : r.target ∉ s.sc.map.phys := h.rule.notMem ht (by decide)
      have hlt : r.target < 136 := by
        have := (List.getElem?_eq_some_iff.mp ht).1
        have := h.rule.2.1
        omega
      obtain ⟨block, target, step⟩ := r
      cases step <;> obtain rfl := Option.some.inj ho'
      · trivial
      · trivial
      · refine ⟨⟨?_, hn, hlt⟩, fun _ => ⟨_, hr, .inl rfl⟩⟩
        by_cases hm : block ∈ s.sc.map.phys
        · left
          obtain ⟨i, hi, e⟩ := List.getElem_of_mem hm
          have hpi : physicalBlock s.sc.map i = block := by simp [physicalBlock, hi, e]
          rw [logicalOf_spec h.rule hpi (h.rule.lt hm)]
          exact hpi
        · exact .inr hm
      · exact ⟨hn, fun _ => ⟨_, hr, .inr rfl⟩⟩
  · have ho' : readerOp s.sc = some op := ho
    unfold readerOp at ho'
    rcases hr : s.sc.readOut.bind (·.asking) with _ | l
    · rw [hr] at ho'; cases ho'
    · rw [hr] at ho'
      obtain rfl := Option.some.inj ho'
      show inUse s.sc.map ((physicalBlock s.sc.map (blockOf l) * 16 + l % 16) / 16)
      have : (physicalBlock s.sc.map (blockOf l) * 16 + l % 16) / 16 = physicalBlock s.sc.map (blockOf l) := by omega
      rw [this]
      exact h.rule.inUse_phys _

/-- STORE GRANT keeps the map. -/
theorem execStoreGrant_kept {s t : State} (h : MapKept s.sc s.medium) (ht : execStoreGrant s = .next t) :
    MapKept t.sc t.medium := by
  unfold execStoreGrant at ht
  split at ht
  · cases ht; exact h
  · split at ht
    · cases ht; exact h
    · split at ht
      · cases ht; exact h
      · rename_i op ho
        split at ht
        · cases ht
        · cases ht
          exact h.grant _ _ (requestOf_fits h ho)

/-! ## RESTART, power and the rebuild -/

theorem restartStore_kept {sc : StoreController} {m : Medium} (h : MapKept sc m) : MapKept (restartStore sc) m := by
  unfold restartStore
  refine MapKept.abandon ⟨h.rule, h.first, h.second, h.queued, h.relocation, h.recovery, ?_⟩
  intro p e
  rcases hport : sc.port with _ | p0
  · simp [hport] at e
  · simp only [hport, Option.map_some] at e
    obtain rfl := Option.some.inj e
    have hp := h.port p0 hport
    obtain ⟨agent, op, d⟩ := p0
    cases agent <;> cases op <;> simp_all [portFits, eraseTarget]
    all_goals
      rename_i c
      cases c <;> simp_all

theorem restartRecord_same (s : State) : MapSame s (restartRecord s) := by
  unfold restartRecord
  split
  · exact .refl s
  · dsimp only
    split
    · exact truncateOpen_same _ _ s
    · exact (truncateOpen_same _ _ s).trans (closeWithoutTrailer_same _)

/-- RESTART keeps the map (R155). -/
theorem acceptRestart_kept {s : State} (h : MapKept s.sc s.medium) (tag : Byte) :
    MapKept (acceptRestart tag s).sc (acceptRestart tag s).medium := by
  unfold acceptRestart
  have k := restartStore_kept h
  exact MapKept.same (s := { s with
      li := restartLink tag s.pm.saving s.li
      cx := { s.cx with mode := .startup, loadEnded := false, rebuildEnded := false }
      co := { s.co with trucks := s.co.trucks.map withdrawOutput }
      sc := restartStore s.sc }) k ((restartRecord_same _).trans (startTx_same _))

theorem mapAtPowerOn_rule {m : Medium} (h1 : m.copy1.valid = true → mapRule m.copy1.map)
    (h2 : m.copy2.valid = true → mapRule m.copy2.map) : mapRule (mapAtPowerOn m) := by
  unfold mapAtPowerOn newestIsSecond
  split
  · rename_i h
    simp only [Bool.and_eq_true] at h
    exact h2 h.1
  · split
    · rename_i h
      exact h1 h
    · exact mapRule_initialMap

/-- Power-on loads a map that keeps R139. -/
theorem powerUp_kept {s : State} (h1 : s.medium.copy1.valid = true → mapRule s.medium.copy1.map)
    (h2 : s.medium.copy2.valid = true → mapRule s.medium.copy2.map) :
    MapKept (powerUp s).sc (powerUp s).medium := by
  refine ⟨mapAtPowerOn_rule h1 h2, h1, h2, ?_, ?_, ?_, ?_⟩
  · intro b hb; exact absurd hb (List.not_mem_nil (a := b))
  · intro r e; cases (show (none : Option Relocation) = some r from e)
  · intro r e; cases (show (none : Option Recovery) = some r from e)
  intro p e
  have e' : portAtPowerOn s.medium = some p := e
  unfold portAtPowerOn at e'
  split at e'
  · cases e'
  · cases e'
    exact ⟨rfl, rfl, rfl⟩

/-- Loss of power keeps the map copies. -/
theorem powerLoss_kept {s : State} (h : MapKept s.sc s.medium) :
    MapKept (powerLoss s).sc (powerLoss s).medium := by
  unfold powerLoss
  dsimp only
  split
  · exact h
  · rename_i p hp
    show MapKept s.sc (cutShort s.sc.map s.sc.mapRetry s.freeCount p.op s.medium)
    obtain ⟨agent, op, d⟩ := p
    cases op with
    | erase b => exact h.bytes (spoilBlock_copies _ _).1 (spoilBlock_copies _ _).2
    | program _ _ _ _ => exact h.bytes rfl rfl
    | mark n ps => exact h.bytes (markStore_copies _ _ _ _).1 (markStore_copies _ _ _ _).2
    | read _ _ => exact h
    | copy a b =>
      show MapKept s.sc (if isErased s.medium a then s.medium else spoilSection s.medium b)
      split
      · exact h
      · exact h.bytes rfl rfl
    | mapWrite c => exact writeMapCopy_kept h (mapRule_changeMap h.rule (h.portChange hp)) _ _

/-! ## The port after a completion -/

theorem examine_port {s : State} (h : s.sc.port = none) : (examine s).sc.port = none := by
  have hk := abandonRelocationOf_port (physicalBlock s.sc.map (eraseTarget s.sc)) h
  unfold examine
  dsimp only
  split
  · exact hk
  · rw [(beginStoreFull_same _).port]; exact hk

theorem enterBlock_port {s : State} (h : s.sc.port = none) : (enterBlock s).sc.port = none := by
  unfold enterBlock
  dsimp only
  split
  · exact examine_port h
  · exact h

theorem advancePosition_port {s : State} (h : s.sc.port = none) : (advancePosition s).sc.port = none := by
  unfold advancePosition
  dsimp only
  split
  · exact h
  · split
    · exact enterBlock_port h
    · split
      · rw [(closeWithoutTrailer_same _).port]; exact h
      · exact h

theorem wearOut_port (job : SectionJob) {s : State} (h : s.sc.port = none) : (wearOut job s).sc.port = none := by
  unfold wearOut
  dsimp only
  split
  · refine enterBlock_port ?_
    show (if _ then _ else _ : State).sc.port = none
    split
    · rw [(truncateOpen_same _ _ _).port]; exact h
    · exact h
  · refine examine_port ?_
    rw [(beginStoreFull_same _).port]
    split
    · rw [(truncateStoreFull_same _).port]; exact h
    · exact h

theorem beginRecovery_port (job : Option SectionJob) (l n f : Nat) {s : State} (h : s.sc.port = none) :
    (beginRecovery job l n f s).sc.port = none := by
  unfold beginRecovery
  split
  · rename_i b sc he
    have : sc.port = s.sc.port := by
      unfold takeTarget at he
      rcases hl : lowestSpare s.sc.map with _ | b <;> simp only [hl] at he
      · obtain ⟨r, -, hr⟩ := Option.map_eq_some_iff.mp he
        obtain ⟨-, rfl⟩ := Prod.mk.inj hr
        rfl
      · obtain ⟨-, rfl⟩ := Prod.mk.inj (Option.some.inj he); rfl
    exact this.trans h
  · split
    · exact wearOut_port _ h
    · exact (beginStoreFull_same _).port.trans h

theorem eraseAheadDone_port {s : State} (h : s.sc.port = none) : (eraseAheadDone s).sc.port = none := by
  unfold eraseAheadDone
  dsimp only
  split
  · exact h
  · split
    · exact h
    · exact enterBlock_port h
  · exact enterBlock_port h

theorem writerErased_port (ok : Bool) (b : Nat) {s : State} (h : s.sc.port = none) :
    (writerErased ok b s).sc.port = none := by
  unfold writerErased
  split
  · split <;> exact h
  · split
    · exact eraseAheadDone_port (abandonRelocationOf_port b h)
    · exact beginRecovery_port _ _ _ _ h

theorem writerCopied_port (ok : Bool) {s : State} (h : s.sc.port = none) : (writerCopied ok s).sc.port = none := by
  unfold writerCopied
  split
  · split
    · split <;> exact h
    · exact h
  · exact h

theorem writerMapped_port (c : MapChange) {s : State} (h : s.sc.port = none) :
    (writerMapped c s).sc.port = none := by
  unfold writerMapped
  split
  · dsimp only
    split
    · exact abandonRelocationOf_port _ h
    · exact eraseAheadDone_port (abandonRelocationOf_port _ h)
  · exact beginRecovery_port _ _ _ _ h
  · exact h

/-- An operation of the rebuild leaves the port free at its completion (R157), but for the write of the initial map,
which is repeated while it fails (R139). -/
theorem runOp_port {op : StoreOp} (ho : op ≠ .mapWrite .initial) (report : MediumOutcome × Bool) (s : State) :
    (runOp op report s).sc.port = none := by
  cases op with
  | erase b => exact writerErased_port report.2 b rfl
  | program job l p bs =>
    simp only [runOp, programComplete, withSc]
    split
    · exact advancePosition_port ((sectionDone_port _ _ _).trans rfl)
    · exact beginRecovery_port _ _ _ _ rfl
  | mark n ps => rfl
  | read l p => rfl
  | copy a b => exact writerCopied_port _ rfl
  | mapWrite c =>
    simp only [runOp, mapWriteComplete, withSc]
    split
    · exact writerMapped_port c rfl
    · rw [if_neg (fun e => ho (by rw [e]))]
      rfl

theorem writerOp_ne_initial {s : State} {op : StoreOp} (h : writerOp s = some op) : op ≠ .mapWrite .initial := by
  rintro rfl
  unfold writerOp at h
  split at h
  · rename_i r hr
    have h := Option.some.inj h
    unfold recoveryOp programOp at h
    split at h <;> cases h
  · split at h
    · cases h
    · split at h
      · cases h
      · obtain ⟨n, -, hn⟩ := Option.map_eq_some_iff.mp h
        cases hn

theorem settle_port : ∀ (fuel : Nat) (results : List (MediumOutcome × Bool)) (s : State),
    s.sc.port = none → (settle fuel results s).1.sc.port = none
  | 0, _, _, h => h
  | fuel + 1, results, s, h => by
    unfold settle
    split
    · exact h
    · rename_i op ho
      exact settle_port fuel _ _ (runOp_port (writerOp_ne_initial ho) _ s)

/-! ## What the rebuild keeps -/

theorem runOp_kept {s : State} (h : MapKept s.sc s.medium) {op : StoreOp} (ho : writerOp s = some op)
    (r : MediumOutcome × Bool) : MapKept (runOp op r s).sc (runOp op r s).medium := by
  unfold runOp
  dsimp only
  have k : MapKept (withSc (fun sc => { sc with port := some ⟨.writer, op, false⟩ }) s).sc
      (withSc (fun sc => { sc with port := some ⟨.writer, op, false⟩ }) s).medium :=
    h.grant _ _ (writerOp_fits ho false)
  cases op
  · exact eraseComplete_kept k _
  · exact programComplete_kept k _
  · exact markComplete_kept k _
  · exact k.free
  · exact copyComplete_kept k _ _
  · exact mapWriteComplete_kept k _

theorem settle_kept : ∀ (fuel : Nat) (results : List (MediumOutcome × Bool)) (s : State),
    MapKept s.sc s.medium → MapKept (settle fuel results s).1.sc (settle fuel results s).1.medium
  | 0, _, _, h => h
  | fuel + 1, results, s, h => by
    unfold settle
    split
    · exact h
    · rename_i op ho
      exact settle_kept fuel _ _ (runOp_kept h ho _)

theorem clearSeat_kept {x : State × List (MediumOutcome × Bool)} (h : MapKept x.1.sc x.1.medium) :
    MapKept (clearSeat x).1.sc (clearSeat x).1.medium := by
  unfold clearSeat
  dsimp only
  have k : MapKept (if x.1.sc.seat = .unerased ∧ x.1.sc.eraseAhead ≠ .due true ∧ !x.1.sc.storeFull then
      examine x.1 else x.1).sc
      (if x.1.sc.seat = .unerased ∧ x.1.sc.eraseAhead ≠ .due true ∧ !x.1.sc.storeFull then
      examine x.1 else x.1).medium := by
    split
    · exact examine_kept h
    · exact h
  generalize (if x.1.sc.seat = .unerased ∧ x.1.sc.eraseAhead ≠ .due true ∧ !x.1.sc.storeFull then
      examine x.1 else x.1) = t at k ⊢
  have k2 := settle_kept (settleFuel x.2) x.2 t k
  generalize settle (settleFuel x.2) x.2 t = r at k2 ⊢
  split
  · exact k2
  · exact k2.same (withSc_same (fun sc => { sc with rebuildTrailer := none }) _ rfl rfl rfl rfl (.inr ⟨rfl, rfl⟩))

theorem clearSeat_port {x : State × List (MediumOutcome × Bool)} (h : x.1.sc.port = none) :
    (clearSeat x).1.sc.port = none := by
  have key : ∀ t : State, t.sc.port = none →
      (if (settle (settleFuel x.2) x.2 t).1.sc.seat = .normal then settle (settleFuel x.2) x.2 t
        else (withSc (fun sc => { sc with rebuildTrailer := none }) (settle (settleFuel x.2) x.2 t).1,
          (settle (settleFuel x.2) x.2 t).2)).1.sc.port = none := by
    intro t ht
    split
    · exact settle_port _ _ _ ht
    · exact settle_port _ _ _ ht
  refine key _ ?_
  split
  · exact examine_port h
  · exact h

theorem eraseAheadNow_kept {x : State × List (MediumOutcome × Bool)} (h : MapKept x.1.sc x.1.medium) :
    MapKept (eraseAheadNow x).1.sc (eraseAheadNow x).1.medium := settle_kept _ _ _ (examine_kept h)

/-- The erase-ahead of the rebuild keeps the map, also where its own block is set aside meanwhile (R159). -/
theorem eraseAheadStep_kept {x : State × List (MediumOutcome × Bool)} (h : MapKept x.1.sc x.1.medium)
    (hp : x.1.sc.port = none) : MapKept (eraseAheadStep x).1.sc (eraseAheadStep x).1.medium := by
  unfold eraseAheadStep
  split
  · have k := h.same (withSc_same seatAside x.1 rfl rfl rfl rfl (.inl hp))
    have kp : (eraseAheadNow (withSc seatAside x.1, x.2)).1.sc.port = none := settle_port _ _ _ (examine_port hp)
    exact (eraseAheadNow_kept (x := (withSc seatAside x.1, x.2)) k).same
      (withSc_same seatAwaits _ rfl rfl rfl rfl (.inl kp))
  · exact eraseAheadNow_kept h

theorem queueFold_kept (l : List Nat) : ∀ (s : State), MapKept s.sc s.medium → s.sc.port = none →
    MapKept (l.foldl (fun sc a => queueBlock (physicalBlock sc.map (blockOf a)) sc) s.sc) s.medium ∧
    (l.foldl (fun sc a => queueBlock (physicalBlock sc.map (blockOf a)) sc) s.sc).port = none := by
  induction l with
  | nil => exact fun s h hp => ⟨h, hp⟩
  | cons a l ih =>
    intro s h hp
    have k := queueBlock_kept h hp (h.rule.inUse_phys (blockOf a))
    refine ih (withSc (queueBlock (physicalBlock s.sc.map (blockOf a))) s) k ?_
    show (queueBlock _ s.sc).port = none
    rcases queueBlock_cases (physicalBlock s.sc.map (blockOf a)) s.sc with e | e <;> rw [e] <;> exact hp

/-- The rebuild keeps the map (R159). -/
theorem rebuild_kept {s : State} (h : MapKept s.sc s.medium) (hp : s.sc.port = none)
    (reads : List (Nat × MediumOutcome)) (results : List (MediumOutcome × Bool)) :
    MapKept (rebuild reads results s).sc (rebuild reads results s).medium := by
  unfold rebuild
  dsimp only
  generalize weakSections reads (scanStore reads s) = l
  obtain ⟨k, kp⟩ := queueFold_kept l s h hp
  generalize s.freeCount + 2048 * sectionSize = n
  generalize hu : ({ s with
    freeCount := n
    sc := l.foldl (fun sc a => queueBlock (physicalBlock sc.map (blockOf a)) sc) s.sc } : State) = u
  have ku : MapKept u.sc u.medium := by subst hu; exact k
  have kup : u.sc.port = none := by subst hu; exact kp
  unfold endSteps
  have kw : MapSame u (withSc (placeWriter (scanStore reads s) (keepNewest [] (newestFirst
      (candidates (scanStore reads s))))) u) := by
    refine withSc_same _ u ?_ ?_ ?_ ?_ (.inl kup) ?_ <;>
      (unfold placeWriter; split <;> first | rfl | exact fun _ h => h)
  have kwp := kw.port.trans kup
  exact eraseAheadStep_kept (clearSeat_kept (clearSeat_kept (ku.same kw))) (clearSeat_port (clearSeat_port kwp))

/-! ## Commands -/

/-- RELEASE INCIDENT keeps the map. -/
theorem releaseIncident_kept (c : Command) {s : State} (h : MapKept s.sc s.medium) :
    MapKept (releaseIncident c s).sc (releaseIncident c s).medium := by
  have hx : ∀ {t : State}, MapKept t.sc t.medium → MapKept (reexamine t).sc (reexamine t).medium := by
    intro t k
    unfold reexamine
    split
    · exact examine_kept k
    · exact k
  unfold releaseIncident
  split
  · exact h.same (finishCommand_same _ s)
  · split
    · exact h.same (finishCommand_same _ s)
    · exact hx ((h.same (withSc_same _ s rfl rfl rfl rfl (.inr ⟨rfl, rfl⟩))).same (finishCommand_same _ _))
    · exact hx (h.same (finishCommand_same _ s))

/-- A queued command keeps the map where its rule does. -/
theorem takeCommand_kept {kind : Byte} {len : Nat} {rule : Command → State → State} {s : State}
    (h : MapKept s.sc s.medium) (hr : ∀ c, MapKept (rule c s).sc (rule c s).medium) :
    MapKept (takeCommand kind len rule s).sc (takeCommand kind len rule s).medium := by
  unfold takeCommand
  split
  · exact h
  · split
    · split
      · exact hr _
      · exact h.same (finishCommand_same _ s)
    · exact h

theorem openEntry_same (p : Bool) (s : State) : MapSame s (withSc (openEntry p) s) := by
  have hm : makeRoom s.sc = { s.sc with
      directory := (makeRoom s.sc).directory, pendingMarks := (makeRoom s.sc).pendingMarks } := by
    unfold makeRoom
    split
    · rfl
    · split <;> rfl
  refine withSc_same _ s ?_ ?_ ?_ ?_ (.inr ⟨?_, ?_⟩) ?_ <;>
    (show _ ; unfold openEntry; dsimp only; rw [hm]) <;> first | rfl | exact fun _ h => h

/-- A capture leaves the map alone. -/
theorem capture_same (s : State) : MapSame s (capture s) := by
  have hfire : ∀ (n : Nat) (e : TriggerEntry) (w : Word32) (t : State), MapSame t (fireEntry n e w t) := by
    intro n e w t
    unfold fireEntry
    split
    · unfold openRecord
      split
      · exact (openEntry_same _ t).trans (withCu_same _ _)
      · exact (withCu_same _ t).trans (raise_same _ _)
    · split
      · exact (withCu_same _ t).trans (onFilling_same _ _)
      · exact (withCu_same _ t).trans (raise_same _ _)
  have hents : ∀ (w : Word32) (es : List TriggerEntry) (n : Nat) (ps : List Bool) (t : State),
      MapSame t (evalEntries w n es ps t).1 := by
    intro w es
    induction es with
    | nil => intro n ps t; cases ps <;> exact .refl t
    | cons e es ih =>
      intro n ps t
      cases ps with
      | nil => exact .refl t
      | cons p ps =>
        refine MapSame.trans ?_ (ih (n + 1) ps _)
        unfold evalEntry
        split
        · exact .refl t
        · dsimp only
          split
          · exact hfire _ _ _ t
          · exact .refl t
  unfold capture
  split
  · exact ((withCu_same _ s).trans (hents _ _ _ _ _)).trans (withCu_same _ _)
  · exact .refl s

end Sys2Proof.Machine
end

