-- ==== Sys2Proof/Laws/Bytes.lean ====
section
/-! SUPPORT. The byte layouts: what a field read back at its place gives. A layout unfolded (by `rw`, before `simp`) is
read field by field by `simp` with `fieldAt_append_left` and `fieldAt_append_right`. -/

namespace Sys2Proof.Machine

/-- A field beyond a prefix is read in what follows the prefix. -/
theorem fieldAt_append_right {xs ys : List Byte} {i n : Nat} (h : xs.length ≤ i) :
    fieldAt (xs ++ ys) i n = fieldAt ys (i - xs.length) n := by
  simp [fieldAt, List.drop_append, List.drop_eq_nil_of_le h]

/-- A field within a prefix is read in the prefix. -/
theorem fieldAt_append_left {xs ys : List Byte} {i n : Nat} (h : i + n ≤ xs.length) :
    fieldAt (xs ++ ys) i n = fieldAt xs i n := by
  simp only [fieldAt]
  congr 1
  rw [List.drop_append_of_le_length (by omega), List.take_append_of_le_length (by simp; omega)]

@[simp] theorem fieldAt_le8 (n : Nat) : fieldAt (le8 n) 0 1 = n % 256 := by simp [fieldAt, le8, leValue]

@[simp] theorem fieldAt_le16 (n : Nat) : fieldAt (le16 n) 0 2 = n % 65536 := by
  simp only [fieldAt, le16, leValue, List.drop_zero, List.take, BitVec.toNat_ofNat]; omega

@[simp] theorem fieldAt_le32 (n : Nat) : fieldAt (le32 n) 0 4 = n % 4294967296 := by
  simp only [fieldAt, le32, leValue, List.drop_zero, List.take, BitVec.toNat_ofNat]; omega

@[simp] theorem fieldAt_flagByte (b : Bool) : fieldAt (flagByte b) 0 1 = b.toNat := by cases b <;> rfl

@[simp] theorem fieldAt_byte (b : Byte) : fieldAt [b] 0 1 = b.toNat := by simp [fieldAt, leValue]

@[simp] theorem fieldsAt_nil (bs : List Byte) : fieldsAt bs [] = [] := rfl

@[simp] theorem fieldsAt_cons (bs : List Byte) (q : Nat × Nat) (places : List (Nat × Nat)) :
    fieldsAt bs (q :: places) = fieldAt bs q.1 q.2 :: fieldsAt bs places := rfl

/-! ## Codes fit their bytes -/

@[simp] theorem corrCode_fits (c : CorrState) : corrCode c % 256 = corrCode c := by cases c <;> rfl
@[simp] theorem modeCode_fits (m : Mode) : modeCode m % 256 = modeCode m := by cases m <;> rfl
@[simp] theorem outputCode_fits (m : OutputMode) : outputCode m % 256 = outputCode m := by cases m <;> rfl
@[simp] theorem sensorCode_fits (x : SensorState) : sensorCode x % 256 = sensorCode x := by cases x <;> rfl
@[simp] theorem recordCode_fits (x : RecordState) : recordCode x % 256 = recordCode x := by cases x <;> rfl
@[simp] theorem endCode_fits (x : EndReason) : endCode x % 256 = endCode x := by cases x <;> rfl

@[simp] theorem word32_fits (w : Word32) : w.toNat % 4294967296 = w.toNat := Nat.mod_eq_of_lt w.isLt
@[simp] theorem word16_fits (w : Word16) : w.toNat % 65536 = w.toNat := Nat.mod_eq_of_lt w.isLt

/-! ## Runs of items of one length, and sections -/

theorem length_flatMap_const {α : Type} {f : α → List Byte} {w : Nat} (hf : ∀ e, (f e).length = w) (l : List α) :
    (l.flatMap f).length = w * l.length := by
  induction l with
  | nil => rfl
  | cons a l ih => rw [List.flatMap_cons, List.length_append, hf, ih, List.length_cons, Nat.mul_succ]; omega

/-- A field of the item at place `k` of a run of items of `w` bytes. -/
theorem fieldAt_flatMap {α : Type} {f : α → List Byte} {w : Nat} (hf : ∀ e, (f e).length = w) {k : Nat} {l : List α}
    {e : α} (h : l[k]? = some e) {i n : Nat} (hi : i + n ≤ w) :
    fieldAt (l.flatMap f) (w * k + i) n = fieldAt (f e) i n := by
  induction l generalizing k with
  | nil => simp at h
  | cons a l ih =>
    cases k with
    | zero =>
      obtain rfl : a = e := by simpa using h
      rw [List.flatMap_cons, fieldAt_append_left (by rw [hf]; omega), Nat.mul_zero, Nat.zero_add]
    | succ k =>
      have h' : l[k]? = some e := by simpa using h
      have e1 : w * (k + 1) + i - w = w * k + i := by rw [Nat.mul_add, Nat.mul_one]; omega
      rw [List.flatMap_cons, fieldAt_append_right (by rw [hf, Nat.mul_add]; omega), hf, e1, ih h']

theorem length_framePlace (f : Frame) (i : Nat) : (framePlace f i).length = 56 := by
  simp [framePlace, PerAxle.toList]

theorem length_itemBytes (x : TriggerItem) : (itemBytes x).length = 7 := by simp [itemBytes]

theorem length_padTo (n : Nat) (bs : List Byte) : (padTo n bs).length = max n bs.length := by
  simp only [padTo, List.length_append, List.length_replicate]; omega

/-- A section (8.2.1): its 10 common bytes, its body, 00h up to byte 507, and the checkword over bytes 0 to 507. -/
theorem sectionOf_parts (kind : Nat) (protect : Bool) (number index addr frames : Nat) {body : List Byte}
    (hb : body.length ≤ 498) :
    let bs := sectionOf kind protect number index addr frames body
    bs = (le8 kind ++ flagByte protect ++ le16 number ++ le16 index ++ le16 addr ++ le16 frames) ++
      (body ++ (List.replicate (498 - body.length) 0 ++ le16 (crc16 (bs.take 508)).toNat)) := by
  intro bs
  generalize hpre : le8 kind ++ flagByte protect ++ le16 number ++ le16 index ++ le16 addr ++ le16 frames = pre
  have hlen : pre.length = 10 := by rw [← hpre]; rfl
  have hbs : bs = padTo 508 (pre ++ body) ++ le16 (crc16 (padTo 508 (pre ++ body))).toNat := by
    rw [← hpre]; rfl
  have hfl : (padTo 508 (pre ++ body)).length = 508 := by
    rw [length_padTo, List.length_append, hlen]; omega
  have htk : bs.take 508 = padTo 508 (pre ++ body) := by
    rw [hbs, List.take_append_of_le_length (by omega), List.take_of_length_le (by omega)]
  rw [htk, hbs]
  generalize crc16 (padTo 508 (pre ++ body)) = z
  have hn : 508 - (pre ++ body).length = 498 - body.length := by rw [List.length_append, hlen]; omega
  simp only [padTo, hn, List.append_assoc]

end Sys2Proof.Machine
end

