-- ==== Sys2Proof/Laws/Store.lean ====
section
/-! SUPPORT. The store's bytes: its canonical form, and that every operation keeps it; what a byte reads
after each operation. -/

namespace Sys2Proof.Machine

/-- The canonical form as a relation between the cells. -/
theorem cellsCanonical_iff (l : List Host.Cell) :
    cellsCanonical l = true ↔ l.Pairwise (fun c d => c.1 < d.1) ∧ ∀ c ∈ l, c.2 ≠ erasedByte := by
  induction l with
  | nil => simp [cellsCanonical]
  | cons c l ih =>
    cases l with
    | nil => simp [cellsCanonical]
    | cons d rest =>
      simp only [cellsCanonical, Bool.and_eq_true, bne_iff_ne, decide_eq_true_eq, ih,
        List.pairwise_cons, List.mem_cons, forall_eq_or_imp]
      constructor
      · rintro ⟨⟨hc, hcd⟩, ⟨hd, hp⟩, hde, hr⟩
        exact ⟨⟨⟨hcd, fun e he => Nat.lt_trans hcd (hd e he)⟩, hd, hp⟩, hc, hde, hr⟩
      · rintro ⟨⟨⟨hcd, _⟩, hd, hp⟩, hc, hde, hr⟩
        exact ⟨⟨hc, hcd⟩, ⟨hd, hp⟩, hde, hr⟩

/-- The cells of a run lie in the run, rise, and are not FFh. -/
theorem mem_cellsFrom {bs : List Byte} {a : Nat} {c : Host.Cell} (h : c ∈ cellsFrom a bs) :
    a ≤ c.1 ∧ c.1 < a + bs.length ∧ c.2 ≠ erasedByte := by
  induction bs generalizing a with
  | nil => simp [cellsFrom] at h
  | cons b bs ih =>
    simp only [cellsFrom] at h
    split at h
    · have := ih h
      exact ⟨by omega, by simp only [List.length_cons]; omega, this.2.2⟩
    · rcases List.mem_cons.1 h with h | h
      · subst h; exact ⟨by simp, by simp, by assumption⟩
      · have := ih h
        exact ⟨by omega, by simp only [List.length_cons]; omega, this.2.2⟩

theorem cellsFrom_rise (bs : List Byte) (a : Nat) :
    (cellsFrom a bs).Pairwise (fun c d => c.1 < d.1) := by
  induction bs generalizing a with
  | nil => simp [cellsFrom]
  | cons b bs ih =>
    simp only [cellsFrom]
    split
    · exact ih _
    · exact List.pairwise_cons.2 ⟨fun c hc => by have := mem_cellsFrom hc; simp; omega, ih _⟩

/-- Writing a run keeps the canonical form. -/
theorem cellsCanonical_writeRun {cells : List Host.Cell} (a : Nat) (bs : List Byte)
    (h : cellsCanonical cells = true) : cellsCanonical (writeRun cells a bs) = true := by
  rw [cellsCanonical_iff] at h ⊢
  refine ⟨?_, ?_⟩
  · simp only [writeRun, List.pairwise_append, List.mem_append, List.mem_filter, decide_eq_true_eq]
    refine ⟨⟨h.1.filter _, cellsFrom_rise _ _, ?_⟩, h.1.filter _, ?_⟩
    · intro c hc d hd; have := mem_cellsFrom hd; omega
    · rintro c (hc | hc) d hd
      · omega
      · have := mem_cellsFrom hc; omega
  · simp only [writeRun, List.mem_append, List.mem_filter]
    rintro c ((hc | hc) | hc)
    · exact h.2 c hc.1
    · exact (mem_cellsFrom hc).2.2
    · exact h.2 c hc.1

/-- Clearing a run keeps the canonical form. -/
theorem cellsCanonical_clearRun {cells : List Host.Cell} (a n : Nat)
    (h : cellsCanonical cells = true) : cellsCanonical (clearRun cells a n) = true := by
  rw [cellsCanonical_iff] at h ⊢
  refine ⟨h.1.filter _, fun c hc => h.2 c (List.mem_filter.1 hc).1⟩

theorem medium_wf_iff (m : Medium) :
    m.wf = true ↔ cellsCanonical m.cells = true ∧ ∀ c ∈ m.cells, c.1 < storeBytes := by
  simp [Medium.wf]

/-- A section's program keeps the store well formed. -/
theorem programSection_wf {m : Medium} (phys : Nat) (bs : List Byte) (h : m.wf = true) :
    (programSection m phys bs).wf = true := by
  unfold programSection
  split
  · rename_i hp
    rw [medium_wf_iff] at h ⊢
    refine ⟨cellsCanonical_writeRun _ _ h.1, ?_⟩
    simp only [writeRun, List.mem_append, List.mem_filter]
    rintro c ((hc | hc) | hc)
    · exact h.2 c hc.1
    · have h1 := mem_cellsFrom hc
      have h2 : (bs.take 510).length ≤ 510 := List.length_take_le _ _
      simp only [sectionSize, storeBytes] at *; omega
    · exact h.2 c hc.1
  · exact h

/-- A byte's write keeps the store well formed. -/
theorem writeStoreByte_wf {m : Medium} (a : Nat) (b : Byte) (h : m.wf = true) :
    (writeStoreByte m a b).wf = true := by
  unfold writeStoreByte
  split
  · rw [medium_wf_iff] at h ⊢
    refine ⟨cellsCanonical_writeRun _ _ h.1, ?_⟩
    simp only [writeRun, List.mem_append, List.mem_filter]
    rintro c ((hc | hc) | hc)
    · exact h.2 c hc.1
    · have h1 := mem_cellsFrom hc
      simp only [List.length_cons, List.length_nil] at h1; omega
    · exact h.2 c hc.1
  · exact h

/-- An erase keeps the store well formed. -/
theorem eraseBlock_wf {m : Medium} (b : Nat) (h : m.wf = true) : (eraseBlock m b).wf = true := by
  rw [medium_wf_iff] at h ⊢
  exact ⟨cellsCanonical_clearRun _ _ h.1, fun c hc => h.2 c (List.mem_filter.1 hc).1⟩

theorem spoilSection_cells (m : Medium) (p : Nat) : (spoilSection m p).cells = m.cells := rfl

theorem spoilSection_wf {m : Medium} (p : Nat) (h : m.wf = true) : (spoilSection m p).wf = true := h

theorem spoilFold_cells (f : Nat → Nat) (l : List Nat) (m : Medium) :
    (l.foldl (fun m i => spoilSection m (f i)) m).cells = m.cells := by
  induction l generalizing m with
  | nil => rfl
  | cons i l ih => simp [ih, spoilSection_cells]

/-- A failed erase leaves the bytes listed as they were. -/
theorem spoilBlock_cells (m : Medium) (b : Nat) : (spoilBlock m b).cells = m.cells :=
  spoilFold_cells _ _ _

theorem spoilBlock_wf {m : Medium} (b : Nat) (h : m.wf = true) : (spoilBlock m b).wf = true := by
  rw [medium_wf_iff] at h ⊢; rw [spoilBlock_cells]; exact h

/-- Mark programs keep the store well formed. -/
theorem markStore_wf (ok : Bool) (ps : List Nat) {free : Nat} {m : Medium} (h : m.wf = true) :
    (markStore ok free m ps).wf = true := by
  induction ps generalizing free m with
  | nil => exact h
  | cons p ps ih => exact ih (writeStoreByte_wf _ _ h)

/-- A map write keeps the store well formed. -/
theorem writeMapCopy_wf (map : BlockMap) (v : Bool) (retry : Option MapSide) {m : Medium}
    (h : m.wf = true) : (writeMapCopy map v retry m).wf = true := by
  unfold writeMapCopy; split <;> exact h

theorem copySpare_wf (bs : List Byte) (dst i : Nat) {m : Medium} (h : m.wf = true) :
    (copySpare bs dst i m).wf = true := by
  unfold copySpare; split
  · exact h
  · exact writeStoreByte_wf _ _ h

/-- A copy keeps the store well formed. -/
theorem copySection_wf (o : MediumOutcome) (bs : List Byte) (src dst : Nat) {m : Medium} (h : m.wf = true) :
    (copySection o bs src dst m).wf = true := by
  unfold copySection; split
  · exact h
  · exact copySpare_wf _ _ _ (copySpare_wf _ _ _ (programSection_wf _ _ h))

/-- The store after reset is well formed. -/
theorem reset_medium_wf : State.reset.medium.wf = true := by decide

/-! ## What a byte reads -/

/-- A listed cell of canonical cells is what its address reads. -/
theorem readByte_of_mem {cells : List Host.Cell} (h : cells.Pairwise (fun c d => c.1 < d.1))
    {c : Host.Cell} (hc : c ∈ cells) : readByte cells c.1 = c.2 := by
  induction cells with
  | nil => cases hc
  | cons d l ih =>
    rcases List.mem_cons.1 hc with rfl | hc
    · simp [readByte]
    · have hlt := (List.pairwise_cons.1 h).1 c hc
      have : ¬ (d.1 == c.1) = true := by simp; omega
      have := ih (List.pairwise_cons.1 h).2 hc
      simp_all [readByte]

/-- An address no cell lists reads FFh. -/
theorem readByte_of_not_mem {cells : List Host.Cell} {a : Nat} (h : ∀ c ∈ cells, c.1 ≠ a) :
    readByte cells a = erasedByte := by
  have : cells.find? (·.1 == a) = none := by
    simp only [List.find?_eq_none, beq_iff_eq]; exact h
  simp [readByte, this]

/-- Two runs of canonical cells that list the same cell, or none, at an address read alike there. -/
theorem readByte_congr {l l' : List Host.Cell} (h : l.Pairwise (fun c d => c.1 < d.1))
    (h' : l'.Pairwise (fun c d => c.1 < d.1)) (a : Nat) (hm : ∀ b, (a, b) ∈ l ↔ (a, b) ∈ l') :
    readByte l a = readByte l' a := by
  by_cases hx : ∃ b, (a, b) ∈ l
  · obtain ⟨b, hb⟩ := hx
    exact (readByte_of_mem h hb).trans (readByte_of_mem h' ((hm b).1 hb)).symm
  · rw [readByte_of_not_mem, readByte_of_not_mem]
    · rintro ⟨x, b⟩ hb rfl; exact hx ⟨b, (hm b).2 hb⟩
    · rintro ⟨x, b⟩ hb rfl; exact hx ⟨b, hb⟩

/-- Outside a written run every byte reads as before. -/
theorem readByte_writeRun_outside {cells : List Host.Cell} (h : cellsCanonical cells = true)
    (a : Nat) (bs : List Byte) {x : Nat} (hx : x < a ∨ a + bs.length ≤ x) :
    readByte (writeRun cells a bs) x = readByte cells x := by
  have hw := (cellsCanonical_iff _).1 (cellsCanonical_writeRun a bs h)
  refine readByte_congr hw.1 ((cellsCanonical_iff _).1 h).1 x fun b => ?_
  simp only [writeRun, List.mem_append, List.mem_filter, decide_eq_true_eq]
  constructor
  · rintro ((hb | hb) | hb)
    · exact hb.1
    · have := mem_cellsFrom hb; simp only at this; omega
    · exact hb.1
  · intro hb
    rcases hx with hx | hx
    · exact .inl (.inl ⟨hb, hx⟩)
    · exact .inr ⟨hb, hx⟩

theorem mem_cellsFrom_iff (bs : List Byte) (a x : Nat) (b : Byte) :
    (x, b) ∈ cellsFrom a bs ↔ a ≤ x ∧ bs[x - a]? = some b ∧ b ≠ erasedByte := by
  induction bs generalizing a with
  | nil => simp [cellsFrom]
  | cons c bs ih =>
    simp only [cellsFrom]
    by_cases hxa : x = a
    · subst hxa
      split <;> rename_i hc
      · rw [ih]; simp only [Nat.sub_self, List.getElem?_cons_zero, Option.some.injEq]
        constructor
        · rintro ⟨h1, _⟩; omega
        · rintro ⟨_, rfl, h⟩; exact absurd hc h
      · simp only [List.mem_cons, Prod.mk.injEq, ih, Nat.sub_self, List.getElem?_cons_zero,
          Option.some.injEq, true_and]
        constructor
        · rintro (rfl | ⟨h, _⟩)
          · exact ⟨Nat.le_refl _, rfl, hc⟩
          · omega
        · rintro ⟨_, rfl, _⟩; exact .inl rfl
    · have key : (a + 1 ≤ x ∧ bs[x - (a + 1)]? = some b ∧ b ≠ erasedByte) ↔
          (a ≤ x ∧ (c :: bs)[x - a]? = some b ∧ b ≠ erasedByte) := by
        constructor
        · rintro ⟨h1, h2⟩
          have : x - a = (x - (a + 1)) + 1 := by omega
          exact ⟨by omega, by rw [this, List.getElem?_cons_succ]; exact h2⟩
        · rintro ⟨h1, h2⟩
          have : x - a = (x - (a + 1)) + 1 := by omega
          rw [this, List.getElem?_cons_succ] at h2
          exact ⟨by omega, h2⟩
      split
      · rw [ih, key]
      · simp only [List.mem_cons, Prod.mk.injEq, hxa, false_and, false_or, ih, key]

/-- Inside a written run each byte reads as written. -/
theorem readByte_writeRun_inside {cells : List Host.Cell} (h : cellsCanonical cells = true)
    (a : Nat) (bs : List Byte) {i : Nat} (hi : i < bs.length) :
    readByte (writeRun cells a bs) (a + i) = bs[i] := by
  have hw := (cellsCanonical_iff _).1 (cellsCanonical_writeRun a bs h)
  by_cases hb : bs[i] = erasedByte
  · rw [hb]
    refine readByte_of_not_mem ?_
    rintro ⟨x, b⟩ hx rfl
    simp only [writeRun, List.mem_append, List.mem_filter, decide_eq_true_eq] at hx
    rcases hx with (hx | hx) | hx
    · have := hx.2; omega
    · rw [mem_cellsFrom_iff] at hx
      obtain ⟨_, h2, h3⟩ := hx
      simp only [Nat.add_sub_cancel_left, List.getElem?_eq_getElem hi, Option.some.injEq] at h2
      exact h3 (h2 ▸ hb)
    · have := hx.2; omega
  · have hm : (a + i, bs[i]) ∈ writeRun cells a bs := by
      simp only [writeRun, List.mem_append]
      refine .inl (.inr ?_)
      rw [mem_cellsFrom_iff]
      exact ⟨by omega, by simp [List.getElem?_eq_getElem hi], hb⟩
    exact readByte_of_mem hw.1 hm

/-- Inside a cleared run every byte reads FFh. -/
theorem readByte_clearRun_inside (cells : List Host.Cell) (a n : Nat) {x : Nat}
    (hx : a ≤ x ∧ x < a + n) : readByte (clearRun cells a n) x = erasedByte := by
  refine readByte_of_not_mem ?_
  intro c hc
  simp only [clearRun, List.mem_filter, Bool.or_eq_true, decide_eq_true_eq] at hc
  omega

/-- Outside a cleared run every byte reads as before. -/
theorem readByte_clearRun_outside {cells : List Host.Cell} (h : cellsCanonical cells = true)
    (a n : Nat) {x : Nat} (hx : x < a ∨ a + n ≤ x) :
    readByte (clearRun cells a n) x = readByte cells x := by
  have hw := (cellsCanonical_iff _).1 (cellsCanonical_clearRun a n h)
  refine readByte_congr hw.1 ((cellsCanonical_iff _).1 h).1 x fun b => ?_
  simp only [clearRun, List.mem_filter, Bool.or_eq_true, decide_eq_true_eq]
  exact ⟨fun h => h.1, fun h => ⟨h, hx⟩⟩

/-- A byte that is read otherwise than FFh is listed. -/
theorem mem_of_readByte {cells : List Host.Cell} {a : Nat} (h : readByte cells a ≠ erasedByte) :
    ∃ c ∈ cells, c.1 = a := by
  unfold readByte at h
  rcases hf : cells.find? (fun c => c.1 == a) with _ | c
  · rw [hf] at h; exact absurd rfl h
  · exact ⟨c, List.mem_of_find?_eq_some hf, by simpa using List.find?_some hf⟩

/-- A section is erased just where its contents are determined and every byte reads FFh (R138). -/
theorem isErased_iff {m : Medium} (h : m.wf = true) (phys : Nat) :
    isErased m phys = true ↔
      phys ∉ m.unknown ∧ ∀ i, i < 512 → readByte m.cells (phys * 512 + i) = erasedByte := by
  have hc := (cellsCanonical_iff _).1 ((medium_wf_iff m).1 h).1
  unfold isErased sectionCells
  rw [Bool.and_eq_true, List.isEmpty_iff, List.filter_eq_nil_iff]
  refine and_congr (by simp) ⟨fun hn i hi => ?_, fun hr c hm hx => ?_⟩
  · rcases Decidable.em (readByte m.cells (phys * 512 + i) = erasedByte) with he | he
    · exact he
    · obtain ⟨c, hm, hx⟩ := mem_of_readByte he
      refine absurd ?_ (hn c hm)
      rw [Bool.and_eq_true]
      exact ⟨decide_eq_true (by simp only [sectionSize]; omega), decide_eq_true (by simp only [sectionSize]; omega)⟩
  · rw [Bool.and_eq_true] at hx
    have h1 := of_decide_eq_true hx.1
    have h2 := of_decide_eq_true hx.2
    simp only [sectionSize] at h1 h2
    have hb := hr (c.1 - phys * 512) (by omega)
    rw [show phys * 512 + (c.1 - phys * 512) = c.1 by omega, readByte_of_mem hc.1 hm] at hb
    exact hc.2 c hm hb

/-- A failed program leaves one section more undetermined, and nothing else changes (R138). -/
theorem spoilSection_spec (m : Medium) (p : Nat) :
    spoilSection m p = { m with unknown := (spoilSection m p).unknown } ∧
      ∀ x, x ∈ (spoilSection m p).unknown ↔ x = p ∨ x ∈ m.unknown := by
  refine ⟨rfl, fun x => ?_⟩
  unfold spoilSection
  dsimp only
  split
  · rename_i h
    refine ⟨.inr, ?_⟩
    rintro (rfl | h')
    · simpa using h
    · exact h'
  · rw [List.mem_append, List.mem_singleton, or_comm]

theorem spoilFold_spec (block : Nat) (l : List Nat) (m : Medium) :
    let n := l.foldl (fun m i => spoilSection m (block * 16 + i)) m
    n = { m with unknown := n.unknown } ∧
      ∀ x, x ∈ n.unknown ↔ (∃ i ∈ l, x = block * 16 + i) ∨ x ∈ m.unknown := by
  induction l generalizing m with
  | nil => simp
  | cons i l ih =>
    obtain ⟨h1, h2⟩ := ih (spoilSection m (block * 16 + i))
    refine ⟨h1, fun x => (h2 x).trans ?_⟩
    rw [(spoilSection_spec m (block * 16 + i)).2 x]
    constructor
    · rintro (⟨j, hj, rfl⟩ | rfl | h)
      · exact .inl ⟨j, List.mem_cons_of_mem _ hj, rfl⟩
      · exact .inl ⟨i, List.mem_cons_self, rfl⟩
      · exact .inr h
    · rintro (⟨j, hj, rfl⟩ | h)
      · rcases List.mem_cons.1 hj with rfl | hj
        · exact .inr (.inl rfl)
        · exact .inl ⟨j, hj, rfl⟩
      · exact .inr (.inr h)

/-- A failed erase leaves every section of the block undetermined, and nothing else changes (R138). -/
theorem spoilBlock_spec (m : Medium) (block : Nat) :
    spoilBlock m block = { m with unknown := (spoilBlock m block).unknown } ∧
      ∀ x, x ∈ (spoilBlock m block).unknown ↔ x / 16 = block ∨ x ∈ m.unknown := by
  obtain ⟨h1, h2⟩ := spoilFold_spec block (List.range 16) m
  refine ⟨h1, fun x => (h2 x).trans ?_⟩
  constructor
  · rintro (⟨i, hi, rfl⟩ | h)
    · rw [List.mem_range] at hi
      exact .inl (by omega)
    · exact .inr h
  · rintro (h | h)
    · exact .inl ⟨x % 16, List.mem_range.2 (by omega), by omega⟩
    · exact .inr h

/-- A mark program changes byte 510 of its sections alone (R149). -/
theorem markStore_spec (ok : Bool) (sections : List Nat) {free : Nat} {m : Medium} (h : m.wf = true) :
    let n := markStore ok free m sections
    n = { m with cells := n.cells } ∧
      ∀ a, (∀ x ∈ sections, a ≠ x * 512 + 510) → readByte n.cells a = readByte m.cells a := by
  induction sections generalizing free m with
  | nil => exact ⟨rfl, fun _ _ => rfl⟩
  | cons p ps ih =>
    have hw := writeStoreByte_wf (p * sectionSize + 510) (if ok then 0 else Config.freeByte free) h
    obtain ⟨h1, h2⟩ := ih (free := free + 1) hw
    have hu : ∀ b, (writeStoreByte m (p * sectionSize + 510) b).unknown = m.unknown ∧
        (writeStoreByte m (p * sectionSize + 510) b).copy1 = m.copy1 ∧
        (writeStoreByte m (p * sectionSize + 510) b).copy2 = m.copy2 := by
      intro b; unfold writeStoreByte; split <;> exact ⟨rfl, rfl, rfl⟩
    refine ⟨?_, fun a ha => ?_⟩
    · obtain ⟨e1, e2, e3⟩ := hu (if ok then 0 else Config.freeByte free)
      rw [e1, e2, e3] at h1
      exact h1
    · refine (h2 a (fun x hx => ha x (List.mem_cons_of_mem _ hx))).trans ?_
      have hp := ha p List.mem_cons_self
      unfold writeStoreByte
      split
      · refine readByte_writeRun_outside ((medium_wf_iff m).1 h).1 _ _ ?_
        simp only [sectionSize, List.length_cons, List.length_nil]
        omega
      · rfl

end Sys2Proof.Machine
end

