-- ==== Sys2Proof/Laws/Copy.lean ====
section
/-! SUPPORT. What an erase and a copy leave on the medium, byte by byte (R138, R154). -/

namespace Sys2Proof.Machine

/-! ## Erases -/

theorem eraseBlock_erased (m : Medium) (block : Nat) : BlockErased block m (eraseBlock m block) := by
  refine ⟨rfl, rfl, fun p => ?_, fun h a => ⟨fun ha => ?_, fun ha => ?_⟩⟩
  · simp [eraseBlock]
  · have hx : block * 16 * sectionSize ≤ a ∧ a < block * 16 * sectionSize + 16 * sectionSize := by
      have h1 : block * 8192 ≤ a := ha.1
      have h2 : a < block * 8192 + 8192 := ha.2
      unfold sectionSize
      omega
    exact readByte_clearRun_inside m.cells _ _ hx
  · refine readByte_clearRun_outside ((medium_wf_iff m).1 h).1 _ _ ?_
    simp only [inRun, sectionSize] at ha ⊢
    omega

theorem spoilBlock_spoilt (m : Medium) (block : Nat) : BlockSpoilt block m (spoilBlock m block) :=
  spoilBlock_spec m block

/-! ## Copies -/

/-- What one byte's write leaves of the store (R138). -/
theorem writeStoreByte_spec {m : Medium} (h : m.wf = true) (a : Nat) (b : Byte) :
    writeStoreByte m a b = { m with cells := (writeStoreByte m a b).cells } ∧
    (∀ x, x ≠ a → readByte (writeStoreByte m a b).cells x = readByte m.cells x) ∧
    (a < storeBytes → readByte (writeStoreByte m a b).cells a = b) := by
  have hc := ((medium_wf_iff m).1 h).1
  unfold writeStoreByte
  split
  · refine ⟨rfl, fun x hx => readByte_writeRun_outside hc a [b] ?_, fun _ => ?_⟩
    · simp only [List.length_cons, List.length_nil]
      omega
    · exact readByte_writeRun_inside hc a [b] (i := 0) (by simp)
  · rename_i hn
    exact ⟨rfl, fun _ _ => rfl, fun ha => absurd ha hn⟩

/-- A spare byte copied: another byte keeps its value, and it takes the value read, where that is FFh keeping its own
(R138). -/
theorem copySpare_spec {m : Medium} (h : m.wf = true) (bs : List Byte) (dst i : Nat) :
    copySpare bs dst i m = { m with cells := (copySpare bs dst i m).cells } ∧
    (copySpare bs dst i m).wf = true ∧
    (∀ x, x ≠ dst * 512 + i → readByte (copySpare bs dst i m).cells x = readByte m.cells x) ∧
    (dst * 512 + i < storeBytes → readByte m.cells (dst * 512 + i) = erasedByte →
      readByte (copySpare bs dst i m).cells (dst * 512 + i) = bs.getD i erasedByte) := by
  unfold copySpare
  split
  · rename_i he
    exact ⟨rfl, h, fun _ _ => rfl, fun _ hr => hr.trans he.symm⟩
  · obtain ⟨h1, h2, h3⟩ := writeStoreByte_spec h (dst * sectionSize + i) (bs.getD i erasedByte)
    exact ⟨h1, writeStoreByte_wf _ _ h, h2, fun ha _ => h3 ha⟩

/-- What a program of bytes 0 to 509 leaves of the store (R138). -/
theorem programSection_spec {m : Medium} (h : m.wf = true) {dst : Nat} (hd : dst < 136 * 16) {bs : List Byte}
    (hl : 510 ≤ bs.length) :
    programSection m dst bs = { m with cells := (programSection m dst bs).cells } ∧
    (∀ x, ¬inRun (dst * 512) 510 x → readByte (programSection m dst bs).cells x = readByte m.cells x) ∧
    ∀ i, i < 510 → readByte (programSection m dst bs).cells (dst * 512 + i) = bs.getD i erasedByte := by
  have hc := ((medium_wf_iff m).1 h).1
  have ht : (bs.take 510).length = 510 := by rw [List.length_take]; omega
  unfold programSection
  rw [if_pos hd]
  refine ⟨rfl, fun x hx => readByte_writeRun_outside hc _ _ ?_, fun i hi => ?_⟩
  · rw [ht]
    simp only [inRun, sectionSize] at hx ⊢
    omega
  · have := readByte_writeRun_inside hc (dst * sectionSize) (bs.take 510) (i := i) (by omega)
    refine this.trans ?_
    rw [List.getElem_take, List.getD_eq_getElem?_getD, List.getElem?_eq_getElem (by omega)]
    rfl

/-- All that a copy of a section that does not read erased leaves: nothing but its target's bytes differs, and an erased
target takes bytes 0 to 509 as programmed and the spare bytes as read (R138, R154). -/
theorem copySection_spec {m : Medium} (h : m.wf = true) {o : MediumOutcome} {bs : List Byte} {src dst : Nat}
    (hd : dst < 136 * 16) :
    let n := copySection o bs src dst m
    let programmed := if o = .uncorrectable then damagedCopy m src bs else bs
    n = { m with cells := n.cells } ∧
    (∀ a, ¬inRun (dst * 512) 512 a → readByte n.cells a = readByte m.cells a) ∧
    (readsErased o bs = false → 510 ≤ programmed.length →
      (∀ i, i < 512 → readByte m.cells (dst * 512 + i) = erasedByte) →
      (∀ i, i < 510 → readByte n.cells (dst * 512 + i) = programmed.getD i erasedByte) ∧
      ∀ i, 510 ≤ i → i < 512 → readByte n.cells (dst * 512 + i) = bs.getD i erasedByte) := by
  dsimp only
  unfold copySection
  by_cases hr : readsErased o bs = true
  · rw [if_pos hr]
    exact ⟨rfl, fun _ _ => rfl, fun hn => absurd hr (by simp [hn])⟩
  rw [if_neg hr]
  generalize hp : (if o = .uncorrectable then damagedCopy m src bs else bs) = programmed
  have hw := programSection_wf dst programmed h
  obtain ⟨b1, bw, b2, b3⟩ := copySpare_spec hw bs dst 510
  obtain ⟨c1, -, c2, c3⟩ := copySpare_spec bw bs dst 511
  have ha : ∀ x, ¬inRun (dst * 512) 512 x → readByte (programSection m dst programmed).cells x = readByte m.cells x := by
    intro x hx
    unfold programSection
    rw [if_pos hd]
    refine readByte_writeRun_outside ((medium_wf_iff m).1 h).1 _ _ ?_
    have ht : (programmed.take 510).length ≤ 510 := List.length_take_le _ _
    simp only [inRun, sectionSize] at hx ⊢
    omega
  have hm : programSection m dst programmed = { m with cells := (programSection m dst programmed).cells } := by
    unfold programSection
    rw [if_pos hd]
  refine ⟨?_, fun a hx => ?_, fun _ hl' he => ⟨fun i hi => ?_, fun i hi hi' => ?_⟩⟩
  · generalize copySpare bs dst 511 _ = n at *
    generalize copySpare bs dst 510 _ = k at *
    generalize programSection m dst programmed = q at *
    rw [c1, b1, hm]
  · rw [c2 a, b2 a, ha a hx] <;> (simp only [inRun] at hx; omega)
  · obtain ⟨-, -, p3⟩ := programSection_spec h hd hl'
    rw [c2 _ (by omega), b2 _ (by omega), p3 i hi]
  · have hpe : ∀ j, 510 ≤ j → j < 512 →
        readByte (programSection m dst programmed).cells (dst * 512 + j) = erasedByte := by
      intro j hj hj'
      rw [(programSection_spec h hd hl').2.1 _ (by simp only [inRun]; omega), he j hj']
    have hs : dst * 512 + 511 < storeBytes := by
      unfold storeBytes
      omega
    rcases Nat.lt_or_ge i 511 with hi2 | hi2
    · obtain rfl : i = 510 := by omega
      rw [c2 _ (by omega), b3 (Nat.lt_of_succ_lt hs) (hpe 510 hi hi')]
    · obtain rfl : i = 511 := by omega
      rw [c3 hs]
      rw [b2 _ (by omega)]
      exact hpe 511 hi hi'

/-! ## A section's bytes -/

/-- A section's bytes are those of its places in the store. -/
theorem sectionBytes_getElem? {m : Medium} (h : m.wf = true) (p i : Nat) (hi : i < 512) :
    (sectionBytes m p)[i]? = some (readByte m.cells (p * 512 + i)) := by
  have hc := (cellsCanonical_iff _).1 ((medium_wf_iff m).1 h).1
  unfold sectionBytes
  split
  · rename_i he
    rw [List.getElem?_replicate, if_pos (by exact hi)]
    congr 1
    symm
    apply readByte_of_not_mem
    intro c hm hx
    unfold sectionCells at he
    rw [List.filter_eq_nil_iff] at he
    apply he c hm
    unfold sectionSize
    simp only [Bool.and_eq_true, decide_eq_true_eq]
    omega
  · rename_i cells hne
    rw [List.getElem?_map, List.getElem?_range (by exact hi)]
    simp only [Option.map_some]
    congr 1
    show readByte (sectionCells m p) (p * 512 + i) = _
    have hp : (sectionCells m p).Pairwise (fun c d => c.1 < d.1) := hc.1.filter _
    apply readByte_congr hp hc.1
    intro b
    unfold sectionCells
    rw [List.mem_filter]
    unfold sectionSize
    simp only [Bool.and_eq_true, decide_eq_true_eq]
    constructor
    · rintro ⟨h, -⟩; exact h
    · intro h; exact ⟨h, by omega, by omega⟩

theorem sectionBytes_length (m : Medium) (p : Nat) : (sectionBytes m p).length = 512 := by
  unfold sectionBytes; split
  · exact List.length_replicate
  · rw [List.length_map, List.length_range]; rfl

theorem readSection_length (m : Medium) (f p : Nat) (o) : (readSection m f p o).length = 512 := by
  unfold readSection; split
  · simp [freeBytes, sectionSize]
  · split
    · simp [freeBytes, sectionBytes_length]
    · exact sectionBytes_length _ _

theorem damaged_length (bs : List Byte) (h : bs.length = 512) : (damaged bs).length = 512 := by
  unfold damaged; split <;> simp [h]

/-- Contents read UNCORRECTABLE fail their checkword as a copy programs them (R154). -/
theorem damaged_fails (bs : List Byte) (h : bs.length = 512) : checkwordPasses (damaged bs) = false := by
  by_cases hp : checkwordPasses bs = true
  · unfold damaged
    rw [if_pos hp]
    have hnew : (bs.take 508 ++ [bs.getD 508 0 ^^^ 1] ++ bs.drop 509).take 508 = bs.take 508 := by
      rw [List.append_assoc, List.take_append_of_le_length (by rw [List.length_take]; omega)]
      rw [List.take_take]; simp
    have hf : ∀ l : List Byte, l.length = 512 →
        fieldAt l 508 2 = (l.getD 508 0).toNat + 256 * (l.getD 509 0).toNat := by
      intro l hl
      unfold fieldAt
      have : (l.drop 508).take 2 = [l.getD 508 0, l.getD 509 0] := by
        apply List.ext_getElem?
        intro i
        rw [List.getElem?_take, List.getElem?_drop]
        rcases i with _ | _ | i
        · simp [List.getD_eq_getElem?_getD, hl]
        · simp [List.getD_eq_getElem?_getD, hl]
        · rw [if_neg (by omega)]
          rfl
      rw [this]; simp [leValue]
    have e1 : (bs.take 508 ++ [bs.getD 508 0 ^^^ 1] ++ bs.drop 509).getD 508 0 = bs.getD 508 0 ^^^ 1 := by
      have : (bs.take 508).length = 508 := by rw [List.length_take]; omega
      rw [List.getD_eq_getElem?_getD, List.append_assoc, List.getElem?_append_right (by omega), this]; simp
    have e2 : (bs.take 508 ++ [bs.getD 508 0 ^^^ 1] ++ bs.drop 509).getD 509 0 = bs.getD 509 0 := by
      have : (bs.take 508 ++ [bs.getD 508 0 ^^^ 1]).length = 509 := by simp; omega
      rw [List.getD_eq_getElem?_getD, List.getElem?_append_right (by omega), this, List.getD_eq_getElem?_getD]; simp
    unfold checkwordPasses at hp ⊢
    rw [beq_iff_eq] at hp
    rw [beq_eq_false_iff_ne, hnew, ← hp, hf bs h, hf _ (by simp [h]), e1, e2]
    intro hh
    have : (bs.getD 508 0 ^^^ 1).toNat = (bs.getD 508 0).toNat := by omega
    have := BitVec.eq_of_toNat_eq this
    generalize bs.getD 508 0 = x at this
    have h0 := congrArg (fun y => y.getLsbD 0) this
    simp at h0
  · unfold damaged
    rw [if_neg hp]
    simpa using hp

end Sys2Proof.Machine
end

