-- ==== Sys2Proof/Laws/Examine.lean ====
section
/-! SUPPORT. The examination of the block to be erased, the entry of a block, and the end of an erase-ahead: all that
each can do, in the terms `ExaminedAt` and `TruncatedAt`. -/

namespace Sys2Proof.Machine

/-! ## Truncation and the store-full state -/

@[simp] theorem truncateOpen_sc (reason : EndReason) (keep : List Nat) (s : State) :
    (truncateOpen reason keep s).sc = s.sc := by unfold truncateOpen; split <;> rfl

@[simp] theorem truncateOpen_cx (reason : EndReason) (keep : List Nat) (s : State) :
    (truncateOpen reason keep s).cx = s.cx := by unfold truncateOpen; split <;> rfl

@[simp] theorem truncateOpen_medium (reason : EndReason) (keep : List Nat) (s : State) :
    (truncateOpen reason keep s).medium = s.medium := by unfold truncateOpen; split <;> rfl

@[simp] theorem truncateOpen_li (reason : EndReason) (keep : List Nat) (s : State) :
    (truncateOpen reason keep s).li = s.li := by unfold truncateOpen; split <;> rfl

theorem truncateOpen_none (reason : EndReason) (keep : List Nat) {s : State} (h : s.cu.opened = none) :
    truncateOpen reason keep s = s := by unfold truncateOpen; rw [h]

/-- With nothing kept, a truncation is R133's. -/
theorem truncateOpen_truncated {s : State} {r : OpenRecord} (h : s.cu.opened = some r) :
    TruncatedAt r (programmedFrames s.sc) (truncateOpen .truncatedStoreFull [] s) := by
  unfold truncateOpen TruncatedAt
  rw [h]
  refine ⟨by simp [withCu], ?_⟩
  intro f hf i
  simp only [withCu, List.mem_map] at hf
  obtain ⟨g, -, rfl⟩ := hf
  unfold releaseFrame
  split <;> simp_all

/-- What a record's close without a TRAILER keeps (R151). -/
theorem closeWithoutTrailer_keeps (s : State) :
    (closeWithoutTrailer s).cu.opened = none ∧ (closeWithoutTrailer s).cx = s.cx ∧
    (closeWithoutTrailer s).medium = s.medium ∧ (closeWithoutTrailer s).li = s.li ∧
    (closeWithoutTrailer s).sc = { s.sc with directory := (closeWithoutTrailer s).sc.directory } := by
  unfold closeWithoutTrailer
  split
  · exact ⟨by assumption, rfl, rfl, rfl, rfl⟩
  · exact ⟨rfl, rfl, rfl, rfl, rfl⟩

/-- The entry of a record closed without a TRAILER (R151). -/
theorem closeWithoutTrailer_directory {s : State} {r : OpenRecord} (h : s.cu.opened = some r) :
    (closeWithoutTrailer s).sc.directory = s.sc.directory.map (fun e => if e.state = .filling then
      { e with state := .held, protect := r.protect, endReason := r.endReason, trailer := none } else e) := by
  unfold closeWithoutTrailer
  rw [h]
  simp [withCu, withSc, onFilling]

/-- The onset of the store-full state where a section can still be programmed (R148, R133). -/
theorem beginStoreFull_onset {s : State} (hs : s.sc.seat = .normal) (hf : s.sc.storeFull = false) :
    (beginStoreFull s).sc = { s.sc with storeFull := true } ∧
    (beginStoreFull s).cx = { s.cx with notices := s.cx.notices ||| 0x0080 } ∧
    (beginStoreFull s).medium = s.medium ∧
    (∀ r, s.cu.opened = some r → TruncatedAt r (programmedFrames s.sc) (beginStoreFull s)) ∧
    (s.cu.opened = none → (beginStoreFull s).cu = s.cu) := by
  have e : beginStoreFull s = truncateOpen .truncatedStoreFull []
      (raise .storeFull (withSc (fun sc => { sc with storeFull := true }) s)) := by
    simp only [beginStoreFull, truncateStoreFull]
    rw [if_neg (by simp [hf]), if_pos]
    rw [truncateOpen_sc]
    exact hs
  rw [e]
  refine ⟨by rw [truncateOpen_sc]; rfl, by rw [truncateOpen_cx]; rfl, by rw [truncateOpen_medium]; rfl, ?_, ?_⟩
  · intro r hr
    exact truncateOpen_truncated hr
  · intro hn
    rw [truncateOpen_none _ _ (show (raise .storeFull (withSc (fun sc => { sc with storeFull := true }) s)).cu.opened
      = none from hn)]
    rfl

theorem beginStoreFull_again {s : State} (h : s.sc.storeFull = true) : beginStoreFull s = s := by
  simp [beginStoreFull, h]

/-! ## The examination -/

/-- The test of `ExaminedAt` is the examination's. -/
theorem examinedWithin_eq (block : Nat) :
    (fun x : DirEntry => decide (x.state ≠ .filling ∧
      ∃ slot : Fin 16, (block * 16 + slot + 2048 - x.first % 2048) % 2048 < x.sectionCount)) =
    fun e => e.state != .filling && hasSectionIn block e := by
  funext x
  rw [Bool.eq_iff_iff]
  simp only [decide_eq_true_eq, Bool.and_eq_true, bne_iff_ne, hasSectionIn, List.any_eq_true, List.mem_range,
    offsetOf]
  exact and_congr Iff.rfl
    ⟨fun ⟨k, h⟩ => ⟨k, k.isLt, decide_eq_true h⟩, fun ⟨k, hk, h⟩ => ⟨⟨k, hk⟩, of_decide_eq_true h⟩⟩

theorem reclaimable_iff (x : DirEntry) :
    reclaimable x = true ↔ (x.state = .released ∨ (x.state = .held ∧ x.protect = false)) := by
  simp [reclaimable]

/-- What an abandoned relocation keeps (R155). -/
theorem abandonRelocationOf_keeps (b : Nat) (sc : StoreController) :
    abandonRelocationOf b sc = { sc with
      relocation := (abandonRelocationOf b sc).relocation
      map := { sc.map with states := (abandonRelocationOf b sc).map.states }
      port := (abandonRelocationOf b sc).port } ∧
    (sc.port = none → (abandonRelocationOf b sc).port = none) ∧
    ((∀ q, sc.relocation = some q → q.block ≠ b) → abandonRelocationOf b sc = sc) := by
  unfold abandonRelocationOf abandonRelocation
  split
  · rename_i r hr
    by_cases hb : r.block = b
    · simp only [hb, hr, if_true]
      exact ⟨rfl, fun h => by rw [h]; rfl, fun h => absurd hb (h r rfl)⟩
    · simp only [hb, if_false]
      exact ⟨trivial, id, fun _ => trivial⟩
  · exact ⟨rfl, id, fun _ => rfl⟩

/-- What an examination, or the entry of a block, keeps of the state before it. -/
structure ExamineKeeps (s t : State) : Prop where
  position : t.sc.position = s.sc.position
  recovery : t.sc.recovery = s.sc.recovery
  medium : t.medium = s.medium
  phys : t.sc.map.phys = s.sc.map.phys
  relocQueue : t.sc.relocQueue = s.sc.relocQueue
  rebuildTrailer : t.sc.rebuildTrailer = s.sc.rebuildTrailer
  port : s.sc.port = none → t.sc.port = none
  map : s.sc.relocation = none → t.sc.map = s.sc.map
  notices : ∀ n, n ≠ 7 → t.cx.notices.getLsbD n = s.cx.notices.getLsbD n

/-- What becomes of the open record: nothing without the onset of the store-full state, and with it R133's end. -/
def RecordAfter (s t : State) : Prop :=
  (t.sc.storeFull = s.sc.storeFull → t.cu = s.cu ∧ t.cx = s.cx) ∧
  (s.sc.storeFull = false → t.sc.storeFull = true →
    (∀ r, s.cu.opened = some r → TruncatedAt r (programmedFrames s.sc) t) ∧ (s.cu.opened = none → t.cu = s.cu))

theorem storeFullNotice_other {w : Word16} {n : Nat} (h : n ≠ 7) :
    (w ||| 0x0080).getLsbD n = w.getLsbD n := by
  rw [BitVec.getLsbD_or]
  by_cases h16 : n < 16
  · have : ∀ k : Fin 16, (k : Nat) ≠ 7 → (0x0080 : Word16).getLsbD k = false := by decide
    have hz : (0x0080 : Word16).getLsbD n = false := this ⟨n, h16⟩ h
    rw [hz, Bool.or_false]
  · simp [BitVec.getLsbD_of_ge _ _ (Nat.le_of_not_lt h16)]

/-- All that an examination can do (R147, R148), where a section can still be programmed or the store is full. -/
theorem examine_spec {s : State} (hs : s.sc.seat = .normal ∨ s.sc.storeFull = true) :
    ExaminedAt (eraseTarget s.sc) s.sc.directory s.sc.storeFull s (examine s) ∧
    (examine s).sc.seat = s.sc.seat ∧ ExamineKeeps s (examine s) ∧ RecordAfter s (examine s) := by
  generalize hb : eraseTarget s.sc = block
  obtain ⟨ha, hport, hsame⟩ := abandonRelocationOf_keeps (physicalBlock s.sc.map block) s.sc
  have hmap : s.sc.relocation = none →
      abandonRelocationOf (physicalBlock s.sc.map block) s.sc = s.sc :=
    fun h => hsame (fun q hq => by rw [h] at hq; cases hq)
  have hexam : examine s =
      (let found := fun e : DirEntry => e.state != .filling && hasSectionIn block e
       let u := withSc (fun _ => abandonRelocationOf (physicalBlock s.sc.map block) s.sc) s
       if (s.sc.directory.filter found).all reclaimable then
         withSc (fun sc => { dropRecords found sc with eraseAhead := .due true }) u
       else beginStoreFull (withSc (fun sc => { sc with eraseAhead := .due false }) u)) := by
    unfold examine
    simp only [hb, withSc]
    rw [show (abandonRelocationOf (physicalBlock s.sc.map block) s.sc).directory = s.sc.directory by rw [ha]]
  generalize abandonRelocationOf (physicalBlock s.sc.map block) s.sc = a at *
  have hd : a.directory = s.sc.directory := by rw [ha]
  have hf : a.storeFull = s.sc.storeFull := by rw [ha]
  have hm : a.pendingMarks = s.sc.pendingMarks := by rw [ha]
  have hp : programmedFrames { a with eraseAhead := .due false } = programmedFrames s.sc := by
    simp [programmedFrames, fillingEntry, hd]
  rw [hexam]
  unfold ExaminedAt
  rw [examinedWithin_eq]
  dsimp only
  by_cases hall : ((s.sc.directory.filter (fun e => e.state != .filling && hasSectionIn block e)).all
      reclaimable) = true
  · rw [if_pos hall]
    refine ⟨⟨fun _ => ⟨rfl, hf, ?_, ?_⟩, ?_⟩, ?_, ⟨?_, ?_, rfl, ?_, ?_, ?_, ?_, ?_, fun _ _ => rfl⟩,
      fun _ => ⟨rfl, rfl⟩, fun h h' => ?_⟩
    · simp only [withSc, dropRecords, hd]
    · simp only [withSc, dropRecords, hd, hm]
    · rintro ⟨x, hx, hw, hn⟩
      rw [List.all_eq_true] at hall
      exact absurd ((reclaimable_iff x).1 (hall x (List.mem_filter.2 ⟨hx, hw⟩))) hn
    · show a.seat = s.sc.seat; rw [ha]
    · show a.position = s.sc.position; rw [ha]
    · show a.recovery = s.sc.recovery; rw [ha]
    · show a.map.phys = s.sc.map.phys; rw [ha]
    · show a.relocQueue = s.sc.relocQueue; rw [ha]
    · show a.rebuildTrailer = s.sc.rebuildTrailer; rw [ha]
    · exact hport
    · exact fun h => by show a.map = s.sc.map; rw [hmap h]
    · have : a.storeFull = true := h'
      rw [hf, h] at this; cases this
  · rw [if_neg hall]
    have hnot : ¬∀ x ∈ s.sc.directory, (x.state != .filling && hasSectionIn block x) = true →
        (x.state = .released ∨ (x.state = .held ∧ x.protect = false)) := by
      intro h
      refine hall (List.all_eq_true.2 fun x hx => ?_)
      rw [List.mem_filter] at hx
      exact (reclaimable_iff x).2 (h x hx.1 hx.2)
    generalize hv : withSc (fun sc => { sc with eraseAhead := .due false }) (withSc (fun _ => a) s) = v
    have vsc : v.sc = { a with eraseAhead := .due false } := by rw [← hv]; rfl
    have vcu : v.cu = s.cu := by rw [← hv]; rfl
    have vcx : v.cx = s.cx := by rw [← hv]; rfl
    have vm : v.medium = s.medium := by rw [← hv]; rfl
    have keeps : ∀ t : State, (∃ f, t.sc = { a with eraseAhead := .due false, storeFull := f }) →
        t.medium = s.medium → (∀ n, n ≠ 7 → t.cx.notices.getLsbD n = s.cx.notices.getLsbD n) →
        t.sc.seat = s.sc.seat ∧ ExamineKeeps s t := by
      rintro t ⟨f, ht⟩ htm htn
      refine ⟨by rw [ht, ha], by rw [ht, ha], by rw [ht, ha], htm, by rw [ht, ha], by rw [ht, ha], by rw [ht, ha],
        fun h => by rw [ht]; exact hport h, fun h => by rw [ht]; show a.map = s.sc.map; rw [hmap h], htn⟩
    by_cases hfull : s.sc.storeFull = true
    · rw [beginStoreFull_again (by rw [vsc]; exact hf.trans hfull)]
      have hk := keeps v ⟨true, by rw [vsc, ← hfull, ← hf]⟩ vm (fun n _ => by rw [vcx])
      refine ⟨⟨fun h => absurd h hnot, fun _ => ?_⟩, hk.1, hk.2, fun _ => ⟨vcu, vcx⟩, fun h => ?_⟩
      · exact ⟨by rw [vsc], by rw [vsc]; exact hf.trans hfull, by rw [vsc]; exact hd, by rw [vsc]; exact hm,
          fun h => by rw [hfull] at h; cases h⟩
      · rw [hfull] at h; cases h
    · rw [Bool.not_eq_true] at hfull
      have hseat : s.sc.seat = .normal := by simpa [hfull] using hs
      obtain ⟨b1, b2, b3, b4, b5⟩ := beginStoreFull_onset (s := v) (by rw [vsc, ha]; exact hseat)
        (by rw [vsc]; exact hf.trans hfull)
      rw [vsc] at b1 b4
      rw [vcx] at b2
      rw [vcu] at b4 b5
      have hk := keeps (beginStoreFull v) ⟨true, b1⟩ (b3.trans vm)
        (fun n hn => by rw [b2]; exact storeFullNotice_other hn)
      refine ⟨⟨fun h => absurd h hnot, fun _ => ?_⟩, hk.1, hk.2, fun h => ?_, fun _ _ => ⟨fun r hr => ?_, b5⟩⟩
      · exact ⟨by rw [b1], by rw [b1], by rw [b1]; exact hd, by rw [b1]; exact hm,
          fun _ => by rw [b2]; simp⟩
      · rw [b1, hfull] at h; cases h
      · rw [← hp]; exact b4 r hr

/-- All that the entry of a block can do (R147), outside the rebuild, which examines at moments of its own. -/
theorem enterBlock_spec {s : State} (hx : s.cx.rebuildEnded = true ∨ s.li.closing = true) :
    ExaminedAt ((s.sc.position / 16 + 1) % 128) s.sc.directory s.sc.storeFull s (enterBlock s) ∧
    RecordAfter s (enterBlock s) := by
  have e : enterBlock s = examine (withSc (fun sc => { sc with seat := .normal, eraseAhead := .due false }) s) := by
    simp only [enterBlock]
    rw [if_pos]
    simpa [examinesOnEntry] using hx
  rw [e]
  obtain ⟨h1, -, -, h4⟩ := examine_spec
    (s := withSc (fun sc => { sc with seat := .normal, eraseAhead := .due false }) s) (.inl rfl)
  exact ⟨h1, h4⟩

/-- What the entry of a block keeps, and that it leaves the writer's seat normal (R140, R147). -/
theorem enterBlock_keeps (s : State) : (enterBlock s).sc.seat = .normal ∧ ExamineKeeps s (enterBlock s) := by
  have hn : ExamineKeeps s (withSc (fun sc => { sc with seat := .normal, eraseAhead := .due false }) s) :=
    ⟨rfl, rfl, rfl, rfl, rfl, rfl, id, fun _ => rfl, fun _ _ => rfl⟩
  unfold enterBlock
  dsimp only
  split
  · obtain ⟨-, h2, h3, -⟩ := examine_spec
      (s := withSc (fun sc => { sc with seat := .normal, eraseAhead := .due false }) s) (.inl rfl)
    exact ⟨h2, h3.position, h3.recovery, h3.medium, h3.phys, h3.relocQueue, h3.rebuildTrailer, h3.port, h3.map,
      h3.notices⟩
  · exact ⟨rfl, hn⟩

/-! ## The end of an erase-ahead -/

/-- What a block's leaving the relocation queue keeps (R152, R155). -/
theorem forgetBlock_keeps (b : Nat) (sc : StoreController) :
    forgetBlock b sc = { sc with
      relocation := (forgetBlock b sc).relocation
      map := { sc.map with states := (forgetBlock b sc).map.states }
      port := (forgetBlock b sc).port
      relocQueue := sc.relocQueue.filter (fun x => !(x == b)) } ∧
    b ∉ (forgetBlock b sc).relocQueue ∧ (sc.port = none → (forgetBlock b sc).port = none) ∧
    ((∀ q, sc.relocation = some q → q.block ≠ b) →
      forgetBlock b sc = { sc with relocQueue := sc.relocQueue.filter (fun x => !(x == b)) }) := by
  obtain ⟨h1, h2, h3⟩ := abandonRelocationOf_keeps b sc
  refine ⟨?_, by simp [forgetBlock], h2, fun h => by simp only [forgetBlock, h3 h]⟩
  simp only [forgetBlock]
  generalize abandonRelocationOf b sc = a at *
  rw [h1]

/-- All that the end of an erase-ahead does where the position waited for the block (R147, R151), and the block beyond
has not been erased ahead by the rebuild (R159). -/
theorem eraseAheadDone_waiting {s : State} (hs : s.sc.seat ≠ .normal)
    (ha : s.sc.seat = .unerased → s.sc.aheadErased = false) :
    let position := if s.sc.seat = .abandoned then (s.sc.position / 16 + 1) % 128 * 16 else s.sc.position
    let u := withSc (fun sc => { sc with storeFull := false, recovery := none, position := position }) s
    (eraseAheadDone s).sc.seat = .normal ∧ ExamineKeeps u (eraseAheadDone s) ∧
    (s.cx.rebuildEnded = true ∨ s.li.closing = true →
      ExaminedAt ((position / 16 + 1) % 128) s.sc.directory false s (eraseAheadDone s)) := by
  dsimp only
  have key : ∀ u : State, (eraseAheadDone s = enterBlock u) → u.sc.storeFull = false →
      u.sc.directory = s.sc.directory → u.sc.pendingMarks = s.sc.pendingMarks → u.cx = s.cx → u.li = s.li →
      (eraseAheadDone s).sc.seat = .normal ∧ ExamineKeeps u (eraseAheadDone s) ∧
      (s.cx.rebuildEnded = true ∨ s.li.closing = true →
        ExaminedAt ((u.sc.position / 16 + 1) % 128) s.sc.directory false s (eraseAheadDone s)) := by
    intro u hu hf hd hm hcx hli
    rw [hu]
    refine ⟨(enterBlock_keeps u).1, (enterBlock_keeps u).2, fun hx => ?_⟩
    have := (enterBlock_spec (s := u) (by rw [hcx, hli]; exact hx)).1
    rw [hf, hd] at this
    unfold ExaminedAt at this ⊢
    rw [hm] at this
    exact this
  cases hc : s.sc.seat with
  | normal => exact absurd hc hs
  | unerased =>
    simp only [reduceCtorEq, if_false]
    refine key _ ?_ rfl rfl rfl rfl rfl
    unfold eraseAheadDone
    simp only [hc, ha hc, Bool.false_eq_true, if_false]
    rfl
  | abandoned =>
    simp only [if_true]
    refine key _ ?_ rfl rfl rfl rfl rfl
    unfold eraseAheadDone
    rw [hc]
    simp only [withSc, eraseTarget, hc, nextBlock, blockOf, reduceCtorEq, if_false]

/-- All that it does where the position waited for its own block and the rebuild has erased the block beyond (R159,
assumption log 54). -/
theorem eraseAheadDone_erased {s : State} (hs : s.sc.seat = .unerased) (ha : s.sc.aheadErased = true) :
    eraseAheadDone s = withSc (fun sc => { sc with
      storeFull := false, recovery := none, seat := .normal, eraseAhead := .done, aheadErased := false }) s := by
  unfold eraseAheadDone
  simp only [hs, ha, if_true]
  rfl

end Sys2Proof.Machine
end

