-- ==== Sys2Proof/Laws/Line.lean ====
section
/-! SUPPORT. The receiver of the line (R176, R177): what a run of bytes makes, from what its parts make. -/

namespace Sys2Proof.Machine

/-- A run goes on from where its first part leaves the receiver, where that part makes no event. -/
theorem receive_append {r q : Receiver} {bytes : List Byte} (more : List Byte)
    (h : receive r bytes = some (q, none)) : receive r (bytes ++ more) = receive q more := by
  induction bytes generalizing r with
  | nil =>
    have : r = q := by simpa [receive] using h
    rw [this]
    rfl
  | cons b bs ih =>
    rw [List.cons_append, receive]
    rw [receive] at h
    rcases hf : feedByte r b with ⟨r', _ | e⟩
    · rw [hf] at h
      exact ih h
    · rw [hf] at h
      simp at h

/-- No run goes on beyond an event. -/
theorem receive_beyond {r q : Receiver} {e : RxEvent} {bytes more : List Byte}
    (h : receive r bytes = some (q, some e)) (hm : more ≠ []) : receive r (bytes ++ more) = none := by
  induction bytes generalizing r with
  | nil => simp [receive] at h
  | cons b bs ih =>
    rw [List.cons_append, receive]
    rw [receive] at h
    rcases hf : feedByte r b with ⟨r', _ | e'⟩
    · rw [hf] at h
      exact ih h
    · simp [hm]

/-- Hunting passes every byte but 7Eh. -/
theorem receive_hunting {bytes : List Byte} (h : 0x7E ∉ bytes) : receive .hunting bytes = some (.hunting, none) := by
  induction bytes with
  | nil => rfl
  | cons b bs ih =>
    have hb : b ≠ 0x7E := fun he => h (by simp [he])
    rw [receive]
    simp only [feedByte, if_neg hb]
    exact ih (fun hm => h (List.mem_cons_of_mem _ hm))

/-- The bytes of an open frame stay in it while none of its prefixes ends it. -/
theorem receive_open {bytes : List Byte}
    (h : ∀ n, 0 < n → n ≤ bytes.length → frameStatus (bytes.take n) = (.inFrame (bytes.take n), none)) :
    receive (.inFrame []) bytes = some (.inFrame bytes, none) := by
  suffices ∀ pre post : List Byte, pre ++ post = bytes → receive (.inFrame pre) post = some (.inFrame bytes, none) from
    this [] bytes rfl
  intro pre post he
  induction post generalizing pre with
  | nil => simp [receive, ← he]
  | cons b bs ih =>
    have ht : bytes.take (pre.length + 1) = pre ++ [b] := by
      rw [← he, List.take_append, List.take_of_length_le (by omega), Nat.add_sub_cancel_left]
      rfl
    have hs := h (pre.length + 1) (by omega) (by rw [← he]; simp)
    rw [ht] at hs
    rw [receive]
    simp only [feedByte, hs]
    exact ih (pre ++ [b]) (by simp [he])

/-- The last byte of an open frame makes what the whole of it makes. -/
theorem receive_last {bytes : List Byte} {b : Byte}
    (h : receive (.inFrame []) bytes = some (.inFrame bytes, none)) {q : Receiver} {e : RxEvent}
    (hs : frameStatus (bytes ++ [b]) = (q, some e)) : receive (.inFrame []) (bytes ++ [b]) = some (q, some e) := by
  rw [receive_append _ h, receive]
  simp only [feedByte, hs]
  rfl

/-- The length field of an open frame (R176). -/
theorem fieldAt_length (kind tag l0 l1 : Byte) (rest : List Byte) :
    fieldAt ([kind, tag, l0, l1] ++ rest) 2 2 = l0.toNat + 256 * l1.toNat := by
  simp [fieldAt, leValue]

end Sys2Proof.Machine
end

