-- ==== Sys2Proof/Laws/Params.lean ====
section
/-! SUPPORT. The trigger ranges of R123, in the terms of the claims. -/

namespace Sys2Proof.Machine

/-- The model's test of a trigger entry is R123's. -/
theorem triggerInRange_iff (e : TriggerEntry) : triggerInRange e = true ↔ triggerAllowed e := by
  unfold triggerInRange triggerAllowed
  rw [Bool.and_eq_true, Bool.and_eq_true, decide_eq_true_eq, decide_eq_true_eq, beq_iff_eq]
  constructor
  · rintro ⟨⟨h1, h2⟩, h3⟩
    refine ⟨fun n hn => ?_, fun n hn => ?_, h3⟩
    · rw [BitVec.getLsbD]
      exact Nat.testBit_lt_two_pow (Nat.lt_of_lt_of_le h1 (Nat.pow_le_pow_right (n := 2) (by omega) hn))
    · rw [← h2, BitVec.getLsbD_and, Bool.and_eq_true] at hn
      exact hn.2
  · rintro ⟨h1, h2, h3⟩
    refine ⟨⟨Nat.lt_of_not_le fun hc => ?_, BitVec.eq_of_getLsbD_eq fun i _ => ?_⟩, h3⟩
    · obtain ⟨i, hi, hb⟩ := Nat.exists_ge_and_testBit_of_ge_two_pow (n := 18) (x := e.mask.toNat) hc
      have := h1 i hi
      rw [BitVec.getLsbD, hb] at this
      cases this
    · rw [BitVec.getLsbD_and]
      rcases hv : e.value.getLsbD i
      · rfl
      · rw [h2 i hv]
        rfl

end Sys2Proof.Machine
end

