-- ==== Sys2Proof/Laws/Rebuild.lean ====
section
/-! SUPPORT. The rebuild's position (R159, R140): where `skipUsed` leaves it, and what the erase-ahead of the rebuild
leaves of the writer's seat. -/

namespace Sys2Proof.Machine

/-- The slots found used are those of the position's block from the position on whose section is not erased. -/
theorem mem_usedSlots {scan : List (Nat × Found)} {a k : Nat} :
    k ∈ usedSlots scan a ↔ k < 16 ∧ a % 16 ≤ k ∧ (foundAt scan (a / 16 * 16 + k)).isSome = true := by
  simp [usedSlots]

theorem usedSlots_sorted (scan : List (Nat × Found)) (a : Nat) : (usedSlots scan a).Pairwise (· < ·) :=
  List.pairwise_lt_range.filter _

/-- Past slot 0 the position comes to the section after the last of its block that is not erased, and stays where
every section from it on is erased (R159). -/
theorem skipUsed_spec {scan : List (Nat × Found)} {a : Nat} (h : a % 16 ≠ 0) :
    (skipUsed scan a = a ∧ ∀ k, a % 16 ≤ k → k < 16 → foundAt scan (a / 16 * 16 + k) = none) ∨
    ∃ k, a % 16 ≤ k ∧ k < 16 ∧ (foundAt scan (a / 16 * 16 + k)).isSome = true ∧
      (∀ j, k < j → j < 16 → foundAt scan (a / 16 * 16 + j) = none) ∧
      skipUsed scan a = (a / 16 * 16 + k + 1) % 2048 := by
  unfold skipUsed
  rw [if_neg h]
  rcases hl : (usedSlots scan a).getLast? with _ | k
  · refine .inl ⟨rfl, fun k hk hk' => Option.not_isSome_iff_eq_none.mp (fun hc => ?_)⟩
    have hm : k ∈ usedSlots scan a := mem_usedSlots.mpr ⟨hk', hk, hc⟩
    rw [List.getLast?_eq_none_iff.mp hl] at hm
    cases hm
  · obtain ⟨init, hi⟩ := List.getLast?_eq_some_iff.mp hl
    have hk := mem_usedSlots.mp (show k ∈ usedSlots scan a by rw [hi]; simp)
    refine .inr ⟨k, hk.2.1, hk.1, hk.2.2, fun j hj hj' => Option.not_isSome_iff_eq_none.mp (fun hc => ?_), rfl⟩
    have hm : j ∈ usedSlots scan a := mem_usedSlots.mpr ⟨hj', by omega, hc⟩
    have hs := usedSlots_sorted scan a
    rw [hi] at hm hs
    rcases List.mem_append.mp hm with hm | hm
    · have := (List.pairwise_append.mp hs).2.2 j hm k (by simp)
      omega
    · have : j = k := by simpa using hm
      omega

/-! ## The erase-ahead of R159 -/

/-- Where the position's own block is not the trouble, the erase-ahead is the writer's own (R147). -/
theorem eraseAheadStep_now {x : State × List (MediumOutcome × Bool)} (h : x.1.sc.seat ≠ .unerased) :
    eraseAheadStep x = eraseAheadNow x := if_neg h

/-- Where the position waits for its own block, it goes on waiting under the store-full state, and SC holds whether the
block after it has been erased ahead (R159, assumption log 54). -/
theorem eraseAheadStep_awaits {x : State × List (MediumOutcome × Bool)} (h : x.1.sc.seat = .unerased) :
    let t := (eraseAheadNow (withSc seatAside x.1, x.2)).1
    (eraseAheadStep x).1.sc = { t.sc with
      seat := .unerased, storeFull := true, eraseAhead := .due false, aheadErased := t.sc.eraseAhead == .done } ∧
    (eraseAheadStep x).1.medium = t.medium ∧ (eraseAheadStep x).1.cx = t.cx := by
  unfold eraseAheadStep
  rw [if_pos h]
  exact ⟨rfl, rfl, rfl⟩

end Sys2Proof.Machine
end

