-- ==== Sys2Proof/Laws/Replies.lean ====
section
/-! SUPPORT. What the pending command reply list rests on (R186, `RepliesKept`): the operations of SC and CU leave the
read-out and its read at the port alone, and each placing of a reply keeps the list's bound. -/

namespace Sys2Proof.Machine

/-- `t` has the read-out of `s`, and no read of it at the port that `s` has not. -/
structure ReaderSame (s t : State) : Prop where
  readOut : t.sc.readOut = s.sc.readOut
  port : ∀ p, t.sc.port = some p → p.agent = .reader → p.discard = false → s.sc.port = some p

theorem ReaderSame.refl (s : State) : ReaderSame s s := ⟨rfl, fun _ h _ _ => h⟩

theorem ReaderSame.trans {s t u : State} (h : ReaderSame s t) (k : ReaderSame t u) : ReaderSame s u :=
  ⟨k.readOut.trans h.readOut, fun p hp ha hd => h.port p (k.port p hp ha hd) ha hd⟩

/-- The reader is left alone where read-out and port stand. -/
theorem readerSame_of {s t : State} (h : t.sc.readOut = s.sc.readOut) (k : t.sc.port = s.sc.port) :
    ReaderSame s t := ⟨h, fun _ hp _ _ => k ▸ hp⟩

/-- The reader is left alone by what follows a change that leaves read-out and port. -/
theorem ReaderSame.after {s t u : State} (m : ReaderSame t u) (h : t.sc.readOut = s.sc.readOut)
    (k : t.sc.port = s.sc.port) : ReaderSame s u := (readerSame_of h k).trans m

theorem freePort_reader (s : State) : ReaderSame s (freePort s) := ⟨rfl, fun _ h => nomatch h⟩

theorem abandonRelocation_reader (s : State) : ReaderSame s (withSc abandonRelocation s) := by
  unfold abandonRelocation
  rcases hr : s.sc.relocation with _ | r
  · exact readerSame_of (by simp [withSc, hr]) (by simp [withSc, hr])
  · refine ⟨by simp [withSc, hr], fun p hp ha hd => ?_⟩
    simp only [withSc, hr, Option.map_eq_some_iff] at hp
    obtain ⟨q, hq, rfl⟩ := hp
    split at hd
    · cases hd
    · rename_i hn
      rw [if_neg hn]
      exact hq

theorem abandonRelocationOf_reader (b : Nat) (s : State) : ReaderSame s (withSc (abandonRelocationOf b) s) := by
  have h : abandonRelocationOf b s.sc = abandonRelocation s.sc ∨ abandonRelocationOf b s.sc = s.sc := by
    unfold abandonRelocationOf
    split
    · split
      · exact .inl rfl
      · exact .inr rfl
    · exact .inr rfl
  rcases h with h | h
  · have : withSc (abandonRelocationOf b) s = withSc abandonRelocation s := by simp [withSc, h]
    rw [this]; exact abandonRelocation_reader s
  · have : withSc (abandonRelocationOf b) s = s := by simp [withSc, h]
    rw [this]; exact .refl s

theorem forgetBlock_reader (b : Nat) (s : State) : ReaderSame s (withSc (forgetBlock b) s) :=
  (abandonRelocationOf_reader b s).trans (readerSame_of rfl rfl)

theorem truncateOpen_reader (e : EndReason) (keep : List Nat) (s : State) :
    ReaderSame s (truncateOpen e keep s) := by
  unfold truncateOpen
  split <;> exact readerSame_of rfl rfl

theorem closeWithoutTrailer_reader (s : State) : ReaderSame s (closeWithoutTrailer s) := by
  unfold closeWithoutTrailer
  split <;> exact readerSame_of rfl rfl

theorem truncateStoreFull_reader (s : State) : ReaderSame s (truncateStoreFull s) := by
  unfold truncateStoreFull
  dsimp only
  split
  · exact truncateOpen_reader _ _ s
  · exact (truncateOpen_reader _ _ s).trans (closeWithoutTrailer_reader _)

theorem beginStoreFull_reader (s : State) : ReaderSame s (beginStoreFull s) := by
  unfold beginStoreFull
  split
  · exact .refl s
  · exact .after (truncateStoreFull_reader _) rfl rfl

theorem examine_reader (s : State) : ReaderSame s (examine s) := by
  unfold examine
  dsimp only
  split
  · exact (abandonRelocationOf_reader _ s).trans (readerSame_of rfl rfl)
  · exact (abandonRelocationOf_reader _ s).trans (.after (beginStoreFull_reader _) rfl rfl)

theorem enterBlock_reader (s : State) : ReaderSame s (enterBlock s) := by
  unfold enterBlock
  dsimp only
  split
  · exact .after (examine_reader _) rfl rfl
  · exact readerSame_of rfl rfl

theorem advancePosition_reader (s : State) : ReaderSame s (advancePosition s) := by
  unfold advancePosition
  dsimp only
  split
  · exact readerSame_of rfl rfl
  · split
    · exact .after (enterBlock_reader _) rfl rfl
    · split
      · exact .after (closeWithoutTrailer_reader _) rfl rfl
      · exact readerSame_of rfl rfl

theorem sectionDone_reader (job : SectionJob) (a : Nat) (s : State) : ReaderSame s (sectionDone job a s) := by
  unfold sectionDone
  split
  · exact readerSame_of rfl rfl
  · exact readerSame_of rfl rfl
  · exact readerSame_of rfl rfl
  · split <;> exact readerSame_of rfl rfl

theorem wearOut_reader (job : SectionJob) (s : State) : ReaderSame s (wearOut job s) := by
  unfold wearOut
  dsimp only
  split
  · refine .trans ?_ (enterBlock_reader _)
    split
    · have h := truncateOpen_reader .truncatedStoreFull []
        (raise .storeWear (withSc (fun sc => { sc with recovery := none, rebuildTrailer := none }) s))
      exact ⟨h.readOut, h.port⟩
    · exact readerSame_of rfl rfl
  · refine .trans ?_ (examine_reader _)
    refine .trans ?_ (beginStoreFull_reader _)
    split
    · exact .after (truncateStoreFull_reader _) rfl rfl
    · exact readerSame_of rfl rfl

theorem beginRecovery_reader (job : Option SectionJob) (logical slot failed : Nat) (s : State) :
    ReaderSame s (beginRecovery job logical slot failed s) := by
  unfold beginRecovery
  split
  · rename_i target sc h
    have : sc.readOut = s.sc.readOut ∧ sc.port = s.sc.port := by
      unfold takeTarget at h
      split at h
      · cases h; exact ⟨rfl, rfl⟩
      · obtain ⟨r, -, h⟩ := Option.map_eq_some_iff.1 h
        cases h; exact ⟨rfl, rfl⟩
    exact readerSame_of this.1 this.2
  · split
    · exact wearOut_reader _ s
    · exact .after (beginStoreFull_reader _) rfl rfl

theorem eraseAheadDone_reader (s : State) : ReaderSame s (eraseAheadDone s) := by
  unfold eraseAheadDone
  dsimp only
  split
  · exact readerSame_of rfl rfl
  · split
    · exact readerSame_of rfl rfl
    · exact .after (enterBlock_reader _) rfl rfl
  · exact .after (enterBlock_reader _) rfl rfl

theorem programComplete_reader (ok : Bool) (s : State) : ReaderSame s (programComplete ok s) := by
  unfold programComplete
  split
  · split
    · exact .trans (.after (freePort_reader _) rfl rfl)
        (.after (.trans (sectionDone_reader _ _ _) (advancePosition_reader _)) rfl rfl)
    · exact .trans (.after (freePort_reader _) rfl rfl)
        (.after (beginRecovery_reader _ _ _ _ _) rfl rfl)
  · exact .refl s

theorem markComplete_reader (ok : Bool) (s : State) : ReaderSame s (markComplete ok s) := by
  unfold markComplete
  split
  · exact .trans (.after (freePort_reader _) rfl rfl) (readerSame_of rfl rfl)
  · exact .refl s

theorem writerErased_reader (ok : Bool) (b : Nat) (s : State) : ReaderSame s (writerErased ok b s) := by
  unfold writerErased
  split
  · split <;> exact readerSame_of rfl rfl
  · split
    · exact (forgetBlock_reader _ _).trans (eraseAheadDone_reader _)
    · exact beginRecovery_reader _ _ _ _ _

theorem relocatorErased_reader (ok : Bool) (s : State) : ReaderSame s (relocatorErased ok s) := by
  unfold relocatorErased
  split
  · split <;> exact readerSame_of rfl rfl
  · exact .refl _

theorem eraseComplete_reader (ok : Bool) (s : State) : ReaderSame s (eraseComplete ok s) := by
  unfold eraseComplete
  split
  · dsimp only
    have key : ∀ m : Medium, ReaderSame s (freePort { s with medium := m }) := fun m =>
      .after (freePort_reader _) rfl rfl
    split
    · exact key _
    · split
      · exact (key _).trans (writerErased_reader _ _ _)
      · exact (key _).trans (relocatorErased_reader _ _)
      · exact key _
  · exact .refl s

theorem writerCopied_reader (ok : Bool) (s : State) : ReaderSame s (writerCopied ok s) := by
  unfold writerCopied
  split
  · split
    · split <;> exact readerSame_of rfl rfl
    · exact readerSame_of rfl rfl
  · exact .refl _

theorem relocatorCopied_reader (ok : Bool) (s : State) : ReaderSame s (relocatorCopied ok s) := by
  unfold relocatorCopied
  split
  · split
    · split <;> exact readerSame_of rfl rfl
    · exact readerSame_of rfl rfl
  · exact .refl _

theorem copyComplete_reader (o : MediumOutcome) (ok : Bool) (s : State) :
    ReaderSame s (copyComplete o ok s) := by
  unfold copyComplete
  split
  · dsimp only
    have key : ∀ (m : Medium) (n : Nat), ReaderSame s (freePort { s with medium := m, freeCount := n }) :=
      fun m n => .after (freePort_reader _) rfl rfl
    split
    · exact key _ _
    · split
      · exact (key _ _).trans (writerCopied_reader _ _)
      · exact (key _ _).trans (relocatorCopied_reader _ _)
      · exact key _ _
  · exact .refl s

theorem restartRelocation_reader (b : Nat) (s : State) : ReaderSame s (restartRelocation b s) := by
  unfold restartRelocation
  split <;> exact readerSame_of rfl rfl

theorem writerMapped_reader (c : MapChange) (s : State) : ReaderSame s (writerMapped c s) := by
  unfold writerMapped
  split
  · dsimp only
    split
    · exact (forgetBlock_reader _ _).trans (readerSame_of rfl rfl)
    · exact (forgetBlock_reader _ _).trans (eraseAheadDone_reader _)
  · exact beginRecovery_reader _ _ _ _ _
  · exact .refl _

theorem relocatorMapped_reader (c : MapChange) (s : State) : ReaderSame s (relocatorMapped c s) := by
  unfold relocatorMapped
  split
  · exact readerSame_of rfl rfl
  · exact restartRelocation_reader _ _
  · exact .refl _

theorem mapWriteComplete_reader (ok : Bool) (s : State) : ReaderSame s (mapWriteComplete ok s) := by
  unfold mapWriteComplete
  split
  · dsimp only
    have key : ∀ m : Medium, ReaderSame s
        (withSc (fun sc => { sc with mapRetry := none }) (freePort { s with medium := m })) := fun m =>
      ⟨rfl, fun _ h => nomatch h⟩
    split
    · split
      · exact key _
      · split
        · exact (key _).trans (.after (writerMapped_reader _ _) rfl rfl)
        · exact (key _).trans (.after (relocatorMapped_reader _ _) rfl rfl)
        · exact (key _).trans (readerSame_of rfl rfl)
    · split
      · exact readerSame_of rfl rfl
      · exact .after (freePort_reader _) rfl rfl
  · exact .refl s

theorem queueBlock_reader (b : Nat) (sc : StoreController) :
    (queueBlock b sc).readOut = sc.readOut ∧ (queueBlock b sc).port = sc.port := by
  unfold queueBlock
  extract_lets under
  split <;> exact ⟨rfl, rfl⟩

theorem relocationStart_reader (s : State) : ReaderSame s (relocationStart s) := by
  unfold relocationStart
  split
  · split
    · exact .refl s
    · exact .after (restartRelocation_reader _ _) rfl rfl
  · exact .refl s

theorem makeRoom_reader (sc : StoreController) :
    (makeRoom sc).readOut = sc.readOut ∧ (makeRoom sc).port = sc.port := by
  unfold makeRoom
  split
  · exact ⟨rfl, rfl⟩
  · split <;> exact ⟨rfl, rfl⟩

theorem fireEntry_reader (n : Nat) (e : TriggerEntry) (w : Word32) (s : State) :
    ReaderSame s (fireEntry n e w s) := by
  unfold fireEntry
  split
  · unfold openRecord
    split
    · exact readerSame_of (makeRoom_reader s.sc).1 (makeRoom_reader s.sc).2
    · exact readerSame_of rfl rfl
  · split <;> exact readerSame_of rfl rfl

theorem evalEntries_reader (w : Word32) (es : List TriggerEntry) :
    ∀ (n : Nat) (ps : List Bool) (s : State), ReaderSame s (evalEntries w n es ps s).1 := by
  induction es with
  | nil => intro n ps s; exact .refl s
  | cons e es ih =>
    intro n ps s
    cases ps with
    | nil => exact .refl s
    | cons p ps =>
      refine .trans ?_ (ih (n + 1) ps _)
      unfold evalEntry
      split
      · exact .refl s
      · dsimp only
        split
        · exact fireEntry_reader _ _ _ s
        · exact .refl s

theorem capture_reader (s : State) : ReaderSame s (capture s) := by
  unfold capture
  split
  · exact .after (.trans (evalEntries_reader _ _ _ _ _) (readerSame_of rfl rfl)) rfl rfl
  · exact .refl s

/-! ## The rebuild, which begins with the port free -/

theorem runOp_reader (op : StoreOp) (report : MediumOutcome × Bool) (s : State) :
    ReaderSame s (runOp op report s) := by
  have key : ReaderSame s (withSc (fun sc => { sc with port := some ⟨.writer, op, false⟩ }) s) :=
    ⟨rfl, fun p hp ha => by cases hp; cases ha⟩
  unfold runOp
  cases op with
  | erase => exact key.trans (eraseComplete_reader _ _)
  | program => exact key.trans (programComplete_reader _ _)
  | mark => exact key.trans (markComplete_reader _ _)
  | read => exact key.trans (freePort_reader _)
  | copy => exact key.trans (copyComplete_reader _ _ _)
  | mapWrite => exact key.trans (mapWriteComplete_reader _ _)

theorem settle_reader : ∀ (fuel : Nat) (results : List (MediumOutcome × Bool)) (s : State),
    ReaderSame s (settle fuel results s).1
  | 0, _, s => .refl s
  | fuel + 1, results, s => by
    unfold settle
    split
    · exact .refl s
    · exact (runOp_reader _ _ s).trans (settle_reader fuel _ _)

theorem clearSeat_reader (s : State × List (MediumOutcome × Bool)) : ReaderSame s.1 (clearSeat s).1 := by
  have key : ∀ t, ReaderSame s.1 t → ReaderSame s.1
      (if (settle (settleFuel s.2) s.2 t).1.sc.seat = .normal then settle (settleFuel s.2) s.2 t
        else (withSc (fun sc => { sc with rebuildTrailer := none }) (settle (settleFuel s.2) s.2 t).1,
          (settle (settleFuel s.2) s.2 t).2)).1 := by
    intro t h
    split
    · exact h.trans (settle_reader _ _ _)
    · exact (h.trans (settle_reader _ _ _)).trans (readerSame_of rfl rfl)
  refine key _ ?_
  split
  · exact examine_reader _
  · exact .refl _

theorem eraseAheadNow_reader (s : State × List (MediumOutcome × Bool)) : ReaderSame s.1 (eraseAheadNow s).1 :=
  (examine_reader _).trans (settle_reader _ _ _)

theorem eraseAheadStep_reader (s : State × List (MediumOutcome × Bool)) : ReaderSame s.1 (eraseAheadStep s).1 := by
  unfold eraseAheadStep
  split
  · exact .after (.trans (eraseAheadNow_reader (withSc seatAside s.1, s.2)) (readerSame_of rfl rfl)) rfl rfl
  · exact eraseAheadNow_reader s

theorem rebuild_reader (reads : List (Nat × MediumOutcome)) (results : List (MediumOutcome × Bool)) (s : State) :
    ReaderSame s (rebuild reads results s) := by
  have hq : ∀ (l : List Nat) (sc : StoreController),
      (l.foldl (fun sc a => queueBlock (physicalBlock sc.map (blockOf a)) sc) sc).readOut = sc.readOut ∧
      (l.foldl (fun sc a => queueBlock (physicalBlock sc.map (blockOf a)) sc) sc).port = sc.port := by
    intro l
    induction l with
    | nil => exact fun sc => ⟨rfl, rfl⟩
    | cons a l ih =>
      intro sc
      exact ⟨(ih _).1.trans (queueBlock_reader _ _).1, (ih _).2.trans (queueBlock_reader _ _).2⟩
  have hp : ∀ (scan : List (Nat × Found)) (kept : List Candidate) (sc : StoreController),
      (placeWriter scan kept sc).readOut = sc.readOut ∧ (placeWriter scan kept sc).port = sc.port := by
    intro scan kept sc
    unfold placeWriter
    split <;> exact ⟨rfl, rfl⟩
  unfold rebuild endSteps
  refine .trans ?_ ((clearSeat_reader _).trans ((clearSeat_reader _).trans (eraseAheadStep_reader _)))
  generalize scanStore reads s = scan
  exact readerSame_of ((hp scan _ _).1.trans (hq _ _).1) ((hp scan _ _).2.trans (hq _ _).2)

/-! ## The bound of the reply list -/

/-- The bound is kept where LI, the save and the read-out stand, and no read of the reader's comes to the port. -/
theorem RepliesKept.same {s t : State} (h : RepliesKept s) (hl : t.li = s.li) (hp : t.pm.saving = s.pm.saving)
    (k : ReaderSame s t) : RepliesKept t where
  bound := hl ▸ h.bound
  saving := by rw [hl, hp, k.readOut]; exact h.saving
  closing := by rw [hl, k.readOut]; exact h.closing
  idle := by rw [hl, k.readOut]; exact h.idle
  reading := by rw [hl, k.readOut]; exact h.reading
  waiting := by rw [hl, k.readOut]; exact h.waiting
  port := fun p hp ha hd => by rw [k.readOut]; exact h.port p (k.port p hp ha hd) ha hd

/-- What the start of a transmission leaves of the reply list: the list, with the part that is sent; or, where a reply
begins to be sent, the rest of it. -/
theorem startTx_replies (s : State) :
    (startTx s).sc = s.sc ∧ (startTx s).pm = s.pm ∧ (startTx s).li.closing = s.li.closing ∧
    (((startTx s).li.replies = s.li.replies ∧
        (partSending (startTx s).li = partSending s.li ∨ s.li.tx = none ∧ partSending (startTx s).li = false)) ∨
      ∃ r rest, s.li.tx = none ∧ s.li.replies = r :: rest ∧ (startTx s).li.replies = rest ∧
        partSending (startTx s).li = (r.role == .readPart)) := by
  unfold startTx
  split
  · exact ⟨rfl, rfl, rfl, .inl ⟨rfl, .inl rfl⟩⟩
  · rename_i ht
    split
    · exact ⟨rfl, rfl, rfl, .inl ⟨rfl, .inr ⟨ht, rfl⟩⟩⟩
    · rename_i r rest _ hr
      exact ⟨rfl, rfl, rfl, .inr ⟨r, rest, ht, hr, rfl, by simp [partSending]⟩⟩
    · exact ⟨rfl, rfl, rfl, .inl ⟨rfl, .inl rfl⟩⟩

/-- The start of a transmission keeps the bound of the reply list. -/
theorem RepliesKept.startTx {s : State} (h : RepliesKept s) : RepliesKept (startTx s) := by
  obtain ⟨hs, hp, hc, ht⟩ := startTx_replies s
  have hx : s.li.tx = none → partSending s.li = false := fun hn => by simp [partSending, hn]
  rcases ht with ⟨hr, ht⟩ | ⟨r, rest, hn, hr, hr', ht⟩
  · have ht' : partSending (Machine.startTx s).li = partSending s.li := by
      rcases ht with ht | ⟨hn, ht⟩
      · exact ht
      · rw [ht, hx hn]
    exact ⟨by rw [hr]; exact h.bound, by rw [hr, hs, hp]; exact h.saving, by rw [hs, hc]; exact h.closing,
      by rw [hr, hs, hc, ht']; exact h.idle, by rw [hr, hs, ht']; exact h.reading,
      by rw [hr, hs, ht']; exact h.waiting, by rw [hs]; exact h.port⟩
  · have hlen : rest.length + 1 = s.li.replies.length := by rw [hr]; rfl
    have hpart : partsIn s.li.replies = (if r.role == .readPart then 1 else 0) + partsIn rest := by
      rw [hr]; unfold partsIn; rw [List.filter_cons]; split <;> simp <;> omega
    refine ⟨?_, ?_, ?_, ?_, ?_, ?_, ?_⟩
    · have := h.bound; rw [hr']; omega
    · rw [hs, hp, hr']; intro k; have := h.saving k; exact ⟨this.1, by omega⟩
    · rw [hs, hc]; exact h.closing
    · rw [hs, hc, hr', ht]; intro a b; have := (h.idle a b).1
      rcases hq : (r.role == .readPart) with _ | _ <;> rw [hq] at hpart <;> simp at hpart
      · exact ⟨by omega, rfl⟩
      · omega
    · rw [hs, hr', ht]; intro q a b; obtain ⟨h1, h2, -⟩ := h.reading q a b
      rcases hq : (r.role == .readPart) with _ | _ <;> rw [hq] at hpart <;> simp at hpart
      · exact ⟨by omega, by omega, rfl⟩
      · omega
    · rw [hs, hr', ht]; intro q a b; obtain ⟨h1, h2⟩ := h.waiting q a b
      have h3 := h.bound
      refine ⟨h1, ?_⟩
      rcases h2 with ⟨h2, -⟩ | ⟨-, h2, -⟩
      · rcases hq : (r.role == .readPart) with _ | _ <;> rw [hq] at hpart <;> simp at hpart
        · exact .inl ⟨by omega, rfl⟩
        · exact .inr ⟨by omega, rfl, by omega⟩
      · rw [hx hn] at h2; cases h2
    · rw [hs]; exact h.port

/-- What a placing of a reply by the command in execution finds: room in the list, no part of a read-out in it or on
the line, and no read of the reader's at the port (R181, R167). -/
structure RoomForReply (s : State) : Prop where
  saving : s.pm.saving = false
  closing : s.li.closing = false
  room : s.li.replies.length ≤ 19
  parts : partsIn s.li.replies = 0
  sending : partSending s.li = false
  port : ∀ p, s.sc.port = some p → p.agent = .reader → p.discard = false → False

/-- A command that CX takes finds room for its reply (R181). -/
theorem RepliesKept.room {s : State} (h : RepliesKept s) (hm : cxMayTake s = true) : RoomForReply s := by
  simp only [cxMayTake, cxFree, Bool.and_eq_true, Bool.not_eq_true', decide_eq_true_eq, Option.isNone_iff_eq_none] at hm
  obtain ⟨⟨⟨⟨hr, hs⟩, hl⟩, -⟩, hc⟩ := hm
  have hi := h.idle hc hr
  refine ⟨hs, hc, by omega, hi.1, hi.2, fun p hp ha hd => ?_⟩
  obtain ⟨r, hr', -⟩ := h.port p hp ha hd
  rw [hr] at hr'; cases hr'

theorem RoomForReply.same {s t : State} (h : RoomForReply s) (hl : t.li = s.li) (hp : t.pm.saving = s.pm.saving)
    (k : ReaderSame s t) : RoomForReply t where
  saving := by rw [hp]; exact h.saving
  closing := by rw [hl]; exact h.closing
  room := by rw [hl]; exact h.room
  parts := by rw [hl]; exact h.parts
  sending := by rw [hl]; exact h.sending
  port := fun p hq ha hd => h.port p (k.port p hq ha hd) ha hd

/-- Without a read-out, or with one that does not wait, a part with room keeps the bound. -/
theorem RoomForReply.kept {s : State} (h : RoomForReply s) (k : ∀ r, s.sc.readOut = some r → r.waiting = false) :
    RepliesKept s where
  bound := by have := h.room; omega
  saving := fun a => by rw [h.saving] at a; cases a
  closing := fun a => by rw [h.closing] at a; cases a
  idle := fun _ _ => ⟨h.parts, h.sending⟩
  reading := fun _ _ _ => ⟨h.room, h.parts, h.sending⟩
  waiting := fun r a b => by rw [k r a] at b; cases b
  port := fun p hp ha hd => (h.port p hp ha hd).elim

/-- A reply placed by the command whose execution it ends (R181). -/
theorem RoomForReply.placeReply {s : State} (h : RoomForReply s) (hn : s.sc.readOut = none) (r : Reply)
    (hr : r.role = .plain) : RepliesKept (placeReply r s) := by
  refine RepliesKept.startTx (s := { s with li := { s.li with replies := s.li.replies ++ [r] } }) ?_
  have hp : partsIn (s.li.replies ++ [r]) = 0 := by
    have := h.parts
    simp only [partsIn, List.filter_append, List.length_append] at this ⊢
    simp [this, hr]
  refine ⟨?_, ?_, ?_, fun _ _ => ⟨hp, h.sending⟩, ?_, ?_, fun p hp ha hd => (h.port p hp ha hd).elim⟩
  · have := h.room
    simpa using by omega
  · intro a; exact absurd a (by rw [h.saving]; decide)
  · intro _; exact hn
  · intro q a; rw [hn] at a; cases a
  · intro q a; rw [hn] at a; cases a

/-- LI's queue has no part in the bound. -/
theorem RepliesKept.popCommand {s : State} (h : RepliesKept s) : RepliesKept (popCommand s) :=
  ⟨h.bound, h.saving, h.closing, h.idle, h.reading, h.waiting, h.port⟩

/-- The final reply of a command keeps the bound (R181). -/
theorem RoomForReply.finishCommand {s : State} (h : RoomForReply s) (hn : s.sc.readOut = none) (r : Reply)
    (hr : r.role = .plain) : RepliesKept (finishCommand r s) := (h.placeReply hn r hr).popCommand

/-- The part with its read-out replaced has the same room. -/
theorem RoomForReply.withReadOut {s : State} (h : RoomForReply s) (q : Option ReadOut) :
    RoomForReply (withReadOut q s) := ⟨h.saving, h.closing, h.room, h.parts, h.sending, h.port⟩

/-- The end of a read-out keeps the bound (R167, R171). -/
theorem RoomForReply.endReadOut {s : State} (h : RoomForReply s) (st : Status) (r : ReadOut) :
    RepliesKept (endReadOut st r s) := by
  have key : ∀ x : Reply, x.role = .plain → RepliesKept (Machine.withReadOut none (Machine.finishCommand x s)) := by
    intro x hx
    have : Machine.withReadOut none (Machine.finishCommand x s) =
        Machine.finishCommand x (Machine.withReadOut none s) := by
      unfold Machine.finishCommand Machine.placeReply Machine.popCommand Machine.startTx Machine.withReadOut withSc
      dsimp only
      cases s.li.tx <;> cases s.li.reports <;> cases s.li.replies <;> rfl
    rw [this]
    exact (h.withReadOut none).finishCommand rfl x hx
  unfold Machine.endReadOut
  cases r.kind <;> exact key _ rfl

/-- The turn to the next section keeps the bound (R165). -/
theorem RoomForReply.turnReader {s : State} (h : RoomForReply s) (r : ReadOut) (hw : r.waiting = false) :
    RepliesKept (turnReader r s) := by
  unfold Machine.turnReader
  split
  · exact h.endReadOut _ _
  · dsimp only
    split
    · split
      · exact h.endReadOut _ _
      · exact h.endReadOut _ _
    · exact (h.withReadOut _).kept (fun q hq => by cases hq; exact hw)

/-- A part of a READ INCIDENT placed keeps the bound: the read-out waits for it (R167). -/
theorem RoomForReply.placePart {s : State} (h : RoomForReply s) (r : ReadOut) (x : Reply) (hr : x.role = .readPart)
    (hw : r.waiting = true) (ha : r.asking = none) :
    RepliesKept (Machine.placeReply x (Machine.withReadOut (some r) s)) := by
  have k := h.withReadOut (some r)
  generalize hu : Machine.withReadOut (some r) s = u at k
  have hq : u.sc.readOut = some r := by rw [← hu]; rfl
  refine RepliesKept.startTx (s := { u with li := { u.li with replies := u.li.replies ++ [x] } }) ?_
  have hp : partsIn (u.li.replies ++ [x]) = 1 := by
    have := k.parts
    simp only [partsIn, List.filter_append, List.length_append] at this ⊢
    simp [this, hr]
  refine ⟨?_, ?_, ?_, ?_, ?_, ?_, fun p hp ha hd => (k.port p hp ha hd).elim⟩
  · have := k.room
    simpa using by omega
  · intro a; exact absurd a (by rw [k.saving]; decide)
  · intro a; exact absurd a (by rw [k.closing]; decide)
  · intro _ a; rw [hq] at a; cases a
  · intro q a b; rw [hq] at a; cases a; rw [hw] at b; cases b
  · intro q a _; rw [hq] at a; cases a; exact ⟨ha, .inl ⟨hp, k.sending⟩⟩

/-- A reply placed on arrival keeps the bound: it is placed only while the list holds fewer than 16 (R186). -/
theorem RepliesKept.placeArrivalReply {s : State} (h : RepliesKept s) (r : Reply) (hr : r.role = .plain) :
    RepliesKept (placeArrivalReply r s) := by
  unfold Machine.placeArrivalReply
  split
  · rename_i hl
    refine RepliesKept.startTx (s := { s with li := { s.li with replies := s.li.replies ++ [r] } }) ?_
    have hp : partsIn (s.li.replies ++ [r]) = partsIn s.li.replies := by
      simp [partsIn, List.filter_append, hr]
    have hn : (s.li.replies ++ [r]).length ≤ 16 := by simpa using by omega
    refine ⟨Nat.le_trans hn (by decide), fun a => ⟨(h.saving a).1, Nat.le_trans hn (by decide)⟩, h.closing,
      fun a b => ⟨hp.trans (h.idle a b).1, (h.idle a b).2⟩,
      fun q a b => ⟨Nat.le_trans hn (by decide), hp.trans (h.reading q a b).2.1, (h.reading q a b).2.2⟩,
      fun q a b => ⟨(h.waiting q a b).1, ?_⟩, h.port⟩
    rcases (h.waiting q a b).2 with c | c
    · exact .inl ⟨hp.trans c.1, c.2⟩
    · exact .inr ⟨hp.trans c.1, c.2.1, Nat.le_trans hn (by decide)⟩
  · exact h.same rfl rfl (readerSame_of rfl rfl)

/-- A report placed leaves the bound of the replies. -/
theorem RepliesKept.placeReport {s : State} (h : RepliesKept s) (e : ReportEntry) : RepliesKept (placeReport e s) := by
  unfold Machine.placeReport
  split
  · exact RepliesKept.startTx (s := { s with li := { s.li with reports := s.li.reports ++ [e] } })
      ⟨h.bound, h.saving, h.closing, h.idle, h.reading, h.waiting, h.port⟩
  · exact h.same rfl rfl (readerSame_of rfl rfl)

/-- The acceptance of RESTART leaves one reply to send, and no read-out (R184, R175). -/
theorem acceptRestart_replies (tag : Byte) (s : State) : RepliesKept (acceptRestart tag s) := by
  have hport : ∀ p, (restartStore s.sc).port = some p → p.agent = .reader → p.discard = true := by
    intro p hp ha
    unfold restartStore abandonRelocation at hp
    dsimp only at hp
    split at hp
    · simp only [Option.map_eq_some_iff] at hp
      obtain ⟨q, -, rfl⟩ := hp
      split
      · rfl
      · rename_i hn; rw [if_neg hn] at ha; exact absurd ha hn
    · simp only [Option.map_map, Option.map_eq_some_iff] at hp
      obtain ⟨q, -, rfl⟩ := hp
      revert ha
      dsimp only [Function.comp]
      split
      · split <;> intro _ <;> rfl
      · rename_i hn
        split
        · intro _; rfl
        · intro ha; exact absurd ha hn
  have hread : (restartStore s.sc).readOut = none := by
    unfold restartStore abandonRelocation
    dsimp only
    split <;> rfl
  unfold acceptRestart
  refine RepliesKept.startTx ?_
  have hrec : ∀ u : State, StoreFrame u (restartRecord u) ∧ ReaderSame u (restartRecord u) := by
    intro u
    unfold restartRecord
    split
    · exact ⟨.refl u, .refl u⟩
    · dsimp only
      split
      · exact ⟨truncateOpen_frame _ _ u, truncateOpen_reader _ _ u⟩
      · exact ⟨(truncateOpen_frame _ _ u).trans (closeWithoutTrailer_frame _),
          (truncateOpen_reader _ _ u).trans (closeWithoutTrailer_reader _)⟩
  refine RepliesKept.same ?_ (hrec _).1.li (congrArg (·.saving) (hrec _).1.pm) (hrec _).2
  refine ⟨(by decide : 1 ≤ 20), fun _ => ⟨hread, (by decide : 1 ≤ 19)⟩, fun _ => hread, (fun a => nomatch a),
    fun q a => ?_, fun q a => ?_, fun p hp ha hd => ?_⟩
  · change (restartStore s.sc).readOut = some q at a; rw [hread] at a; cases a
  · change (restartStore s.sc).readOut = some q at a; rw [hread] at a; cases a
  · rw [hport p hp ha] at hd; cases hd

end Sys2Proof.Machine
end

