-- ==== Sys2Proof/Laws/Restart.lean ====
section
/-! SUPPORT. The acceptance of RESTART: what it leaves of SC's records and of the open record (R135, R155, R160, R175,
R204), each said once. -/

namespace Sys2Proof.Machine

/-! ## SC -/

/-- Nothing of SC but the read-out, the burst, the relocation, the map and the port differs. -/
theorem restartStore_frame (sc : StoreController) :
    restartStore sc = { sc with
      readOut := none, burst := 1, relocation := none, map := (restartStore sc).map, port := (restartStore sc).port } := by
  unfold restartStore abandonRelocation
  split
  · rename_i h
    cases sc
    simp_all
  · rfl

/-- The target of the relocation given up returns to SPARE (R155). -/
theorem restartStore_map {sc : StoreController} :
    (∀ q, sc.relocation = some q → (restartStore sc).map = setBlockState q.target .spare sc.map) ∧
    (sc.relocation = none → (restartStore sc).map = sc.map) := by
  constructor
  · intro q h
    simp [restartStore, abandonRelocation, h]
  · intro h
    simp [restartStore, abandonRelocation, h]

/-- A writer's operation goes on; a reader's, and that of the relocation given up, is discarded (R155, R160, R175). -/
theorem restartStore_port {sc : StoreController} :
    (sc.port = none → (restartStore sc).port = none) ∧
    ∀ p, sc.port = some p → (p.agent = .writer → (restartStore sc).port = some p) ∧
      (p.agent = .reader ∨ (p.agent = .relocator ∧ sc.relocation ≠ none) →
        (restartStore sc).port = some { p with discard := true }) := by
  constructor
  · intro h
    unfold restartStore abandonRelocation
    split <;> simp [h]
  · intro p h
    unfold restartStore abandonRelocation
    cases hr : sc.relocation <;> cases ha : p.agent <;> simp [h, ha]

/-- What the writer has in hand stays in its hands. -/
theorem restartStore_handed (sc : StoreController) : handedJob (restartStore sc) = handedJob sc := by
  have hr : (restartStore sc).recovery = sc.recovery := by rw [restartStore_frame]
  unfold handedJob
  rw [hr]
  split
  · rfl
  · rcases hp : sc.port with _ | ⟨_ | _ | _, op, d⟩
    · rw [restartStore_port.1 hp]
    · rw [(restartStore_port.2 _ hp).1 rfl]
    · by_cases hq : sc.relocation = none
      · simp [restartStore, abandonRelocation, hq, hp]
      · rw [(restartStore_port.2 _ hp).2 (.inr ⟨rfl, hq⟩)]
    · rw [(restartStore_port.2 _ hp).2 (.inl rfl)]

/-! ## The open record -/

/-- Without an open record, or with its TRAILER in hand, nothing changes (R135). -/
theorem restartRecord_unchanged {s : State} (h : s.cu.opened = none ∨ handedJob s.sc = some .trailer) :
    restartRecord s = s := by
  unfold restartRecord
  split
  · rfl
  · rcases h with h | h
    · simp only [truncateOpen_none _ _ h]
      split
      · rfl
      · simp [closeWithoutTrailer, h]
    · contradiction

/-- The open record is closed at the frames programmed or in hand (R135). -/
theorem restartRecord_normal {s : State} {r : OpenRecord} (h : s.cu.opened = some r)
    (hj : handedJob s.sc ≠ some .trailer) (hs : s.sc.seat = .normal) :
    restartRecord s = { s with cu := { s.cu with
      ring := s.cu.ring.map (releaseFrame (handedFrames s.sc))
      opened := some { r with
        phase := .closing
        captureCount := programmedFrames s.sc + (handedFrames s.sc).length + r.lostCount
        endReason := some .truncatedRestart } } } := by
  unfold restartRecord
  rw [if_neg hj]
  simp only [truncateOpen_sc, if_pos hs]
  simp [truncateOpen, h, withCu]

/-- The open record is closed without a TRAILER where the writer's position allows none (R204). -/
theorem restartRecord_waiting {s : State} {r : OpenRecord} (h : s.cu.opened = some r)
    (hj : handedJob s.sc ≠ some .trailer) (hs : s.sc.seat ≠ .normal) :
    restartRecord s = { s with
      cu := { s.cu with opened := none, ring := s.cu.ring.map freeFrame }
      sc := { s.sc with directory := s.sc.directory.map (fun e => if e.state = .filling then
        { e with state := .held, protect := r.protect, endReason := some .truncatedRestart, trailer := none }
        else e) } } := by
  have hf : freeFrame ∘ releaseFrame (handedFrames s.sc) = freeFrame := by
    funext f
    simp only [Function.comp, freeFrame, releaseFrame]
    split
    · split <;> rfl
    · rfl
  unfold restartRecord
  rw [if_neg hj]
  simp only [truncateOpen_sc, if_neg hs]
  simp [truncateOpen, h, withCu, closeWithoutTrailer, dropOpen, withSc, onFilling, hf]

/-- Only CU and SC's directory can differ. -/
theorem restartRecord_frame (s : State) : restartRecord s =
    { s with cu := (restartRecord s).cu, sc := { s.sc with directory := (restartRecord s).sc.directory } } := by
  by_cases hj : handedJob s.sc = some .trailer
  · rw [restartRecord_unchanged (.inr hj)]
  · rcases h : s.cu.opened with _ | r
    · rw [restartRecord_unchanged (.inl h)]
    · by_cases hs : s.sc.seat = .normal
      · rw [restartRecord_normal h hj hs]
      · rw [restartRecord_waiting h hj hs]

end Sys2Proof.Machine
end

