-- ==== Sys2Proof/Laws/Slide.lean ====
section
/-! SUPPORT. What a window close leaves of AM and SP: for each axle, each truck and each sand valve, all that SP's
evaluation can do. -/

namespace Sys2Proof.Machine

@[simp] theorem PerAxle.get_ofFn {α : Type} (f : AxleNo → α) (i : AxleNo) : (PerAxle.ofFn f).get i = f i := by
  cases i <;> rfl

@[simp] theorem PerTruck.get_ofFn {α : Type} (f : Truck → α) (g : Truck) : (PerTruck.ofFn f).get g = f g := by
  cases g <;> rfl

@[simp] theorem PerTruck.get_map {α β : Type} (f : α → β) (p : PerTruck α) (g : Truck) :
    (p.map f).get g = f (p.get g) := by
  cases g <;> rfl

theorem mem_axlesOf (g : Truck) (i : AxleNo) : i ∈ axlesOf g ↔ truckOf i = g := by
  cases g <;> cases i <;> decide

/-- A composition leaves AM and SP. -/
theorem windowClose_sp (a b : Reading) {s : State} (h : s.timersRunning = true) :
    (windowClose a b s).sp = (spEvaluate (afterAm s)).sp := by
  simp [windowClose, h, compose, afterAm]

theorem windowClose_am (a b : Reading) {s : State} (h : s.timersRunning = true) :
    (windowClose a b s).am = { amWindow s with axles := (spAxles (afterAm s)).1 } := by
  simp [windowClose, h, compose, afterAm, spEvaluate]

/-- The slide fields an evaluation leaves of an axle. -/
theorem spEvaluate_axle (s : State) (i : AxleNo) :
    (spEvaluate s).sp.axles.get i = leftSlide (spEvaluate s).sp.trucks (spAxles s).1 (spAxles s).2 i := by
  simp [spEvaluate]

/-- The truck record an evaluation leaves. -/
theorem spEvaluate_truck (s : State) (g : Truck) :
    (spEvaluate s).sp.trucks.get g = spTruck s (spAxles s).1 (spAxles s).2 g := by
  simp [spEvaluate]

/-- The valve an evaluation leaves: its move under the request of its own direction (R38, R39). -/
theorem spEvaluate_valve (s : State) (v : SandDir) :
    valveOf (spEvaluate s).sp v = valveStep s.pm.params.slide
      (sandRequest (usedDemand s) s.am.standstill (spEvaluate s).sp.trucks (match v with
        | .forward => .forward
        | .reverse => .reverse)) (valveOf s.sp v) := by
  cases v <;> simp [spEvaluate, valveOf]

/-- No transition moves a truck's protected flag. -/
theorem truckStep_isProtected (p : SlideParams) (run low slide : Bool) (e : Nat) (t : TruckRecord) :
    (truckStep p run low slide e t).isProtected = t.isProtected := by
  unfold truckStep lockoutStep episodeStep holdStep restoreStep enterRelieve reenterRelieve enterLockout toIdle
  dsimp only
  repeat' split
  all_goals rfl

/-- In LOCKOUT the fault time of every axle of the truck is 0, from the entry on (R32). -/
theorem windowClose_lockout_faultTime (a b : Reading) {s : State} (h : s.timersRunning = true) {i : AxleNo}
    (hl : ((windowClose a b s).sp.trucks.get (truckOf i)).state = .lockout) :
    ((windowClose a b s).sp.axles.get i).faultTime = 0 := by
  rw [windowClose_sp a b h] at hl ⊢
  rw [spEvaluate_axle]
  exact if_pos hl

end Sys2Proof.Machine
end

