-- ==== Sys2Proof/Tests/Slice0.lean ====
section
/-! SUPPORT. The model's own tests. Each expected result is a worked figure of the manual (its section in
the comment) or follows from a rule by hand; each is one step on a small state. -/

set_option maxRecDepth 100000

namespace Sys2Proof.Tests

open Sys2Proof Sys2Proof.Machine

/-! ## Helpers -/

/-- The state an outcome answers, or the reset state. -/
def nextOf (o : Host.Outcome State Fault Refusal) : State :=
  match o with
  | .next s => s
  | _ => State.reset

/-- A powered part past its load, in a given mode, with the map written and the demand fresh. -/
def ready (m : Mode) : State :=
  { State.reset with
    timersRunning := true
    cx := { resetExecutor with mode := m, loadEnded := true, rebuildEnded := true }
    sc := { State.reset.sc with port := none }
    bc := { resetBlendComputer with demandAge := 1 }
    bpm := { State.reset.bpm with emergency := false, pressure := 500, reduction := 0 } }

/-- `s` with a command at the head of the queue. -/
def withHead (kind : Byte) (body : List Byte) (s : State) : State :=
  { s with li := { s.li with queue := [⟨kind, 0x2A, body⟩] } }

/-- The replies an outcome leaves on the line or waiting: the frames' bytes 1, 2 and 5 (kind, tag,
status) of the frame in transmission. -/
def sent (s : State) : Option (Byte × Byte × Byte) :=
  s.li.tx.map (fun f => (f.bytes.getD 1 0, f.bytes.getD 2 0, f.bytes.getD 5 0))

/-! ## Well-formedness: an ill-formed term for each check -/

theorem test_wf_refuses_read_beyond_store :
    (Instr.rebuildEnd [(2048, .clean)] []).wellFormed = false := by decide
theorem test_wf_refuses_section_read_twice :
    (Instr.rebuildEnd [(7, .clean), (7, .corrected)] []).wellFormed = false := by decide
theorem test_wf_refuses_demand_without_bytes : (Instr.cycleDemand []).wellFormed = false := by decide
theorem test_wf_refuses_command_without_bytes :
    (Instr.queuedCommandArrival []).wellFormed = false := by decide
theorem test_wf_refuses_discard_without_bytes : (Instr.frameDiscard []).wellFormed = false := by decide
theorem test_wf_refuses_clear_without_bytes : (Instr.clearOverrun []).wellFormed = false := by decide
theorem test_wf_refuses_restart_without_bytes : (Instr.restart []).wellFormed = false := by decide
theorem test_wf_takes_rebuild : (Instr.rebuildEnd [(7, .clean), (8, .corrected)] []).wellFormed = true := by
  decide

/-! ## The opcode table and the link's words -/

/-- No row of the table gives bits, so no word spells a command. -/
theorem test_no_word_spells_a_command : decodeTableWord 16 0x1234 = none := by decide

/-- The checkword of the nine digits, the usual check value of R141's generator. -/
theorem test_checkword :
    crc16 [0x31, 0x32, 0x33, 0x34, 0x35, 0x36, 0x37, 0x38, 0x39] = 0x29B1 := by decide

/-- READ NOTICES, tag 2Ah, written out from R176: flag, kind, tag, length 0, checkword. -/
theorem test_frame_received :
    receive .hunting (frameBytes 0x03 0x2A []) = some (.hunting, some (.arrived 0x03 0x2A [])) := by decide

/-- A byte of the body that is 7Eh is data (R176). -/
theorem test_flag_in_body :
    receive .hunting (frameBytes 0x04 0x2A [0x7E, 0x00]) =
      some (.hunting, some (.arrived 0x04 0x2A [0x7E, 0x00])) := by decide

/-- A length over 600 is discarded at its second byte (R177). -/
theorem test_long_frame_discarded :
    receive .hunting [0x00, 0x7E, 0x03, 0x2A, 0x59, 0x02] = some (.hunting, some .discarded) := by decide

/-! ## AM -/

/-- The worked case of 1.11. -/
theorem test_candidate_speed : candidateSpeed 2 1067 120 6710 = 2997 := by decide

/-- The worked case of 1.11, the axle's entry after the window close. -/
theorem test_edge_window :
    axleWindow 1067 120 3000
      { resetSpeedFields with
        lastEdge := some 1000, speed := 2990, measured := true, edgeCount := 2, windowEdge := some 7710 } =
    { resetSpeedFields with
      lastEdge := some 7710, speed := 2997, prevSpeed := 2990, measured := true } := by decide

/-- 1.12, window n+3: the third quiet window at 20 km/h makes the axle LOCKED, its speed held. -/
theorem test_third_quiet_window_locks :
    (axleWindow 1067 120 2000 { resetSpeedFields with speed := 2000, measured := true, quiet := 2 }).sensor =
      .locked := by decide

/-- An edge is counted with the timer's value at it (R1); the timer wraps. -/
theorem test_edge_timestamp :
    ((nextOf (exec (.tachometerEdge .a2 5)
      { ready .run with am := { (ready .run).am with timer := 0xFFFFFFFE } })).am.axles.a2.windowEdge) =
      some 3 := by decide

/-! ## SP: the sequence of 2.11 -/

/-- AM's results of a window of 2.11: axle 2 at `v`, `p` in the window before. -/
def slideAm (p v : Nat) : AxleMonitor :=
  { resetAxleMonitor with
    refInternal := 30000
    axles := { PerAxle.all { resetSpeedFields with speed := 2995, prevSpeed := 2995, measured := true } with
      a2 := { resetSpeedFields with speed := v, prevSpeed := p, measured := true } } }

/-- The part of 2.11 before an SP evaluation. -/
def slideState (p v : Nat) (u : SlideUnit) : State :=
  { ready .run with
    am := slideAm p v
    sp := u
    co := { (ready .run).co with trucks := .both { resetTruckOutput with mode := .ep, measured := 48 } }
    demand := { resetDemand with direction := .forward, groups := ⟨⟨1100, true, true⟩, ⟨920, true, true⟩⟩ } }

/-- SP after w1 of 2.11. -/
def afterW1 : SlideUnit := (spEvaluate (slideState 2990 2800 (resetSlideUnit defaultParams.slide))).sp

theorem test_slide_w1 :
    (afterW1.axles.a2.creep, afterW1.axles.a2.decel, afterW1.axles.a2.decelHits, afterW1.axles.a2.sliding,
      afterW1.trucks.a.state) = (66, 190, 1, false, .idle) := by decide

/-- SP after w2 of 2.11. -/
def afterW2 : SlideUnit := (spEvaluate (slideState 2800 2740 afterW1)).sp

theorem test_slide_w2 :
    (afterW2.trucks.a.state, afterW2.trucks.a.limit, afterW2.trucks.a.cap, afterW2.axles.a2.creep,
      afterW2.sandForward.state, afterW2.trucks.b.state) =
    (.relieve, some 576, 1036, 86, .opened, .idle) := by decide

/-- SP after w6 of 2.11 from a truck at w5. -/
theorem test_slide_w6 :
    (spEvaluate (slideState 2880 2950
      { afterW2 with trucks := { afterW2.trucks with a := { afterW2.trucks.a with episode := 30 } } })
        ).sp.trucks.a.state = .hold := by decide

/-- 2.11, w151: L_g reaches Cap_g and the truck is IDLE. -/
theorem test_slide_w151 :
    (truckStep defaultParams.slide true false false 0
      ⟨.restore, 1480, 300, 0, some 1032, 1036, true, true⟩) = ⟨.idle, 0, 0, 0, none, 1036, true, false⟩ := by
  decide

/-- R33 with the defaults: 1036 recovers to 1080. -/
theorem test_adhesion_recovery :
    (nextOf (exec .adhesionRecovery
      { ready .run with sp := { (ready .run).sp with
          trucks := .both { resetTruckRecord defaultParams.slide with cap := 1036 } } })).sp.trucks.b.cap =
      1080 := by decide

/-- On entry to RUN each protected truck's cap is at nominal (R34, R196), and the first blend run in RUN starts
from 0 (R84). -/
theorem test_enter_run_caps :
    let s := withHead 0x0A [] { ready .setup with
      sp := { (ready .setup).sp with trucks := .both { resetTruckRecord defaultParams.slide with cap := 900 } } }
    let t := nextOf (exec .enterRun s)
    (t.sp.trucks.a.cap, t.sp.trucks.b.cap, t.bc.freshRun) = (2200, 2200, true) := by decide

/-! ## BPM: the sequence of 3.6 -/

/-- The record of 3.6 before sample s10. -/
def pipeS9 : BrakePipe :=
  { resetBrakePipe defaultParams.pipe with
    pressure := 480, history := List.replicate 10 480, reduction := 20, emergency := false }

/-- The record after samples s10, s11. -/
def pipeS11 : BrakePipe :=
  samplePipe defaultParams.pipe false false (.kPa 470)
    (samplePipe defaultParams.pipe false false (.kPa 476) pipeS9)

theorem test_pipe_s11 : (pipeS11.reduction, pipeS11.rateHits, pipeS11.emergency) = (30, 1, false) := by
  decide

/-- s12 sets the latch (RATE TRIGGER) and raises EMERGENCY. -/
theorem test_pipe_s12 :
    let t := nextOf (exec (.rateTrigger (.kPa 462)) { ready .run with bpm := pipeS11 })
    (t.bpm.rateHits, t.bpm.reduction, t.bpm.emergency, t.cx.notices) = (2, 38, true, 0x40) := by decide

/-- s14: an invalid sample holds P_bp and ends the rate hits. -/
theorem test_pipe_invalid :
    let b := samplePipe defaultParams.pipe false false .openCircuit { pipeS11 with rateHits := 2 }
    (b.pressure, b.rateHits, b.invalidCount) = (470, 0, 1) := by decide

/-! ## The curve, GT and BC -/

/-- The table of 5.1.1. -/
theorem test_curve_table :
    [0, 100, 450, 3000, 5000, 6500, 9000, 11000, 16000].map (curveEffort defaultParams.thermal) =
      [0, 400, 1530, 2300, 2134, 1688, 1215, 990, 900] := by decide

/-- The update of 5.7. -/
theorem test_thermal_update :
    thermalStep defaultParams 400 3000 ⟨920, true, true⟩ ⟨6600, 920, false⟩ = ⟨6440, 1288, false⟩ := by decide

/-- Updates g2 and g9 of 5.8. -/
theorem test_cutout_sets :
    thermalStep defaultParams 400 4000 ⟨2000, false, false⟩ ⟨6905, 218, false⟩ = ⟨7108, 0, true⟩ := by decide
theorem test_cutout_clears :
    thermalStep defaultParams 400 4000 ⟨0, true, true⟩ ⟨5654, 0, true⟩ = ⟨5444, 2300, false⟩ := by decide

/-- The part of 4.16 before a run, truck A's record given. -/
def blendState (a : TruckRecord) : State :=
  { ready .run with
    am := slideAm 2995 2995
    bpm := { (ready .run).bpm with pressure := 420, reduction := 80 }
    demand := { resetDemand with handle := 500, groups := ⟨⟨1100, true, true⟩, ⟨920, true, true⟩⟩ }
    gt := ⟨⟨400, 2300, false⟩, ⟨6600, 920, false⟩⟩
    co := { (ready .run).co with trucks := .both { resetTruckOutput with mode := .ep, measured := 48 } }
    sp := { (ready .run).sp with trucks := ⟨a, resetTruckRecord defaultParams.slide⟩ }
    bc := { resetBlendComputer with
      demandAge := 0
      trucks := ⟨{ zeroBlendTruck with dbRequest := 1150 }, { zeroBlendTruck with dbRequest := 920 }⟩ } }

/-- Run b of 4.16. -/
theorem test_blend_run_b :
    (nextOf (exec .blendRun (blendState (resetTruckRecord defaultParams.slide)))).bc.trucks =
      ⟨⟨1150, 2200, 1150, 0, 0, 0, 0, 0, 1150, 50, 48⟩, ⟨1150, 920, 920, 230, 0, 0, 0, 0, 920, 230, 93⟩⟩ := by
  decide

/-- Run b+1 of 4.16: truck A in RELIEVE, its residual carried by truck B as air. -/
theorem test_blend_run_b1 :
    (nextOf (exec .blendRun (blendState ⟨.relieve, 0, 0, 0, some 576, 1036, true, true⟩))).bc.trucks =
      ⟨⟨1150, 576, 576, 0, 574, 0, 0, 0, 576, 0, 0⟩,
       ⟨1150, 920, 920, 230, 0, 0, 574, 0, 920, 804, 236⟩⟩ := by decide

/-- The first run in RUN starts DBR_g from 0, whatever it was before (R84): one up step of 12. -/
theorem test_first_run_starts_from_zero :
    let s := blendState (resetTruckRecord defaultParams.slide)
    let t := nextOf (exec .blendRun { s with bc := { s.bc with freshRun := true } })
    (t.bc.trucks.a.dbRequest, t.bc.trucks.b.dbRequest, t.bc.freshRun) = (12, 12, false) := by decide

/-- Run e1 of 4.17: the emergency with the dynamic brake retained. -/
theorem test_emergency_run :
    (let p := { defaultParams.blend with dbRetained := true }
     let i : TruckInputs := ⟨1840, 2200, 2134, .idle, true, true, 0, 1840⟩
     plainTruck p p.pEm 1840 i (emergencyOwn p i)) =
    ⟨1840, 2134, 540, 1660, 0, 0, 0, 0, 1810, 1660, 450⟩ := by decide

/-- The fourth run without a demand loses the link (3.9, run b4). -/
theorem test_link_loss :
    let t := nextOf (exec .linkLoss { ready .run with bc := { resetBlendComputer with demandAge := 3 } })
    (t.bc.demandAge, t.cx.notices) = (4, 0x20) := by decide

/-! ## CO: lines of 6.10 -/

theorem test_command_independent :
    baseCommand defaultParams.blend true false 48 0 150 = 150 := by decide
theorem test_command_restore :
    overrideCommand defaultParams.blend true ⟨.restore, 0, 0, 0, some 800, 2200, true, true⟩ 700 91 = 60 := by
  decide
theorem test_command_relieved_in_emergency :
    overrideCommand defaultParams.blend true ⟨.relieve, 0, 0, 0, some 1615, 2200, true, true⟩ 0
      (baseCommand defaultParams.blend true true 0 0 150) = 0 := by decide

/-- 6.12, c300: the timer reaches the air-fault time and the truck turns PNEUMATIC. -/
theorem test_air_fault :
    supervise defaultParams.supervision 236
      { resetTruckOutput with mode := .ep, measured := 95, measuredValid := true, deviation := 2990 } =
    { resetTruckOutput with measured := 95, measuredValid := true, airFault := true } := by decide

/-! ## CU and SC -/

/-- The directory of 7.11: 32 records, of which 13 is RELEASED and 12 protected. -/
def fullDirectory : List DirEntry :=
  (List.range 32).map (fun i =>
    ⟨i + 12, 0, if i = 1 then .released else .held, i == 0, 16 * i, 2, 8, some .complete, some (16 * i + 1)⟩)

/-- The part of 7.11 before c0, its ring empty. -/
def beforeC0 : State :=
  { ready .run with
    sc := { (ready .run).sc with
      directory := fullDirectory, nextNumber := 44, nextSequence := 700, position := 1024 }
    cu := { (ready .run).cu with
      missed := 2, prevMatch := [true, true, false, true, true, true, true, true] }
    sp := { (ready .run).sp with lockoutCond := ⟨true, false⟩ } }

/-- 7.11, c0: record 13 is dropped and 44 is FILLING at the writer's position. -/
theorem test_opening_directory :
    (nextOf (exec .capture beforeC0)).sc.directory.map (fun e => (e.number, e.state == .filling)) =
      (12, false) :: ((List.range 30).map (fun i => (i + 14, false)) ++ [(44, true)]) := by decide

/-- 7.11, c0: the record takes over the missed count. -/
theorem test_opening_record :
    ((nextOf (exec .capture beforeC0)).cu.opened.map (fun r => (r.number, r.missed, r.endIndex))) =
      some (44, 2, 100) := by decide

/-- R147: a protected HELD record in the ahead block begins the store-full state. -/
theorem test_store_full :
    let t := examine { ready .run with sc := { (ready .run).sc with
      directory := [⟨12, 0, .held, true, 16, 4, 8, some .complete, some 19⟩], position := 0 } }
    (t.sc.storeFull, t.sc.eraseAhead, t.cx.notices) = (true, .due false, 0x80) := by decide

/-- R149: a mark reads as released when at least four bits are 0. -/
theorem test_mark_reads :
    (markReleased (List.replicate 510 0 ++ [0xF0]), markReleased (List.replicate 510 0 ++ [0xF8])) =
      (true, false) := by decide

/-- The rebuild of an erased store: number 1, sequence 0, position 0 with the block beyond erased ahead
(R159). -/
theorem test_rebuild_empty :
    let t := nextOf (exec (.rebuildEnd [] []) { ready .startup with
      cx := { resetExecutor with loadEnded := true } })
    (t.sc.nextNumber, t.sc.nextSequence, t.sc.position, t.sc.eraseAhead, t.cx.mode) =
      (1, 0, 0, .done, .setup) := by decide

/-- R139: the default map's first write goes to the first copy with generation 1. -/
theorem test_initial_map_write :
    let t := nextOf (exec (.mapWriteComplete true) State.reset)
    (t.medium.copy1.generation, t.medium.copy1.valid, t.medium.copy2.valid, t.sc.port) =
      (1, true, false, none) := by decide

/-- R139: a map write that fails is repeated to the same copy, and the other copy is untouched. -/
theorem test_map_write_repeats :
    let t := nextOf (exec (.mapWriteComplete false) State.reset)
    (t.sc.mapRetry, t.medium.copy2.valid, t.medium.copy1.generation) = (some .first, false, 1) := by decide

/-- R138: an erased section reads CLEAN with every byte FFh, whatever the medium is said to report. -/
theorem test_erased_reads_clean :
    (readOutcome blankMedium 7 .uncorrectable, readOutcome blankMedium 7 .corrected) = (.clean, .clean) := by
  decide

/-- R4: a window with edges makes a LOCKED axle NORMAL. -/
theorem test_axle_window_unlocks :
    (axleWindow 1067 120 2000 { resetSpeedFields with
      speed := 2000, measured := true, quiet := 9, sensor := .locked, edgeCount := 1, windowEdge := some 5 }
      ).sensor = .normal := by decide

/-! ## LI and CX -/

/-- A CYCLE DEMAND with D_h 1001 is accepted with 1000 (R53), and its report of 37 body bytes goes on the
line in a frame of 7 bytes more, the flag among them (R176, assumption log 16). -/
theorem test_cycle_demand :
    let t := nextOf (exec (.cycleDemand (frameBytes 0x01 0x07 ([0xE9, 0x03] ++ List.replicate 25 0)))
      (ready .run))
    (t.demand.handle, t.bc.demandAge, sent t, (t.li.tx.map (·.bytes.length))) =
      (1000, 0, some (0x81, 0x07, 0x00), some 44) := by decide

/-- The fifth command meets BUSY and sets the latch (R180, 10.9). -/
theorem test_fifth_command_busy :
    let s := { ready .run with li := { resetLinkInterface with queue := List.replicate 4 ⟨0x02, 1, []⟩ } }
    let t := nextOf (exec (.queuedCommandArrival (frameBytes 0x03 0x0E [])) s)
    (t.li.overrun, t.li.queue.length, sent t, t.cx.notices) =
      (true, 4, some (0x83, 0x0E, 0x01), 0x1000) := by decide

/-- ENTER RUN is refused while the defaults flag is set (11.6, 1500 ms). -/
theorem test_enter_run_defaults :
    let s := withHead 0x0A [] { ready .setup with pm := { State.reset.pm with defaultsFlag := true } }
    let t := nextOf (exec .enterRun s)
    (t.cx.mode, sent t) = (.setup, some (0x8A, 0x2A, 0x07)) := by decide

/-- ENTER RUN in SETUP with the flag clear (11.6, 12 s). -/
theorem test_enter_run :
    let t := nextOf (exec .enterRun (withHead 0x0A [] (ready .setup)))
    (t.cx.mode, sent t, t.li.queue) = (.run, some (0x8A, 0x2A, 0x00), []) := by decide

/-- WRITE PARAMETER of a diameter in RUN is refused with WRONG MODE; a number of no group with UNKNOWN
PARAMETER (R199). -/
theorem test_write_wrong_mode :
    sent (nextOf (exec .writeParameter (withHead 0x07 [0x00, 0x01, 0x10, 0x04, 0, 0] (ready .run)))) =
      some (0x87, 0x2A, 0x07) := by decide
theorem test_write_unknown :
    sent (nextOf (exec .writeParameter (withHead 0x07 [0x00, 0x08, 0x10, 0x04, 0, 0] (ready .run)))) =
      some (0x87, 0x2A, 0x05) := by decide

/-- WRITE PARAMETER 0100h with 1040 in SETUP (11.6, 1600 ms). -/
theorem test_write_diameter :
    (nextOf (exec .writeParameter
      (withHead 0x07 [0x00, 0x01, 0x10, 0x04, 0, 0] (ready .setup)))).pm.params.motion.diameter.a1 = 1040 := by
  decide

/-- The default image is good (R200), and saving it clears the defaults flag (R201). -/
theorem test_save :
    let s := withHead 0x08 [] { ready .setup with
      pm := { State.reset.pm with defaultsFlag := true, saving := true } }
    let t := nextOf (exec (.saveComplete true) s)
    (t.pm.defaultsFlag, t.pm.image.checkwordPasses, sent t) = (false, true, some (0x88, 0x2A, 0x00)) := by
  decide

/-- READ INCIDENT of a record the directory has not (R161). -/
theorem test_no_record :
    sent (nextOf (exec .readIncident (withHead 0x0F [0x2C, 0, 0, 0, 8] (ready .setup)))) =
      some (0x8F, 0x2A, 0x08) := by decide

/-- SET READ BURST 3 is refused and leaves the burst 1 (R163). -/
theorem test_bad_burst :
    let s := withHead 0x12 [3] { ready .setup with sc := { (ready .setup).sc with burst := 4 } }
    let t := nextOf (exec .setReadBurst s)
    (t.sc.burst, sent t) = (1, some (0x92, 0x2A, 0x06)) := by decide

/-- A kind of none is answered FFh with UNKNOWN KIND (R176, R182). -/
theorem test_unknown_kind :
    sent (nextOf (exec .unknownKind (withHead 0x55 [1, 2, 3] (ready .setup)))) = some (0xFF, 0x2A, 0x04) := by
  decide

/-- RESTART withdraws the outputs and sets STARTUP at once (R203). -/
theorem test_restart :
    let s := { ready .run with co := { (ready .run).co with
      trucks := .both { resetTruckOutput with mode := .ep, pCmd := some 100 } } }
    let t := nextOf (exec (.restart (frameBytes 0x1F 0x01 [])) s)
    (t.cx.mode, t.co.trucks.a.pCmd, t.li.closing, sent t) =
      (.startup, none, true, some (0x9F, 0x01, 0x00)) := by decide

/-- An image being written is left bad by a loss of power (R201). -/
theorem test_power_loss_saving :
    let t := nextOf (exec .powerLoss { ready .setup with
      pm := { State.reset.pm with image := ⟨defaultParams, true⟩, saving := true } })
    (t.powered, t.pm.image.checkwordPasses) = (false, false) := by decide

/-! ## Witnesses

For each statement of Obligations.lean with hypotheses, one concrete state and operands that meet them all; for
one with several clauses, one for each clause, at the bounds of its ranges. -/

/-- `s` with a store operation at the port. -/
def atPort (a : Agent) (op : StoreOp) (s : State) : State :=
  { s with sc := { s.sc with port := some ⟨a, op, false⟩ } }

/-- `s` with one command waiting to act. -/
def waiting (c : Instr) (s : State) : State := { s with pending := [c] }

theorem witness_step : (waiting .blendRun (ready .run)).pending = .blendRun :: [] := by decide

theorem witness_power_on :
    { State.reset with powered := false }.powered = false ∧
    (let s := { ready .startup with li := { resetLinkInterface with closing := true, restartSent := true } }
     s.powered = true ∧ closingEnded s = true) := by decide

/-- A store with map copies of two generations, each valid or not. -/
def twoMaps (g1 g2 : Word32) (v1 v2 : Bool) : Medium :=
  { blankMedium with copy1 := ⟨g1, initialMap, v1⟩, copy2 := ⟨g2, initialMap, v2⟩ }

theorem witness_power_on_maps :
    let ahead := fun m : Medium => (m.copy2.generation - m.copy1.generation).toNat
    (1 ≤ ahead (twoMaps 4294967295 0 true true) ∧ ahead (twoMaps 0 2147483647 true true) ≤ 2147483647) ∧
    2147483649 ≤ ahead (twoMaps 2147483647 0 true true) ∧
    ((twoMaps 1 2 true false).copy1.valid = true ∧ (twoMaps 1 2 true false).copy2.valid = false) ∧
    ((twoMaps 1 2 false true).copy1.valid = false ∧ (twoMaps 1 2 false true).copy2.valid = true) := by decide

theorem witness_parameter_load :
    (State.reset.powered = true ∧ State.reset.cx.loadEnded = false ∧ State.reset.li.closing = false) ∧
    imageGood State.reset.pm.image = false ∧ imageGood ⟨defaultParams, true⟩ = true := by decide

theorem witness_rebuild :
    let s := { ready .startup with cx := resetExecutor }
    s.powered = true ∧ rebuilding s = true ∧ mapInStore s.sc.map = true ∧ s.medium.cells = [] ∧
    s.medium.unknown = [] ∧ s.cu.opened = none ∧ s.sc.recovery = none ∧ s.sc.pendingMarks = [] := by decide

/-- A store that holds one whole record, number 44, in its first two sections: HEADER and TRAILER. -/
def oneRecord : Medium :=
  programSection (programSection blankMedium 0 (sectionOf 1 true 44 0 0 0 (List.replicate 498 0xFF))) 1
    (sectionOf 3 false 44 1 1 0 (List.replicate 498 0xFF))

/-- The part about to end its rebuild over that store. -/
def overOneRecord : State := { ready .startup with cx := resetExecutor, medium := oneRecord }

theorem witness_rebuild_record_sections :
    let bytes := fun j => sectionBytes oneRecord (physicalSection initialMap ((0 + j) % 2048))
    ∀ j, j ≤ 1 → sectionNumber (bytes j) = 44 ∧ sectionIndex (bytes j) = j ∧
      sectionAddr (bytes j) = (0 + j) % 2048 ∧ checkwordPasses (bytes j) = true ∧
      sectionKind (bytes j) = (if j = 0 then 1 else if j = 1 then 3 else 2) := by decide +kernel

/-- Every listed byte of that store is in its first two sections. -/
theorem oneRecord_cells : oneRecord.cells.all (fun c => c.1 < 1024) = true := by decide +kernel

/-- The initial map puts every logical section at the physical section of the same number. -/
theorem initialMap_section (a : Nat) (h : a < 2048) : physicalSection initialMap a = a := by
  have hb : a / 16 < 128 := by omega
  have : physicalBlock initialMap (blockOf a) = a / 16 := by
    show (List.range 128).getD (a / 16) _ = _
    simp [hb]
  rw [physicalSection, this]
  omega

theorem witness_rebuild_record_rest (a : Nat) (ha : a < 2048) (h : 1 < (a + 2048 - 0) % 2048) :
    sectionCells oneRecord (physicalSection initialMap a) = [] := by
  have hc := List.all_eq_true.mp oneRecord_cells
  rw [initialMap_section a ha, sectionCells, List.filter_eq_nil_iff]
  intro c hm
  have hlt : c.1 < 1024 := by simpa using hc c hm
  have hlo : 1024 ≤ a * sectionSize := by
    unfold sectionSize
    omega
  simp only [Bool.and_eq_true, decide_eq_true_eq]
  omega

/-- The same store with a damaged section at slot 9, behind an erased hole. -/
def recordAndDamage : Medium := programSection oneRecord 9 (List.replicate 510 0x02)

theorem recordAndDamage_cells :
    recordAndDamage.cells.all (fun c => c.1 < 1024 || (4608 ≤ c.1 && c.1 < 5120)) = true := by decide +kernel

theorem witness_rebuild_damage_sections :
    let bytes := fun j => sectionBytes recordAndDamage (physicalSection initialMap ((0 + j) % 2048))
    ∀ j, j ≤ 1 → sectionNumber (bytes j) = 44 ∧ sectionIndex (bytes j) = j ∧
      sectionAddr (bytes j) = (0 + j) % 2048 ∧ checkwordPasses (bytes j) = true ∧
      sectionKind (bytes j) = (if j = 0 then 1 else if j = 1 then 3 else 2) := by decide +kernel

theorem witness_rebuild_damage_rest (a : Nat) (ha : a < 2048) (h : 1 < (a + 2048 - 0) % 2048) :
    sectionCells recordAndDamage (physicalSection initialMap a) = [] ∨ (a / 16 = (0 + 1) % 2048 / 16 ∧ (0 + 1) % 2048 < a ∧
      sectionKind (sectionBytes recordAndDamage (physicalSection initialMap a)) ≠ 0xFF ∧
      checkwordPasses (sectionBytes recordAndDamage (physicalSection initialMap a)) = false) := by
  rcases Nat.lt_trichotomy a 9 with h9 | rfl | h9
  · left
    have hc := List.all_eq_true.mp recordAndDamage_cells
    rw [initialMap_section a ha, sectionCells, List.filter_eq_nil_iff]
    intro c hm
    have hlt := hc c hm
    unfold sectionSize
    simp only [Bool.or_eq_true, Bool.and_eq_true, decide_eq_true_eq] at hlt ⊢
    omega
  · right
    decide +kernel
  · left
    have hc := List.all_eq_true.mp recordAndDamage_cells
    rw [initialMap_section a ha, sectionCells, List.filter_eq_nil_iff]
    intro c hm
    have hlt := hc c hm
    unfold sectionSize
    simp only [Bool.or_eq_true, Bool.and_eq_true, decide_eq_true_eq] at hlt ⊢
    omega

/-- R159, R140: the position comes behind the last section of its block that is not erased, also behind a hole, past
slot 15 into the next block, and stays where all behind it is erased. -/
theorem test_position_passes_used_sections :
    (skipUsed [(9, .other), (17, .other)] 2, skipUsed [(15, .other)] 2, skipUsed [(16, .other)] 2,
      skipUsed [(2047, .other)] 2047, skipUsed [(3, .usable [])] 3) = (10, 16, 2, 0, 4) := by decide

/-- The part in STARTUP with no block to recover with. -/
def wornAtStart : State :=
  let s := ready .startup
  { s with cx := { resetExecutor with loadEnded := true }, sc := { s.sc with
      map := { initialMap with states := List.replicate 128 .mapped ++ List.replicate 8 .retired } } }

theorem witness_rebuild_unerased :
    let s := wornAtStart
    s.powered = true ∧ rebuilding s = true ∧ mapInStore s.sc.map = true ∧ s.medium.cells = [] ∧
    s.medium.unknown = [] ∧ s.cu.opened = none ∧ s.sc.recovery = none ∧ s.sc.pendingMarks = [] ∧
    NoSpare s.sc.map ∧ s.sc.relocation = none ∧ s.sc.storeFull = false ∧
    physicalBlock s.sc.map 0 ≠ physicalBlock s.sc.map 1 := by decide

/-- R159, R151: block 0 fails its erase with no spare; block 1 is erased ahead all the same, or fails too. -/
theorem test_rebuild_unerased :
    let after := fun ok => nextOf (exec (.rebuildEnd [] [(.clean, false), (.clean, ok)]) wornAtStart)
    ((after true).sc.seat, (after true).sc.storeFull, (after true).sc.aheadErased, (after true).cx.notices,
      (after true).medium.unknown.length) = (.unerased, true, true, 0x0180, 16) ∧
    ((after false).sc.seat, (after false).sc.storeFull, (after false).sc.aheadErased, (after false).sc.eraseAhead,
      (after false).medium.unknown.length) = (.unerased, true, false, .due false, 32) := by decide +kernel

/-- The rebuild's position at slot 0 of block 1, which a protected HELD record holds; another record lies in block 2. -/
def atProtectedBlock (protect : Bool) : State :=
  let s := ready .startup
  { s with
    cx := { resetExecutor with loadEnded := true }
    medium := { blankMedium with cells := [⟨32 * 512, 1⟩] }
    sc := { s.sc with
      position := 16, seat := .unerased, storeFull := true, eraseAhead := .due false
      directory := [⟨12, 0, .held, true, 16, 4, 8, some .complete, some 19⟩,
        ⟨13, 1, .held, protect, 32, 4, 8, some .complete, some 35⟩] } }

/-- R159: the erase-ahead of block 2 is performed also where block 1 may not be erased: a record in it that may be
reclaimed is dropped and its block erased; a protected one keeps it. -/
theorem test_erase_ahead_beyond_protected :
    let after := fun protect => (eraseAheadStep (atProtectedBlock protect, [])).1
    ((after false).sc.directory.map (·.number), (after false).medium.cells, (after false).sc.aheadErased,
      (after false).sc.seat, (after false).sc.storeFull, (after false).sc.eraseAhead) =
        ([12], [], true, .unerased, true, .due false) ∧
    ((after true).sc.directory.map (·.number), (after true).medium.cells, (after true).sc.aheadErased,
      (after true).sc.storeFull) = ([12, 13], [⟨32 * 512, 1⟩], false, true) := by decide +kernel

theorem witness_rebuild_record :
    let s := overOneRecord
    s.powered = true ∧ rebuilding s = true ∧ mapInStore s.sc.map = true ∧ s.sc.map = initialMap ∧
    s.medium.unknown = [] ∧ s.cu.opened = none ∧ s.sc.recovery = none ∧ s.sc.pendingMarks = [] ∧
    s.medium = oneRecord ∧ recordAndDamage.unknown = [] ∧ s.sc.storeFull = false := by decide +kernel

theorem witness_power_loss :
    (ready .run).powered = true ∧ (ready .run).sc.port = none ∧
    (atPort .writer (.program .header 0 2175 []) (ready .run)).sc.port =
      some ⟨.writer, .program .header 0 2175 [], false⟩ ∧
    (atPort .writer (.erase 135) (ready .run)).sc.port = some ⟨.writer, .erase 135, false⟩ := by decide

theorem witness_power_loss_operations :
    (atPort .relocator (.copy 63 2063) (ready .run)).sc.port = some ⟨.relocator, .copy 63 2063, false⟩ ∧
    isErased blankMedium 63 = true ∧ isErased { blankMedium with unknown := [63] } 63 = false ∧
    blankMedium.wf = true ∧ (atPort .writer (.mark 44 [0, 2175]) (ready .run)).sc.port =
      some ⟨.writer, .mark 44 [0, 2175], false⟩ ∧
    (atPort .relocator (.erase 0) (ready .run)).sc.port = some ⟨.relocator, .erase 0, false⟩ ∧
    (atPort .reader (.read 5 5) (ready .run)).sc.port = some ⟨.reader, .read 5 5, false⟩ ∧
    State.reset.sc.port = some ⟨.writer, .mapWrite .initial, false⟩ ∧ State.reset.sc.mapRetry = none ∧
    State.reset.medium.copy1.valid = false := by decide

/-- R139: a map write cut short leaves the copy that holds the newest map. -/
theorem test_power_loss_map_write :
    let s := { atPort .relocator (.mapWrite (.retire 128)) (ready .run) with medium := twoMaps 7 6 true true }
    let t := nextOf (exec .powerLoss s)
    (t.medium.copy1, t.medium.copy2.generation) = (⟨7, initialMap, true⟩, 8) := by decide +kernel

theorem witness_outside_moment :
    { State.reset with powered := false }.powered = false ∧ Instr.blendRun ≠ .powerOn ∧
    State.reset.timersRunning = false ∧ (ready .run).sc.port = none ∧ (ready .run).cx.loadEnded = true ∧
    rebuilding (ready .run) = false ∧ (ready .run).li.tx = none ∧ (ready .run).pm.saving = false ∧
    closingEnded (ready .run) = false ∧ cxMayTake State.reset = false ∧ (ready .run).li.queue = [] ∧
    (withHead 0x03 [] (ready .run)).li.queue.head? = some ⟨0x03, 0x2A, []⟩ ∧ (0x03 : Byte) ≠ 0x02 := by
  decide

theorem witness_edge :
    (ready .run).powered = true ∧ (ready .run).timersRunning = true ∧
    ((ready .run).am.axles.get .a1).sensor ≠ .faulted ∧ State.reset.powered = true ∧
    State.reset.timersRunning = false ∧
    ((PerAxle.all { resetSpeedFields with sensor := .faulted }).get .a6).sensor = .faulted := by decide

theorem witness_candidate :
    (0 < 120) ∧ candidateSpeed 2 1067 120 6710 < 16000 ∧ candidateSpeed 255 1270 240 250000 ≤ 16000 := by
  decide

/-- An axle at `v` with `k` edges in the window and quiet count `q`. -/
def axleAt (v k q : Nat) : SpeedFields :=
  { resetSpeedFields with
    speed := v, measured := true, edgeCount := k, quiet := q, lastEdge := some 0
    windowEdge := if k = 0 then none else some 250000 }

theorem witness_axle_window :
    (axleAt 2000 0 23).sensor ≠ .faulted ∧ (axleAt 2000 0 23).edgeCount = 0 ∧
    min 255 ((axleAt 2000 0 23).quiet + 1) = 24 ∧ min 255 ((axleAt 2000 0 24).quiet + 1) = 25 ∧
    (axleAt 2000 1 0).edgeCount ≠ 0 ∧
    usableInterval (axleAt 2000 1 0).lastEdge (axleAt 2000 1 0).windowEdge = some 250000 ∧
    usableInterval (some 0) (some 250001) = none ∧
    (let c := candidateSpeed 1 1067 120 250000; ¬(2000 + 2000 < c ∨ c + 2000 < 2000) ∧ c + 2000 < 3000) := by
  decide

/-- The part in RUN with every axle alike and the reference at 20 km/h. -/
def moving (x : SpeedFields) : State :=
  { ready .run with am := { resetAxleMonitor with refInternal := 20000, axles := .all x } }

theorem witness_window :
    (ready .run).powered = true ∧ (ready .run).timersRunning = true ∧
    ((ready .run).am.axles.get .a1).sensor ≠ .faulted ∧
    ((amWindow (ready .run)).axles.get .a1).sensor ≠ .faulted ∧
    (let s := moving { resetSpeedFields with sensor := .faulted }
     ∀ i ∈ allAxles, ((amWindow s).axles.get i).sensor = .faulted) := by decide

theorem witness_reference :
    (let s := { moving (axleAt 2000 0 0) with
       demand := { resetDemand with groundSpeed := some 16000 }
       bc := { resetBlendComputer with demandAge := 1 } }
     s.demand.groundSpeed = some 16000 ∧ s.bc.demandAge ≤ 1) ∧
    (let s := { moving { resetSpeedFields with sensor := .faulted } with
       bc := { resetBlendComputer with demandAge := 2 } }
     2 ≤ s.bc.demandAge ∧ ((amWindow s).axles.get .a1).sensor = .faulted ∧
       ((amWindow s).axles.get .a2).sensor = .faulted ∧ ((amWindow s).axles.get .a3).sensor = .faulted ∧
       ((amWindow s).axles.get .a4).sensor = .faulted ∧ ((amWindow s).axles.get .a5).sensor = .faulted ∧
       ((amWindow s).axles.get .a6).sensor = .faulted) ∧
    (let s := moving (axleAt 2000 0 0)
     s.demand.groundSpeed = none ∧ ((amWindow s).axles.get .a1).sensor ≠ .faulted ∧
       ((amWindow s).axles.get .a1).speed = 2000 ∧
       ∀ i ∈ allAxles, ((amWindow s).axles.get i).sensor ≠ .faulted → ((amWindow s).axles.get i).speed ≤ 2000) := by
  decide

/-- Truck A relieved with axle 1 locked and the others turning at the reference. -/
def lockedAxle : State :=
  { moving (axleAt 2000 0 0) with
    am := { resetAxleMonitor with
      refInternal := 20000
      axles := { PerAxle.all (axleAt 2000 0 0) with a1 := { axleAt 2000 0 4 with sensor := .locked } } }
    sp := { resetSlideUnit defaultParams.slide with
      axles := { PerAxle.all resetSlideFields with a1 := { resetSlideFields with faultTime := 1490 } }
      trucks := .both { resetTruckRecord defaultParams.slide with state := .relieve, limit := some 500 } } }

theorem witness_axle_rows :
    (let s := moving (axleAt 2000 0 2)
     (s.am.axles.get .a1).sensor ≠ .faulted ∧ (s.am.axles.get .a1).edgeCount = 0 ∧
       2 ≤ (s.am.axles.get .a1).quiet ∧ (s.am.axles.get .a1).quiet ≤ 23 ∧ 1000 ≤ reportedRef s.am) ∧
    24 ≤ ((moving (axleAt 2000 0 24)).am.axles.get .a1).quiet ∧
    (let s := moving { axleAt 6000 1 0 with implausible := 2 }
     (s.am.axles.get .a1).sensor ≠ .faulted ∧ (s.am.axles.get .a1).edgeCount ≠ 0 ∧
       (s.am.axles.get .a1).measured = true ∧ (s.am.axles.get .a1).implausible = 2 ∧
       usableInterval (s.am.axles.get .a1).lastEdge (s.am.axles.get .a1).windowEdge = some 250000 ∧
       candidateSpeed 1 1067 120 250000 + 2000 < 6000) ∧
    (let s := lockedAxle
     s.powered = true ∧ s.timersRunning = true ∧ s.cx.mode = .run ∧ lowSpeed (amWindow s) = false ∧
       ((amWindow s).axles.get .a1).sensor = .locked ∧ (s.sp.trucks.get (truckOf .a1)).state = .relieve ∧
       AxleNo.a2 ≠ .a1 ∧ truckOf .a2 = truckOf .a1 ∧ ((amWindow s).axles.get .a2).sensor = .normal ∧
       creepOf (reportedRef (amWindow s)) ((amWindow s).axles.get .a2).speed ≤ s.pm.params.slide.creepOff ∧
       s.pm.params.slide.sensorFaultTime ≤ (s.sp.axles.get .a1).faultTime + 10) := by decide

/-- `lockedAxle` with axle 1's fault time at 100 ms and truck A's episode timer given. -/
def lockedEpisode (episode : Nat) : State :=
  { lockedAxle with sp := { lockedAxle.sp with
      axles := { PerAxle.all resetSlideFields with a1 := { resetSlideFields with faultTime := 100 } }
      trucks := .both { resetTruckRecord defaultParams.slide with
        state := .relieve, limit := some 500, episode := episode } } }

/-- The part one window on, both transducers at 48 kPa. -/
def closed (s : State) : State := nextOf (exec (.windowClose (.kPa 48) (.kPa 48)) s)

theorem witness_slide :
    (axleAt 2000 0 0).sensor ≠ .faulted ∧
    (let t := closed (lockedEpisode 0)
     (lockedEpisode 0).powered = true ∧ (lockedEpisode 0).timersRunning = true ∧
       ((amWindow (lockedEpisode 0)).axles.get .a1).sensor = .locked ∧
       (t.am.axles.get .a2).sensor = .normal ∧
       (t.sp.axles.get .a2).creep ≤ (lockedEpisode 0).pm.params.slide.creepOff ∧
       (t.am.axles.get .a1).sensor ≠ .faulted ∧ (t.sp.trucks.get (truckOf .a1)).state ≠ .lockout) ∧
    ((closed lockedAxle).am.axles.get .a1).sensor = .faulted := by decide

/-- R23, R32: within an episode the fault time of a LOCKED axle advances, and at the evaluation that enters LOCKOUT it
is 0, the axle LOCKED still; R24 the slide fields of one made FAULTED. -/
theorem test_lockout_ends_fault_time :
    ((closed (lockedEpisode 0)).sp.axles.get .a1).faultTime = 110 ∧
    (let t := closed (lockedEpisode 3990)
     ((t.sp.axles.get .a1).faultTime, (t.am.axles.get .a1).sensor, (t.sp.trucks.get .a).state) =
       (0, .locked, .lockout)) ∧
    (closed lockedAxle).sp.axles.get .a1 = ⟨0, 0, 0, false, 0, true⟩ := by decide

/-- A protected truck record in a given state, its limit held. -/
def truckIn (st : CorrState) (episode timer : Nat) : TruckRecord :=
  ⟨st, episode, timer, timer, some 500, 1036, true, true⟩

theorem witness_truck :
    ({ truckIn .restore 0 0 with isProtected := false }.isProtected = false ∧
      { truckIn .restore 0 0 with isProtected := false }.state ≠ .idle ∧
      { truckIn .idle 0 0 with isProtected := false }.state = .idle) ∧
    (truckIn .idle 0 0).isProtected = true ∧ (truckIn .idle 0 0).state = .idle ∧
    (let p := defaultParams.slide
     p.corrMax ≤ (truckIn .relieve 3990 0).episode + 10 ∧ ¬p.corrMax ≤ (truckIn .hold 3980 0).episode + 10 ∧
       (truckIn .restore 0 0).limit = some 500 ∧ (truckIn .restore 0 0).state = .restore ∧
       p.lockoutTime ≤ (truckIn .lockout 0 9990).lockoutTimer + 10 ∧
       ¬p.lockoutTime ≤ (truckIn .lockout 0 9980).lockoutTimer + 10) := by decide

/-- The part moving with both trucks in a given record. -/
def withTrucks (t : TruckRecord) : State :=
  { moving (axleAt 2000 0 0) with sp := { resetSlideUnit defaultParams.slide with trucks := .both t } }

/-- The part moving forward with sand asked for and the forward valve given. -/
def withSand (v : SandValve) : State :=
  { moving (axleAt 2000 0 0) with
    demand := { resetDemand with direction := .forward, hostSand := true }
    sp := { resetSlideUnit defaultParams.slide with sandForward := v } }

theorem witness_timer_rows :
    (let s := withTrucks (truckIn .hold 0 290)
     s.cx.mode = .run ∧ protectedBy (windowAxles s) .a = true ∧ lowSpeed (amWindow s) = false ∧
       (s.sp.trucks.get .a).state = .hold ∧ windowSlide s .a = false ∧
       (s.sp.trucks.get .a).episode + 10 < s.pm.params.slide.corrMax ∧
       s.pm.params.slide.holdTime ≤ (s.sp.trucks.get .a).holdTimer + 10) ∧
    (let s := withTrucks (truckIn .restore 3990 0)
     s.cx.mode = .run ∧ protectedBy (windowAxles s) .b = true ∧ lowSpeed (amWindow s) = false ∧
       (s.sp.trucks.get .b).state = .restore ∧
       s.pm.params.slide.corrMax ≤ (s.sp.trucks.get .b).episode + 10) ∧
    (let s := withTrucks (truckIn .lockout 4000 9990)
     s.cx.mode = .run ∧ protectedBy (windowAxles s) .a = true ∧ (s.sp.trucks.get .a).state = .lockout ∧
       s.pm.params.slide.lockoutTime ≤ (s.sp.trucks.get .a).lockoutTimer + 10) ∧
    (let s := withSand ⟨.opened, 19990, 0⟩
     (valveOf s.sp .forward).state = .opened ∧ s.demand.direction = .forward ∧
       (usedDemand s).hostSand = true ∧ (amWindow s).standstill = false ∧
       s.pm.params.slide.sandMax * 1000 ≤ (valveOf s.sp .forward).openTime + 10) ∧
    (let s := withSand ⟨.resting, 20000, 9990⟩
     (valveOf s.sp .forward).state = .resting ∧
       s.pm.params.slide.sandRest * 1000 ≤ (valveOf s.sp .forward).restTime + 10) := by decide

theorem witness_valves :
    (let t := closed (withSand ⟨.closed, 0, 0⟩)
     (withSand ⟨.closed, 0, 0⟩).demand.direction = .forward ∧ t.am.standstill = false ∧
       (withSand ⟨.closed, 0, 0⟩).demand.hostSand = true ∧ (withSand ⟨.closed, 0, 0⟩).bc.demandAge < 4) ∧
    (∃ g, ((closed (withTrucks (truckIn .relieve 0 0))).sp.trucks.get g).sandDemand = true) ∧
    (withSand ⟨.opened, 19980, 0⟩).sp.sandForward.openTime + 10 < defaultParams.slide.sandMax * 1000 ∧
    (withSand ⟨.resting, 0, 9980⟩).sp.sandForward.restTime + 10 < defaultParams.slide.sandRest * 1000 :=
  ⟨by decide, ⟨.a, by decide⟩, by decide, by decide⟩

/-- R39: a valve opens with its request, closes as the direction changes, and advances its open and its rest time. -/
theorem test_sand_valve :
    let valve := fun s : State => (closed s).sp.sandForward
    let turned := { withSand ⟨.opened, 50, 0⟩ with demand := { resetDemand with direction := .reverse, hostSand := true } }
    (valve (withSand ⟨.closed, 0, 7⟩), valve turned, valve (withSand ⟨.opened, 50, 0⟩),
      valve (withSand ⟨.resting, 0, 50⟩)) = (⟨.opened, 0, 7⟩, ⟨.closed, 0, 0⟩, ⟨.opened, 60, 0⟩, ⟨.resting, 0, 60⟩) := by
  decide

theorem witness_caps :
    let p := defaultParams.slide
    p.floor ≤ 1000 ∧ p.unprotectedFactor ≤ 1000 ∧ p.nominalCap * p.floor / 1000 ≤ 660 ∧
    (660 : Nat) ≤ p.nominalCap := by decide

/-- The outputs after one window close with both transducers at 48 kPa. -/
def composed (s : State) : State := nextOf (exec (.windowClose (.kPa 48) (.kPa 1051)) s)

theorem witness_composition :
    (ready .run).powered = true ∧ (ready .run).timersRunning = true ∧
    ((0 : Int) ≤ 48 ∧ (48 : Int) ≤ 1050 ∧ (1050 : Int) < 1051) ∧
    ((ready .run).cx.mode ≠ .startup ∧ (ready .run).bpm.sensorFault = false ∧
      ((composed (ready .run)).co.trucks.get .a).airFault = false ∧
      (composed (ready .run)).co.movedInSetup = false ∧
      ((composed (ready .run)).co.trucks.get .a).mode = .ep) ∧
    (let s := { ready .setup with am := { resetAxleMonitor with
         refInternal := 20000, axles := .all (axleAt 2000 0 0) } }
     s.cx.mode = .setup ∧ (composed s).co.movedInSetup = true ∧ s.co.movedInSetup = false ∧
       ((composed s).co.trucks.get .b).mode = .pneumatic) ∧
    (let s := withTrucks (truckIn .restore 0 0)
     ((composed s).sp.trucks.get .a).state = .restore ∧ ((composed s).co.trucks.get .a).mode = .ep ∧
       ((composed s).sp.trucks.get .a).limit = some 504) := by decide

/-- The part in RUN with both trucks EP and the deviation timers one step short. -/
def nearAirFault : State :=
  { ready .run with
    co := { resetCylinderOutput with trucks := .both { resetTruckOutput with mode := .ep, deviation := 2990 } } }

theorem witness_air_fault :
    let s := nearAirFault
    s.powered = true ∧ s.timersRunning = true ∧ s.cx.mode ≠ .startup ∧ s.bpm.sensorFault = false ∧
    (s.co.trucks.get .b).airFault = false ∧ s.co.movedInSetup = false ∧ s.cx.mode ≠ .setup ∧
    deviates s.pm.params.supervision.airFaultTolerance (composeCommand (spEvaluate (afterAm s)) .b)
      (sampleCylinder .openCircuit (s.co.trucks.get .b)) = true ∧
    s.pm.params.supervision.airFaultTime ≤ (s.co.trucks.get .b).deviation + 10 := by decide

/-- A state that meets every invariant, with a command waiting. -/
def kept : State := waiting .blendRun (ready .run)

theorem witness_kept :
    (outputsAgree (kept.co.trucks.get .a) = true ∧ outputsAgree (kept.co.trucks.get .b) = true) ∧
    rangesHold kept = true ∧ kept.medium.wf = true ∧ linkBounded kept.li = true ∧
    modeConsistent kept.cx = true := by decide
/-- A part that reads a record out: the reply that waits to be sent, and what is in transmission. -/
def readingOut (waiting : Bool) (replies : List Reply) (tx : Option TxFrame) : State :=
  let r := newRead ⟨0x0F, 1, [44, 0, 0, 0, 2]⟩ ⟨44, 7, .held, true, 0, 3, 16, some .complete, some 2⟩ 1
  { ready .run with
    li := { (ready .run).li with replies := replies, tx := tx }
    sc := { (ready .run).sc with readOut := some { r with waiting := waiting } } }

/-- The states of a read-out that the bound of the reply list tells apart: none, one at work, one whose part waits in
the list behind 19 others, and one whose part is being sent. -/
theorem witness_replies_kept :
    RepliesKept kept ∧ RepliesKept (readingOut false [] none) ∧
    RepliesKept (readingOut true (List.replicate 19 ⟨0x82, 0, [0], .plain⟩ ++ [⟨0x8F, 1, [0], .readPart⟩])
      (some ⟨[], .plain⟩)) ∧
    RepliesKept (readingOut true [] (some ⟨[], .readPart⟩)) := by
  refine ⟨⟨?_, ?_, ?_, ?_, ?_, ?_, ?_⟩, ⟨?_, ?_, ?_, ?_, ?_, ?_, ?_⟩, ⟨?_, ?_, ?_, ?_, ?_, ?_, ?_⟩,
    ⟨?_, ?_, ?_, ?_, ?_, ?_, ?_⟩⟩ <;> 
    first
    | decide
    | (intro _ h; cases h)
    | (intro r h hw; cases h; revert hw; decide)
theorem witness_kept_directory : directoryOk kept.sc := ⟨by decide, by decide⟩

/-- The part with a block under relocation, its target erased, over a store that holds a map. -/
def relocating : State :=
  { ready .run with
    medium := twoMaps 7 6 true false
    sc := { (ready .run).sc with
      map := setBlockState 128 .target initialMap, relocation := some ⟨3, 128, .switch⟩, relocQueue := [9]
      port := some ⟨.relocator, .mapWrite (.replace 3 3 128), false⟩ } }

theorem witness_map_kept : MapKept relocating.sc relocating.medium where
  rule := by
    refine ⟨by decide, by decide, by decide +kernel, by decide +kernel⟩
  first := fun _ => ⟨by decide, by decide, by decide +kernel, by decide +kernel⟩
  second := fun h => by cases h
  queued := by intro b hb; obtain rfl : b = 9 := List.mem_singleton.1 hb; exact ⟨by decide, by decide⟩
  relocation := fun r h => by
    obtain rfl : (⟨3, 128, .switch⟩ : Relocation) = r := Option.some.inj h
    exact ⟨⟨by decide, by decide⟩, by decide⟩
  recovery := fun r h => by cases h
  port := fun p h => by
    obtain rfl : (⟨.relocator, .mapWrite (.replace 3 3 128), false⟩ : PortOp) = p := Option.some.inj h
    exact ⟨⟨by decide +kernel, by decide +kernel, by decide⟩, fun _ => ⟨_, rfl, .inl (by decide +kernel)⟩⟩
theorem witness_map_kept_step :
    step (waiting (.mapWriteComplete true) relocating) =
      .next (nextOf (step (waiting (.mapWriteComplete true) relocating))) := rfl

/-- A protected record in the directory, and a command that leaves it there. -/
theorem witness_protected_held :
    let e : DirEntry := ⟨44, 7, .held, true, 0, 3, 16, some .complete, some 2⟩
    let s := { (ready .run) with sc := { (ready .run).sc with directory := [e] } }
    (s.sc.directory.length ≤ 32 ∧ (s.sc.directory.map (·.number)).Nodup) ∧ e ∈ s.sc.directory ∧
    e.state = .held ∧ e.protect = true ∧ Instr.releaseIncident ≠ .powerOn ∧
    (withHead 0x11 [45, 0] s).li.queue = [⟨0x11, 0x2A, [45, 0]⟩] ∧ fieldAt [45, 0] 0 2 ≠ e.number ∧
    exec .releaseIncident (withHead 0x11 [45, 0] s) =
      .next (nextOf (exec .releaseIncident (withHead 0x11 [45, 0] s))) := by
  refine ⟨by decide, by decide, rfl, rfl, by decide, rfl, by decide, rfl⟩
theorem witness_kept_step : step kept = .next (nextOf (step kept)) := rfl

theorem witness_pipe :
    (0 : Int) ≤ 0 ∧ (1050 : Int) ≤ 1050 ∧ Reading.openCircuit = .openCircuit ∧ (-1 : Int) < 0 ∧
    (1050 : Int) < 1051 ∧ (ready .run).powered = true ∧ (ready .run).timersRunning = true := by decide

/-- The part standing with the emergency latched and the recovery timer one step short. -/
def nearRecovery : State :=
  { ready .setup with
    am := { resetAxleMonitor with standstill := true }
    bpm := { (ready .setup).bpm with emergency := true, recovery := 9990 } }

theorem witness_pipe_rows :
    validReading .openCircuit = none ∧ { (ready .run).bpm with invalidCount := 4 }.sensorFault = false ∧
    (validReading (.kPa 462) = some 462 ∧ 9 ≤ pipeS11.history.length ∧
      462 + defaultParams.pipe.emFall ≤ (pushHistory pipeS11.history pipeS11.pressure).headD 0 ∧
      1 ≤ pipeS11.rateHits) ∧
    (let s := nearRecovery
     validReading (.kPa 300) = some 300 ∧ s.pm.params.pipe.pRecover ≤ 300 ∧
       s.pm.params.pipe.emThreshold ≤ 300 ∧ s.am.standstill = true ∧ s.demand.hostEmergency = false ∧
       s.bpm.sensorFault = false ∧ s.bpm.rateHits = 0 ∧ s.bpm.emergency = true ∧ 9990 ≤ s.bpm.recovery) := by
  decide

theorem witness_pipe_recovery :
    nearRecovery.powered = true ∧ nearRecovery.timersRunning = true ∧
    ¬((300 : Nat) < nearRecovery.pm.params.pipe.emThreshold ∨ nearRecovery.demand.hostEmergency = true) ∧
    nearRecovery.bpm.emergency = true ∧ (ready .run).bpm.emergency = false ∧
    (nearRecovery.pm.params.pipe.pRecover ≤ 300 ∧ nearRecovery.am.standstill = true ∧
      nearRecovery.bpm.sensorFault = false ∧ 10000 ≤ nearRecovery.bpm.recovery + 10) ∧
    ¬(10000 ≤ { nearRecovery.bpm with recovery := 9980 }.recovery + 10) ∧
    (99 : Nat) < nearRecovery.pm.params.pipe.emThreshold ∧
    ¬(nearRecovery.pm.params.pipe.pRecover ≤ 299) := by decide

theorem witness_emergency_clears :
    nearRecovery.bpm.emergency = true ∧
    (nextOf (exec (.emergencyRecovery (.kPa 300)) nearRecovery)).bpm.emergency = false := by decide

theorem witness_blend :
    (ready .run).powered = true ∧ (ready .run).cx.mode = .run ∧ (ready .setup).cx.mode ≠ .run ∧
    (ready .run).timersRunning = true ∧ { resetBlendComputer with demandAge := 3 }.demandAge = 3 := by decide

/-- Each regime of a run in RUN: blended with an EP truck that takes the transfer and a PNEUMATIC one, blended by
the parameter or not, and the emergency. -/
theorem witness_blend_regimes :
    (let s := blendState (resetTruckRecord defaultParams.slide)
     s.powered = true ∧ s.timersRunning = true ∧ s.cx.mode = .run ∧ s.bpm.emergency = false ∧
       s.pm.params.blend.nonBlended = false ∧ (s.co.trucks.get .a).mode = .ep ∧
       s.pm.params.blend.transfer = true ∧ (s.sp.trucks.get .a).state = .idle ∧
       (s.sp.trucks.get .a).isProtected = true) ∧
    ((ready .run).co.trucks.get .a).mode ≠ .ep ∧
    { defaultParams.blend with nonBlended := true }.nonBlended = true ∧
    { (ready .run).bpm with emergency := true }.emergency = true := by decide

theorem witness_curve :
    let t := defaultParams.thermal
    t.c1.speed = 0 ∧ speedsRise t.curve = true ∧ t.c8.speed ≤ 12000 ∧
    (t.point (Fin.castSucc (0 : Fin 7))).speed ≤ 0 ∧ 0 < (t.point (Fin.succ (0 : Fin 7))).speed ∧
    (t.point (Fin.castSucc (6 : Fin 7))).speed ≤ 11999 ∧ 11999 < (t.point (Fin.succ (6 : Fin 7))).speed := by
  decide

/-- A frame of the part at reset. -/
def someFrame : Frame := frameNow State.reset 0

/-- The open record of a directory whose entry is FILLING, at its end index. -/
def openAt (st : FrameStanding) : State :=
  { ready .run with
    cu := { resetCaptureUnit defaultParams with
      ring := [⟨someFrame, st⟩]
      opened := some ⟨44, .capturing, 1, 1, 1, 0, 0, false, 0, none, [⟨1, 0, 1⟩], 0, none⟩ }
    sc := { (ready .run).sc with directory := [⟨44, 7, .filling, false, 0, 0, 0, none, none⟩] } }

theorem witness_capture :
    (ready .run).powered = true ∧ capturesNow (ready .run) = true ∧ (ready .run).cu.ring.length ≤ 512 ∧
    dropsFrame (ready .run).cu.ring = false ∧
    dropsFrame (List.replicate 512 ⟨someFrame, .undrained 0⟩) = true ∧ (openAt .free).cu.opened.isSome = true := by
  decide

theorem witness_undrained :
    (openAt (.undrained 0)).cu.opened.isSome = true ∧ (openAt (.undrained 0)).cu.ring.length ≤ 512 ∧
    (⟨someFrame, .undrained 0⟩ : RingFrame) ∈ (openAt (.undrained 0)).cu.ring := by decide
theorem witness_undrained_step :
    exec .capture (openAt (.undrained 0)) = .next (nextOf (exec .capture (openAt (.undrained 0)))) := rfl

theorem witness_opening :
    let s := { openAt .free with sc := { (openAt .free).sc with directory := [] } }
    s.cu.ring ≠ [] ∧ grantsOpening s = true ∧
    grantsOpening { s with sc := { s.sc with storeFull := true } } = false ∧
    s.sc.directory.length ≤ 32 ∧ (s.sc.directory.map (·.number)).Nodup := by decide

/-- A directory of 32 records, all but the last in one state, the last in another. -/
def directoryOf32 (st last : RecordState) (protect : Bool) : List DirEntry :=
  (List.range 32).map (fun n =>
    ⟨n + 1, 0, if n = 31 then last else st, protect, 16 * n, 3, 16, some .complete, some (16 * n + 2)⟩)

theorem witness_makes_room :
    let s := fun (st last : RecordState) (protect : Bool) =>
      { openAt .free with sc := { (openAt .free).sc with directory := directoryOf32 st last protect } }
    (grantsOpening (s .held .released true) = true ∧
      ((s .held .released true).sc.directory.map (·.number)).Nodup) ∧
    grantsOpening (s .held .held false) = true ∧ grantsOpening (s .held .held true) = false := by
  decide +kernel

/-- R125: of 32 records the one RELEASED is dropped, though HELD records without protect are older; and with none
RELEASED the oldest of those. -/
theorem test_makes_room :
    let s := fun (last : RecordState) => { (ready .run).sc with directory := directoryOf32 .held last false }
    ((makeRoom (s .released)).directory.map (·.number) = (List.range 31).map (· + 1)) ∧
    ((makeRoom (s .held)).directory.map (·.number) = (List.range 31).map (· + 2)) := by decide +kernel

/-- The part with one trigger entry that always matches, its previous match flag given. -/
def withTrigger (prev : Bool) (s : State) : State :=
  { s with
    pm := { s.pm with params := { defaultParams with triggers := [⟨true, 0, 0, 0, 5, true⟩] } }
    cu := { s.cu with prevMatch := [prev], armed := [false] } }

/-- The entries of a part whose state begins with a word, with their numbers less 1 (R122, R119). -/
def onsetsOf (s : State) (w : Word32) : List ((TriggerEntry × Bool × Bool) × Nat) :=
  (s.pm.params.triggers.zip (s.cu.prevMatch.zip s.cu.armed)).zipIdx.filter
    (fun q => q.1.1.enabled && (w &&& q.1.1.mask) == q.1.1.value &&
      (!q.1.2.1 || (q.1.1.value.getLsbD 17 && q.1.2.2)))

theorem witness_firing :
    (let s := withTrigger false (ready .run)
     s.powered = true ∧ capturesNow s = true ∧ s.cu.prevMatch.length = s.pm.params.triggers.length ∧
       s.cu.armed.length = s.pm.params.triggers.length ∧ s.cu.missed ≤ 65535 ∧ s.cu.opened = none ∧ grantsOpening s = true ∧
       grantsOpening { s with sc := { s.sc with storeFull := true } } = false ∧
       (∀ w : Word32, onsetsOf s w ≠ [])) ∧
    (∀ w : Word32, onsetsOf (withTrigger true (ready .run)) w = []) ∧
    (∃ r, (openAt .free).cu.opened = some r ∧ r.phase = .capturing ∧ r.extraTriggers ≤ 65535 ∧
      { r with phase := .closing }.phase = .closing) := by
  refine ⟨⟨by decide, by decide, by decide, by decide, by decide, by decide, by decide, by decide, ?_⟩, ?_, _, rfl,
    by decide, by decide, rfl⟩ <;> intro w <;> simp [withTrigger, onsetsOf]

/-- The part with a mark pending and a trigger on HOST_MARK whose last frame was marked. -/
def markedAgain (armed : Bool) : State :=
  { ready .run with
    pm := { (ready .run).pm with params := { defaultParams with
      triggers := [⟨true, 0x20000, 0x20000, 0, 5, true⟩] } }
    cu := { (ready .run).cu with prevMatch := [true], armed := [armed], markPending := true } }

/-- R119, R123: the mark of the next frame is an onset of its own, once the entry has been seen not to match. -/
theorem test_mark_fires_again :
    let t := fun armed => (nextOf (exec .capture (markedAgain armed))).cu
    ((t true).opened.isSome, (t true).prevMatch, (t true).armed) = (true, [true], [true]) ∧
    ((t false).opened.isSome, (t false).prevMatch, (t false).armed) = (false, [true], [false]) := by decide

/-- R122, R127: an entry that fires while CAPTURING joins the record and moves its end. -/
theorem test_trigger_joins :
    let t := nextOf (exec .capture (withTrigger false (openAt .free)))
    (t.cu.opened.map (fun r => (r.triggers.length, r.endIndex, r.protect, r.phase)), t.cu.prevMatch) =
      (some (2, 6, true, .capturing), [true]) := by decide

theorem witness_record_end :
    let s := withTrigger true (openAt (.undrained 0))
    s.powered = true ∧ capturesNow s = true ∧
    s.cu.opened = some ⟨44, .capturing, 1, 1, 1, 0, 0, false, 0, none, [⟨1, 0, 1⟩], 0, none⟩ ∧
    s.pm.params.triggers[0]? = some ⟨true, 0, 0, 0, 5, true⟩ ∧ s.cu.prevMatch[0]? = some true ∧
    (0 : Word32).getLsbD 17 = false ∧ s.pm.params.triggers[1]? = none := by decide

/-- The part with a release mark pending and a block due to be erased. -/
def storeBusy : State :=
  { ready .run with sc := { (ready .run).sc with
      eraseAhead := .due true
      relocation := some ⟨3, 128, .erase⟩
      readOut := some ⟨.read, 1, 44, 7, 0, 8, false, 0, [], 0, 0, none, false, 1, some 5⟩ } }

theorem witness_arbiter :
    storeBusy.powered = true ∧ portOpen storeBusy = true ∧ chosenAgent storeBusy = some .writer ∧
    requestOf storeBusy .writer = some (.erase 1) ∧ (∀ b ∈ opBlocks (.erase 1), b < 136) ∧
    (∃ b ∈ opBlocks (.erase 136), 136 ≤ b) ∧
    (requestOf { storeBusy with sc := { storeBusy.sc with
      map := { initialMap with phys := List.replicate 128 136 } } } .writer) = some (.erase 136) ∧
    writerUrgent storeBusy = false ∧
    writerUrgent { storeBusy with cu := { storeBusy.cu with
      ring := List.replicate 385 ⟨someFrame, .undrained 0⟩ } } = true ∧
    ((requestOf (ready .run) .writer).isSome = false ∧ (requestOf (ready .run) .relocator).isSome = false ∧
      (requestOf (ready .run) .reader).isSome = false) := by decide

theorem witness_writer_work :
    let s := openAt (.undrained 0)
    let closing := { s.cu with opened := s.cu.opened.map (fun r => { r with phase := .closing }) }
    (∃ r, { s.sc with recovery := some ⟨none, 1, 0, 1, 128, .map⟩ }.recovery = some r) ∧
    (s.sc.recovery = none ∧ s.sc.seat = .normal ∧ s.sc.rebuildTrailer = none) ∧
    (storeBusy.sc.eraseAhead = .due true ∧ storeBusy.li.closing = false) ∧
    (sectionDue s = some .header ∧ (undrained closing).length < 8 ∧
      8 ≤ (undrained { s.cu with ring := List.replicate 8 ⟨someFrame, .undrained 0⟩ }).length ∧
      (∃ r, closing.opened = some r ∧ r.phase = .closing) ∧ undrained (openAt .free).cu = []) ∧
    (sectionDue (ready .run) = none ∧ { (ready .run).sc with pendingMarks := [44] }.pendingMarks = 44 :: []) ∧
    (let sc := { s.sc with directory := [⟨44, 7, .released, false, 0, 3, 16, some .complete, some 2⟩] }
     sc.directory.find? (fun d => d.number == 44) = some ⟨44, 7, .released, false, 0, 3, 16, some .complete, some 2⟩ ∧
       alreadyCopied ⟨0, 128, .copy 3⟩ (2 % 16) = true ∧ alreadyCopied ⟨0, 128, .copy 2⟩ (2 % 16) = false) ∧
    storeBusy.sc.readOut.bind (·.asking) = some 5 :=
  ⟨⟨_, rfl⟩, by decide, by decide, ⟨by decide, by decide, by decide, ⟨_, rfl, rfl⟩, by decide⟩, by decide, by decide,
    by decide⟩

/-- R146, R149: the writer's mark is for the TRAILER's section and its copy, and the writer is urgent only past 384
undrained frames. -/
theorem test_writer_work :
    let s := { ready .run with sc := { (ready .run).sc with
      pendingMarks := [44], relocation := some ⟨0, 128, .copy 3⟩
      directory := [⟨44, 7, .released, false, 0, 3, 16, some .complete, some 2⟩] } }
    let full := fun n : Nat => { s with cu := { s.cu with ring := List.replicate n ⟨someFrame, .undrained 0⟩ } }
    requestOf s .writer = some (.mark 44 [2, 2050]) ∧ writerUrgent (full 384) = false ∧
      writerUrgent (full 385) = true := by decide

theorem witness_section_layout :
    let s := openAt (.undrained 0)
    (∃ r, s.cu.opened = some r ∧ r.triggers = ⟨1, 0, 1⟩ :: [] ∧ r.triggers.length ≤ 8 ∧
      { r with endReason := some .complete }.endReason = some .complete) ∧
    s.sc.directory.find? (fun x => x.state == .filling) = some ⟨44, 7, .filling, false, 0, 0, 0, none, none⟩ ∧
    ((undrained s.cu).filter (fun f => [0].contains f.1)).map (·.1) = [0] ∧
    { s.sc with rebuildTrailer := some ⟨44, 0, false, 1, 0, 0, 0, .truncatedPower, [⟨1, 0, 1⟩]⟩ }.rebuildTrailer =
      some ⟨44, 0, false, 1, 0, 0, 0, .truncatedPower, [⟨1, 0, 1⟩]⟩ := by
  refine ⟨⟨_, rfl, rfl, by decide, rfl⟩, by decide, by decide, rfl⟩

/-- The part whose writer programs section 15 of block 0, with the ahead block in a given state and a record of a
given state in block 2. -/
def atSlot15 (ahead : EraseAhead) (e : DirEntry) : State :=
  let s := atPort .writer (.program (.frames [0]) 15 15 []) (openAt (.undrained 0))
  { s with sc := { s.sc with
      position := 15, eraseAhead := ahead, directory := [e, ⟨44, 7, .filling, false, 0, 15, 112, none, none⟩] } }

/-- A record with sections in blocks 1 and 2. -/
def inBlocks12 (st : RecordState) (protect : Bool) : DirEntry := ⟨43, 6, st, protect, 30, 9, 16, some .complete, some 38⟩

theorem witness_slot_15 :
    let s := atSlot15 .done (inBlocks12 .held true)
    s.powered = true ∧ (s.sc.position + 1) % 2048 % 16 = 0 ∧ SectionJob.frames [0] ≠ .rebuildTrailer ∧
    s.cx.rebuildEnded = true ∧ s.sc.storeFull = false ∧ s.cu.opened.isSome = true ∧
    (atSlot15 (.due true) (inBlocks12 .held true)).sc.eraseAhead ≠ .done ∧ s.li.closing = false := by decide

/-- R147, R148, R133: the position enters block 1, and the protected record in block 2 makes the store full and ends
the open record at its 113 programmed frames; a record that may be reclaimed is dropped instead. -/
theorem test_slot_15 :
    (let t := nextOf (exec (.programComplete true) (atSlot15 .done (inBlocks12 .held true)))
     (t.sc.position, t.sc.eraseAhead, t.sc.storeFull, t.sc.directory.length) = (16, .due false, true, 2) ∧
     (t.cx.notices, t.cu.opened.map (fun r => (r.captureCount, r.endReason))) =
       (0x0080, some (113, some .truncatedStoreFull))) ∧
    (let t := nextOf (exec (.programComplete true) (atSlot15 .done (inBlocks12 .released true)))
     (t.sc.position, t.sc.eraseAhead, t.sc.storeFull, t.sc.directory.length) = (16, .due true, false, 1)) := by
  decide

/-- A map with no SPARE block. -/
def wornMap : BlockMap := { initialMap with states := List.replicate 128 .mapped ++ List.replicate 8 .retired }

/-- The part with that map, a relocation whose target is block 135 or none, and the ahead block in a given state. -/
def worn (r : Option Relocation) (ahead : EraseAhead) : State :=
  let s := atSlot15 ahead (inBlocks12 .released false)
  { s with sc := { s.sc with position := 14, map := wornMap, relocation := r } }

theorem witness_wear :
    NoSpare (worn none .done).sc.map ∧ (worn none .done).sc.relocation = none ∧
    (worn (some ⟨3, 135, .erase⟩) .done).sc.relocation = some ⟨3, 135, .erase⟩ ∧
    (worn none (.due true)).sc.eraseAhead ≠ .done ∧ (worn none (.due true)).sc.storeFull = false ∧
    ((worn none .done).cu.opened.isSome = true ∧ SectionJob.frames [0] ≠ .rebuildTrailer) ∧
    (openAt .free).cu.opened.isSome = true ∧ (ready .run).cu.opened = none := by decide

/-- R151: without a block to recover with, the position goes on to the erased ahead block, and STORE_WEAR is raised;
where that is not erased, the store is full, the record closes without a TRAILER, and the RELEASED record with sections
in the ahead block goes. -/
theorem test_wear :
    (let t := nextOf (exec (.programComplete false) (worn none .done))
     (t.sc.position, t.cx.notices) = (16, 0x0100) ∧
       t.cu.opened.map (·.endReason) = some (some .truncatedStoreFull)) ∧
    (let t := nextOf (exec (.programComplete false) (worn none (.due true)))
     (t.sc.position, t.sc.seat, t.sc.storeFull, t.cx.notices) = (14, .abandoned, true, 0x0180) ∧
       t.cu.opened = none ∧ t.sc.directory.map (fun e => (e.number, e.trailer)) = [(44, none)]) := by decide

theorem witness_program :
    let s := atPort .writer (.program (.frames [0]) 14 2175 []) (openAt (.undrained 0))
    s.powered = true ∧ s.medium.wf = true ∧ (2175 : Nat) < 136 * 16 ∧ (s.sc.position + 1) % 2048 % 16 ≠ 0 ∧
    s.cu.opened.isSome = true ∧ LowestSpare s.sc.map 128 ∧
    (⟨44, 7, .filling, false, 0, 0, 0, none, none⟩ : DirEntry) ∈ s.sc.directory := by decide

theorem witness_mark :
    let s := atPort .writer (.mark 44 [0, 2175]) (ready .run)
    s.powered = true ∧ s.medium.wf = true ∧ ∀ p ∈ [0, 2175], p < 136 * 16 := by decide

theorem witness_erase :
    let s := atPort .writer (.erase 1) (ready .run)
    s.powered = true ∧ s.medium.wf = true ∧ s.sc.recovery = none ∧ s.sc.seat = .normal ∧
    LowestSpare s.sc.map 128 ∧
    { s.sc with recovery := some ⟨none, 1, 0, 1, 128, .erase⟩ }.recovery.isSome = true ∧
    (atPort .relocator (.erase 128) storeBusy).sc.relocation = some ⟨3, 128, .erase⟩ := by decide

theorem witness_erase_waiting :
    let s := fun seat => { atPort .writer (.erase 1) (ready .run) with
      sc := { (atPort .writer (.erase 1) (ready .run)).sc with seat := seat, position := 16 } }
    (s .unerased).sc.seat ≠ .normal ∧ (s .abandoned).sc.seat ≠ .normal ∧ (s .unerased).sc.recovery = none ∧
    (s .unerased).cx.rebuildEnded = true ∧ (s .unerased).powered = true ∧ (s .unerased).sc.aheadErased = false ∧
    { (s .unerased).sc with aheadErased := true }.aheadErased = true := by decide

/-- R159: once the position's own block is erased, the block that the rebuild erased ahead counts as erased. -/
theorem test_erase_of_own_block :
    let s := { atPort .writer (.erase 1) (ready .run) with
      sc := { (atPort .writer (.erase 1) (ready .run)).sc with
        seat := .unerased, position := 16, storeFull := true, eraseAhead := .due true, aheadErased := true } }
    let t := nextOf (exec (.eraseComplete true) s)
    (t.sc.position, t.sc.seat, t.sc.storeFull, t.sc.eraseAhead, t.sc.aheadErased) =
      (16, .normal, false, .done, false) := by decide

/-- R151: the erase that an abandoned block waited for moves the position to slot 0 of the next block. -/
theorem test_erase_ends_waiting :
    let s := { atPort .writer (.erase 2) (ready .run) with
      sc := { (atPort .writer (.erase 2) (ready .run)).sc with
        seat := .abandoned, position := 30, storeFull := true, eraseAhead := .due true } }
    let t := nextOf (exec (.eraseComplete true) s)
    (t.sc.position, t.sc.seat, t.sc.storeFull, t.sc.eraseAhead) = (32, .normal, false, .due true) := by decide

theorem witness_erase_worn :
    let s := { worn none (.due true) with sc := { (worn none (.due true)).sc with
      port := some ⟨.writer, .erase 1, false⟩ } }
    s.sc.recovery = none ∧ NoSpare s.sc.map ∧ s.sc.relocation = none ∧ s.sc.storeFull = false ∧
    s.sc.seat = .normal ∧ s.cu.opened.isSome = true ∧ { s.sc with storeFull := true }.storeFull = true ∧
    { s.sc with relocation := some ⟨3, 135, .erase⟩ }.relocation = some ⟨3, 135, .erase⟩ ∧
    (some (⟨.relocator, .erase 135, true⟩ : PortOp)) = some ⟨.relocator, .erase 135, true⟩ := by decide

theorem witness_copy :
    let s := atPort .relocator (.copy 63 2063) { storeBusy with sc := { storeBusy.sc with
      relocation := some ⟨3, 128, .copy 15⟩, recovery := some ⟨some .header, 4, 3, 4, 128, .copy 0⟩ } }
    s.powered = true ∧ s.medium.wf = true ∧ s.sc.relocation = some ⟨3, 128, .copy 15⟩ ∧
    (63 : Nat) < 136 * 16 ∧ (2063 : Nat) < 136 * 16 ∧ (63 : Nat) ≠ 2063 ∧ 63 ∉ s.medium.unknown ∧
    s.medium.cells = [] ∧ s.sc.recovery = some ⟨some .header, 4, 3, 4, 128, .copy 0⟩ := by decide

theorem witness_copy_outcomes :
    isErased blankMedium 63 = true ∧
    isErased { blankMedium with unknown := [63] } 63 = false ∧ (62 : Nat) ∉ [63] ∧
    isErased { blankMedium with cells := [⟨62 * 512, 0⟩] } 62 = false := by decide

/-- The last section of the store as an erased target, and a section before it that is not erased. -/
theorem witness_copy_written :
    let m : Medium := { blankMedium with cells := [⟨2174 * 512 + 3, 0⟩] }
    m.wf = true ∧ isErased m 2174 = false ∧ 2174 ∉ m.unknown ∧ (2175 : Nat) < 136 * 16 ∧ (2174 : Nat) ≠ 2175 ∧
    ∀ i, i < 512 → readByte m.cells (2175 * 512 + i) = 0xFF := by
  refine ⟨by decide, by decide, by decide, by decide, by decide, fun i _ => ?_⟩
  have h : ¬(2174 * 512 + 3 = 2175 * 512 + i) := by omega
  simp [readByte, h, erasedByte]

/-- R138, R154: a copy of a section read CORRECTED leaves its bytes in the target. -/
theorem test_corrected_copy :
    let s := { atPort .relocator (.copy 2174 2175) storeBusy with
      medium := { blankMedium with cells := [⟨2174 * 512 + 3, 0⟩] } }
    let t := nextOf (exec (.copyComplete .corrected true) s)
    t.medium.cells = [⟨2174 * 512 + 3, 0⟩, ⟨2175 * 512 + 3, 0⟩] := by decide +kernel

/-- A copy of an erased section, and one of a section that is not, whose program is reported failed. -/
theorem witness_copy_failed :
    let s := atPort .relocator (.copy 63 2063) { storeBusy with sc := { storeBusy.sc with
      relocation := some ⟨3, 128, .copy 15⟩ } }
    let used := { s with medium := { blankMedium with unknown := [63] } }
    s.medium.wf = true ∧ (63 : Nat) ∉ s.medium.unknown ∧
    (let o := readOutcome s.medium 63 .uncorrectable
     o = .clean ∧ ∀ b ∈ readSection s.medium s.freeCount 63 o, b = 0xFF) ∧
    readOutcome used.medium 63 .corrected ≠ .clean ∧
    { s.sc with port := some ⟨.relocator, .copy 63 2063, true⟩ }.port = some ⟨.relocator, .copy 63 2063, true⟩ := by
  refine ⟨by decide, by decide, ⟨by decide, fun b hb => List.eq_of_mem_replicate (n := 512) hb⟩, by decide, rfl⟩

/-- R154: of an erased section nothing is programmed, so that a failure reported of it retires no target. -/
theorem test_erased_copy_goes_on :
    let s := atPort .relocator (.copy 63 2063) { storeBusy with sc := { storeBusy.sc with
      relocation := some ⟨3, 128, .copy 15⟩ } }
    let t := nextOf (exec (.copyComplete .clean false) s)
    (t.sc.relocation, t.medium) = (some ⟨3, 128, .switch⟩, s.medium) := by decide +kernel

theorem witness_map_retire_worn :
    let s := worn (some ⟨3, 135, .retire⟩) .done
    NoSpare { s.sc.map with states := s.sc.map.states.set 135 .retired } ∧
    s.sc.relocation = some ⟨3, 135, .retire⟩ ∧
    (let r : Recovery := ⟨none, 1, 0, 1, 134, .retire⟩
     { s.sc with recovery := some r }.recovery = some r ∧ r.job = none ∧ { r with job := some .header }.job.isSome ∧
       (worn none .done).sc.relocation = none ∧ (worn none .done).sc.eraseAhead = .done ∧
       (worn none (.due true)).sc.eraseAhead ≠ .done) := by decide

/-- The switch that ends the recovery of a failed erase-ahead. -/
def eraseRecovered (seat : WriterSeat) : State :=
  let s := atPort .writer (.mapWrite (.replace 1 1 128)) (ready .run)
  { s with sc := { s.sc with
      seat := seat, storeFull := true, eraseAhead := .due true, recovery := some ⟨none, 1, 0, 1, 128, .map⟩ } }

theorem witness_erase_recovered :
    (eraseRecovered .normal).sc.recovery = some ⟨none, 1, 0, 1, 128, .map⟩ ∧
    (eraseRecovered .normal).sc.relocation = none ∧ (eraseRecovered .normal).sc.seat = .normal ∧
    (eraseRecovered .abandoned).sc.seat ≠ .normal ∧ (eraseRecovered .unerased).sc.seat ≠ .normal ∧
    (eraseRecovered .unerased).cx.rebuildEnded = true ∧ (eraseRecovered .unerased).sc.aheadErased = false ∧
    { (eraseRecovered .unerased).sc with aheadErased := true }.aheadErased = true ∧ MapChange.replace 1 1 128 ≠ .initial ∧
    { (eraseRecovered .normal).sc with port := some ⟨.relocator, .mapWrite (.retire 128), true⟩ }.port =
      some ⟨.relocator, .mapWrite (.retire 128), true⟩ := by decide

/-- R151: the target is the erased ahead block, and the store-full state ends. -/
theorem test_erase_recovered :
    let t := nextOf (exec (.mapWriteComplete true) (eraseRecovered .normal))
    (t.sc.recovery, t.sc.eraseAhead, t.sc.storeFull, physicalBlock t.sc.map 1, t.sc.map.states[1]?) =
      (none, .done, false, 128, some .retired) := by decide +kernel

theorem witness_map_write :
    let s := atPort .relocator (.mapWrite (.replace 3 3 128)) storeBusy
    s.sc.relocation.isSome = true ∧
    (∃ j, (⟨some .header, 4, 3, 4, 128, .map⟩ : Recovery).job = some j) ∧ (ready .run).sc.relocation = none ∧
    LowestSpare { s.sc.map with states := s.sc.map.states.set 128 .retired } 129 ∧
    State.reset.sc.port = some ⟨.writer, .mapWrite .initial, false⟩ ∧
    State.reset.medium.copy1.valid = false ∧ State.reset.medium.copy2.valid = false ∧
    State.reset.sc.recovery = none := by
  refine ⟨by decide, ⟨.header, rfl⟩, by decide, by decide, by decide, by decide, by decide, by decide⟩

theorem witness_map_retry :
    let failed := nextOf (exec (.mapWriteComplete false) State.reset)
    (failed.sc.mapRetry = some .first ∧ failed.medium.copy2.valid = false) ∧
    (State.reset.sc.mapRetry ≠ some .second ∧ State.reset.sc.mapRetry ≠ some .first) ∧
    { failed.sc with mapRetry := some .second }.mapRetry = some .second := by decide

theorem witness_relocation :
    let s := { ready .run with sc := { (ready .run).sc with relocQueue := [0, 3] } }
    s.powered = true ∧ s.cx.rebuildEnded = true ∧ s.li.closing = false ∧ s.sc.relocation = none ∧
    eligibleEntry s.sc = some 3 ∧ s.sc.relocQueue = [physicalBlock s.sc.map (s.sc.position / 16)] ++ 3 :: [] ∧ LowestSpare s.sc.map 128 ∧
    NoSpare { initialMap with states := List.replicate 136 .mapped } := by decide

/-- The bytes of section 1 of record 44 at logical section 5, eight frames of FFh. -/
def goodSection : List Byte := sectionOf 2 false 44 1 5 8 (List.replicate 498 0xFF)

/-- A read-out of record 44 about to take section 1. -/
def someRead : ReadOut := ⟨.read, 1, 44, 7, 1, 2, false, 0, [], 0, 0, none, false, 2, some 5⟩

theorem witness_read_bytes :
    sectionBytes (programSection blankMedium 5 goodSection) 5 = goodSection ++ [0xFF, 0xFF] := by decide +kernel

theorem witness_read_checks : checkSection someRead 5 .clean (goodSection ++ [0xFF, 0xFF]) = none := by
  decide +kernel

/-- The part whose reader awaits section 1 of record 44 at section 5, its block map the initial one. -/
def reading (m : Medium) (r : ReadOut) : State :=
  { atPort .reader (.read 5 5) (ready .setup) with
    medium := m
    sc := { (atPort .reader (.read 5 5) (ready .setup)).sc with
      readOut := some r, directory := [⟨44, 7, .held, false, 4, 3, 16, some .complete, some 6⟩] } }

/-- The store with that section programmed, whole or with its checkword off. -/
def goodStore : Medium := programSection blankMedium 5 goodSection
def badStore : Medium := programSection blankMedium 5 (List.replicate 10 0 ++ goodSection.drop 10)

theorem witness_read_passes :
    let s := reading goodStore someRead
    s.powered = true ∧ s.sc.port = some ⟨.reader, .read 5 5, false⟩ ∧ s.sc.readOut = some someRead ∧
    5 ∉ s.medium.unknown ∧
    (let bs := readSection s.medium s.freeCount 5 .clean
     sectionNumber bs = 44 ∧ sectionIndex bs = 1 ∧ sectionAddr bs = 5 ∧ checkwordPasses bs = true) := by
  decide +kernel

theorem witness_read_stops :
    isErased goodStore 5 = false ∧ isErased blankMedium 5 = true ∧
    (let bs := readSection badStore 0 5 .clean
     ¬(sectionNumber bs = 44 ∧ sectionIndex bs = 1 ∧ sectionAddr bs = 5)) ∧
    (let bs := readSection (programSection blankMedium 5 (goodSection.take 508 ++ [0, 0])) 0 5 .clean
     sectionNumber bs = 44 ∧ sectionIndex bs = 1 ∧ sectionAddr bs = 5 ∧ checkwordPasses bs = false) := by
  decide +kernel

theorem witness_read :
    (2 ≤ someRead.remaining ∧ someRead.gathered.length + 1 < someRead.burst) ∧
    { someRead with remaining := 1 }.remaining ≤ 1 ∧
    { someRead with burst := 1 }.burst ≤ someRead.gathered.length + 1 ∧
    { someRead with kind := .verify, whole := true }.whole = true ∧
    (let e : DirEntry := ⟨44, 7, .held, false, 4, 3, 16, some .complete, some 6⟩
     readOutEntry (reading goodStore someRead).sc someRead = some e ∧ someRead.nextIndex + 1 < 3 ∧
       e.sectionCount ≤ { someRead with nextIndex := 2 }.nextIndex + 1 ∧
       readOutEntry { (ready .setup).sc with directory := [] } someRead = none) ∧
    (let s := { reading goodStore someRead with
       sc := { (reading goodStore someRead).sc with port := some ⟨.reader, .read 5 5, true⟩, readOut := none } }
     s.sc.port = some ⟨.reader, .read 5 5, true⟩ ∧ s.sc.readOut = none) := by decide

/-- R166, R167: a section that passes at the last of the count is answered OK, and one whose read is
UNCORRECTABLE is answered so. -/
theorem test_read_complete :
    (sent (nextOf (exec (.readComplete .clean) (reading goodStore { someRead with remaining := 1 }))),
      sent (nextOf (exec (.readComplete .uncorrectable) (reading goodStore someRead)))) =
    (some (0x8F, 1, 0x00), some (0x8F, 1, 0x0D)) := by decide +kernel

theorem witness_demand :
    Arrives (frameBytes 0x01 0x07 (List.replicate 27 0xFF)) 0x01 0x07 (List.replicate 27 0xFF) (ready .run) ∧
    Arrives (frameBytes 0x01 0x07 []) 0x01 0x07 [] (ready .run) :=
  ⟨⟨by decide, by decide, .hunting, by decide⟩, ⟨by decide, by decide, .hunting, by decide⟩⟩

theorem witness_demand_reports :
    (ready .run).li.reports.length < 8 ∧ (ready .run).li.tx = none ∧
    8 ≤ (List.replicate 8 (ReportEntry.report 1)).length ∧
    (ready .run).li.reports ++ [ReportEntry.report 7] = ReportEntry.report 7 :: [] ∧
    { (ready .run).li with tx := some ⟨[], .plain⟩ }.tx ≠ none := by decide

/-- R54: an ambient marked present is a signed value from -500 to 600. -/
theorem test_ambient :
    (demandOfBody (List.replicate 19 0 ++ [1, 0x0C, 0xFE, 0, 0, 0, 0, 0])).ambient = some (-500) ∧
    (demandOfBody (List.replicate 19 0 ++ [1, 0x0B, 0xFE, 0, 0, 0, 0, 0])).ambient = none := by decide

theorem witness_arrival :
    Arrives (frameBytes 0x02 0x07 []) 0x02 0x07 [] (ready .run) ∧ (ready .run).li.overrun = false ∧
    (ready .run).li.queue.length < 4 ∧ 4 ≤ (List.replicate 4 (⟨0x02, 1, []⟩ : Command)).length ∧
    Arrives (frameBytes 0x1E 0x07 []) 0x1E 0x07 [] (ready .run) ∧ (ready .run).li.replies.length < 16 ∧
    16 ≤ (List.replicate 16 (⟨0x82, 1, [0], .plain⟩ : Reply)).length ∧ (ready .run).li.tx = none :=
  ⟨⟨by decide, by decide, .hunting, by decide⟩, by decide, by decide, by decide,
    ⟨by decide, by decide, .hunting, by decide⟩, by decide, by decide, by decide⟩

/-- R186: a reply placed while a frame is in transmission waits behind the others, and the frame goes on. -/
theorem test_reply_waits :
    let waits : Reply := ⟨0x83, 1, [0], .plain⟩
    let s := { ready .run with li := { resetLinkInterface with
      overrun := true, tx := some ⟨[0x7E], .plain⟩, reports := [.report 9], replies := [waits] } }
    let t := nextOf (exec (.queuedCommandArrival (frameBytes 0x02 0x07 [])) s)
    (t.li.tx, t.li.reports, t.li.replies) = (some ⟨[0x7E], .plain⟩, [.report 9], [waits, ⟨0x82, 7, [0x02], .plain⟩]) := by
  decide

theorem witness_line_errors :
    receive (ready .run).li.receiver [0x7E, 0x03, 0x2A, 0x59, 0x02] = some (.hunting, some .discarded) ∧
    receive (ready .run).li.receiver [0x7E, 0x03] = some (.inFrame [0x03], none) := by decide

/-- The length field at its bound of 600 and one above it, and a frame without a body with either checkword. -/
theorem witness_line_frames :
    (0x58 : Byte).toNat + 256 * (0x02 : Byte).toNat = (List.replicate 600 (0 : Byte)).length ∧
    600 < (0x59 : Byte).toNat + 256 * (0x02 : Byte).toNat ∧ (0x7E : Byte) ∉ [0x7D, 0x7F] ∧
    (crc16 [0x03, 0x2A, 0x00, 0x00]).toNat < 65536 ∧
    receive .hunting (frameBytes 0x03 0x2A []) = some (.hunting, some (.arrived 0x03 0x2A [])) := by
  refine ⟨by rw [List.length_replicate]; rfl, by decide, by decide, by decide, by decide⟩

theorem witness_frame_sent :
    (⟨[], .plain⟩ : TxFrame).role ≠ .readPart ∧
    (let r := { someRead with waiting := true }
     r.waiting = true ∧ readOutEntry { (ready .run).sc with
       directory := [⟨44, 7, .held, false, 4, 3, 16, some .complete, some 6⟩] } r =
         some ⟨44, 7, .held, false, 4, 3, 16, some .complete, some 6⟩ ∧ r.nextIndex < 3) := by decide

theorem witness_read_part_sent :
    let s := { ready .run with
      li := { resetLinkInterface with tx := some ⟨[], .readPart⟩ }
      sc := { (ready .run).sc with
        readOut := some { someRead with waiting := true }
        directory := [⟨44, 7, .held, false, 4, 3, 16, some .complete, some 6⟩] } }
    let gone := { s.sc with directory := [] }
    s.li.tx = some ⟨[], .readPart⟩ ∧ s.sc.readOut = some { someRead with waiting := true } ∧
    readOutEntry gone { someRead with waiting := true } = none ∧ someRead.kind = .read ∧
    (3 : Nat) ≤ { someRead with waiting := true, nextIndex := 3 }.nextIndex ∧
    { s.li with reports := [.report 7] }.reports = .report 7 :: [] ∧ s.li.reports = [] ∧ s.li.replies = [] := by
  decide

/-- R165, R167: the record gone when a part has been sent, the read-out ends with RECORD GONE. -/
theorem test_read_part_sent_gone :
    let s := { ready .run with
      li := { resetLinkInterface with tx := some ⟨[], .readPart⟩, queue := [⟨0x0F, 1, []⟩] }
      sc := { (ready .run).sc with readOut := some { someRead with waiting := true } } }
    let t := nextOf (exec .frameSent s)
    (sent t, t.sc.readOut, t.li.queue) = (some (0x8F, 1, 0x0A), none, []) := by decide

theorem witness_restart :
    Arrives (frameBytes 0x1F 0x07 []) 0x1F 0x07 [] (openAt .free) ∧
    ((openAt .free).cu.opened.isSome = true ∧ (openAt .free).sc.seat = .normal ∧
      (openAt .free).sc.port = none ∧ (openAt .free).sc.recovery = none) ∧
    Arrives (frameBytes 0x1F 0x07 [1]) 0x1F 0x07 [1] (ready .run) ∧ ([1] : List Byte) ≠ [] :=
  ⟨⟨by decide, by decide, .hunting, by decide⟩, by decide, ⟨by decide, by decide, .hunting, by decide⟩,
    by decide⟩

/-- RESTART with a FRAME section at the port, with one under recovery, with the TRAILER at the port, with the writer
waiting for its block, and with a reader's and a relocator's operation. -/
theorem witness_restart_in_hand :
    let program := fun job => atPort .writer (.program job 3 3 []) (openAt .free)
    (program (.frames [0])).sc.recovery = none ∧
    (program (.frames [0])).sc.port = some ⟨.writer, .program (.frames [0]) 3 3 [], false⟩ ∧
    (program .trailer).sc.port = some ⟨.writer, .program .trailer 3 3 [], false⟩ ∧
    (⟨some (.frames [0]), 0, 3, 0, 128, .copy 1⟩ : Recovery).job = some (.frames [0]) ∧
    { (openAt .free).sc with seat := .unerased }.seat ≠ .normal ∧
    (atPort .reader (.read 5 5) (openAt .free)).sc.port = some ⟨.reader, .read 5 5, false⟩ ∧
    { (openAt .free).sc with relocation := some ⟨7, 128, .retire⟩ }.relocation ≠ none := by decide

/-- R135, R160: the frames in the writer's hands stay, the operation goes on, and the count has them. -/
theorem test_restart_frames_in_hand :
    let s := atPort .writer (.program (.frames [0]) 3 3 []) (openAt (.undrained 0))
    let t := nextOf (exec (.restart (frameBytes 0x1F 0x07 [])) s)
    (t.sc.port = s.sc.port ∧ t.cu.ring = s.cu.ring ∧
      (t.cu.opened.map (·.captureCount)) = some (programmedFrames s.sc + 1 + (s.cu.opened.map (·.lostCount)).getD 0)) := by
  decide

theorem witness_listed :
    { (ready .run).sc with directory := [⟨44, 7, .held, false, 4, 3, 16, some .complete, some 6⟩] }.directory[0]? =
      some ⟨44, 7, .held, false, 4, 3, 16, some .complete, some 6⟩ := by decide

/-- A command heads the queue of a part whose CX may take it. -/
theorem witness_awaits (kind : Byte) (body : List Byte) (m : Mode) :
    Awaits ⟨kind, 0x2A, body⟩ (withHead kind body (ready m)) := ⟨rfl, rfl, rfl⟩

theorem witness_commands :
    paramOf (fieldAt [0x00, 0x01] 0 2) ≠ none ∧ paramOf (fieldAt [0xFF, 0xFF] 0 2) = none ∧
    fieldAt [8] 0 1 = 7 + 1 ∧ (defaultParams.triggers[7]?).isSome = true ∧
    defaultParams.triggers.length < fieldAt [9] 0 1 ∧ fieldAt [0] 0 1 = 0 ∧
    requiredLength 0x55 = none ∧ knownKind 0x55 = false ∧ ([1] : List Byte).length ≠ 0 ∧
    (noticesAt [0xFF, 0x7F] 0).msb = false ∧ (noticesAt [0, 0x80] 0).msb = true ∧
    triggerInRange (triggerOfBody (List.replicate 14 0)) = true ∧
    triggerInRange (triggerOfBody (List.replicate 14 0xFF)) = false ∧
    (fieldAt [4] 0 1 = 4 ∧ fieldAt [3] 0 1 ≠ 4) := by decide

/-- A trigger entry with its mask and counts at their bounds, and one with the mask bit above. -/
theorem witness_trigger :
    triggerAllowed ⟨true, 0x3FFFF, 0x20000, 200, 1000, true⟩ ∧ ¬triggerAllowed ⟨true, 0x40000, 0, 0, 0, true⟩ :=
  ⟨(triggerInRange_iff _).mp (by decide), fun h => absurd ((triggerInRange_iff _).mpr h) (by decide)⟩

theorem witness_table_in_window :
    let s := { withHead 0x13 [] (ready .run) with pending := [.windowClose .openCircuit (.kPa 0)] }
    s.pending = .windowClose .openCircuit (.kPa 0) :: [] ∧ s.timersRunning = true ∧ windowNext s = true ∧
    windowNext (ready .run) = false := by decide

theorem witness_write :
    (let b : List Byte := [0x00, 0x01, 0x10, 0x04, 0, 0]
     b.length = 6 ∧ paramOf (fieldAt b 0 2) = some (.diameter .a1) ∧ fieldAt b 0 2 < 0x0400 ∧
       (paramInRange (.diameter .a1) (.ofNat 32 (fieldAt b 2 4)) &&
         relationHolds defaultParams (.diameter .a1) (.ofNat 32 (fieldAt b 2 4))) = true) ∧
    (let b : List Byte := [0x00, 0x01, 0xFF, 0xFF, 0, 0]
     (paramInRange (.diameter .a1) (.ofNat 32 (fieldAt b 2 4)) &&
         relationHolds defaultParams (.diameter .a1) (.ofNat 32 (fieldAt b 2 4))) = false) ∧
    0x0400 ≤ fieldAt [0x00, 0x04] 0 2 := by decide

theorem witness_save :
    let s := withHead 0x08 [] { ready .setup with pm := { State.reset.pm with saving := true } }
    s.powered = true ∧ s.pm.saving = true ∧ s.li.queue = ⟨0x08, 0x2A, []⟩ :: [] ∧ s.li.closing = false ∧
    imageGood ⟨s.pm.params, true⟩ = true ∧ imageGood ⟨s.pm.params, false⟩ = false ∧
    { s.li with closing := true }.closing = true := by decide

theorem witness_modes :
    (ready .run).cx.mode ≠ .startup ∧ (ready .run).am.standstill = false ∧
    { resetAxleMonitor with standstill := true }.standstill = true ∧ (ready .setup).pm.defaultsFlag = false ∧
    (ready .setup).bc.demandAge ≤ 3 ∧ (3 : Nat) < resetBlendComputer.demandAge := by decide

/-- At standstill with axle 1 FAULTED and axle 2 not, ENTER SETUP heads the queue; from SETUP, ENTER RUN does. -/
theorem witness_entries :
    (let s := { withHead 0x09 [] (ready .run) with am := { resetAxleMonitor with
         standstill := true
         axles := { PerAxle.all resetSpeedFields with a1 := { resetSpeedFields with sensor := .faulted } } } }
     s.cx.mode ≠ .startup ∧ s.am.standstill = true ∧ (s.am.axles.get .a1).sensor = .faulted ∧
       (s.am.axles.get .a2).sensor ≠ .faulted) ∧
    (ready .setup).cx.mode = .setup ∧ ((ready .setup).sp.trucks.get .a).isProtected = true ∧
    { (ready .setup).sp.trucks.get .a with isProtected := false }.isProtected = false := by decide

theorem witness_store_commands :
    let b : List Byte := [44, 0, 2, 0, 16]
    let sc := { (ready .setup).sc with
      directory := [⟨44, 7, .held, false, 4, 3, 16, some .complete, some 6⟩], storeFull := true
      eraseAhead := .due false }
    b.length = 5 ∧ fieldAt b 4 1 ≤ 16 ∧ (16 : Nat) < fieldAt [0, 0, 0, 0, 17] 4 1 ∧
    entryOf sc (fieldAt b 0 2) = some ⟨44, 7, .held, false, 4, 3, 16, some .complete, some 6⟩ ∧
    fieldAt b 2 2 < 3 ∧ 3 ≤ fieldAt [44, 0, 3, 0, 16] 2 2 ∧ entryOf sc 45 = none ∧
    (2048 : Nat) < fieldAt [0, 0, 0, 0, 1, 8] 4 2 ∧ fieldAt [0, 0, 0, 0, 0, 8] 4 2 ≤ 2048 ∧
    sc.storeFull = true ∧ sc.eraseAhead = .due false ∧ sc.directory.length ≤ 32 ∧
    (sc.directory.map (·.number)).Nodup ∧ { sc with eraseAhead := .due true }.eraseAhead ≠ .due false := by decide

/-- R148: a release while the permitted erase waits releases its record and examines nothing. -/
theorem test_second_release :
    let s := withHead 0x11 [44, 0] (ready .run)
    let t := nextOf (exec .releaseIncident { s with sc := { s.sc with
      directory := [⟨44, 7, .held, true, 16, 3, 16, some .complete, some 18⟩]
      storeFull := true, eraseAhead := .due true } })
    (t.sc.directory.map (·.state), t.sc.storeFull, t.sc.eraseAhead, t.sc.pendingMarks) =
      ([.released], true, .due true, [44]) := by decide

end Sys2Proof.Tests
end

section
/-! PROOFS. The candidate speed of an axle (R5): what rounding to nearest with halves up means in inequalities, the
clamp, and the size of numerator and denominator. -/

namespace Sys2Proof.Machine

/-! ## Rounding to nearest, halves up -/

theorem le_divRound_iff {n d q : Nat} (hd : 0 < d) : q ≤ divRound n d ↔ 2 * d * q ≤ 2 * n + d := by
  rw [divRound, Nat.le_div_iff_mul_le (Nat.mul_pos Nat.zero_lt_two hd), Nat.mul_comm q]

theorem divRound_lt_iff {n d q : Nat} (hd : 0 < d) : divRound n d < q ↔ 2 * n + d < 2 * d * q := by
  rw [← Nat.not_le, le_divRound_iff hd, Nat.not_le]

/-! ## The candidate -/

@[simp] theorem candidateSpeed_zero_interval (k d ppr : Nat) : candidateSpeed k d ppr 0 = 16000 := rfl

theorem candidateSpeed_of_pos (k d ppr : Nat) {t : Nat} (ht : 0 < t) :
    candidateSpeed k d ppr t = min 16000 (divRound (k * d * 355 * 360000) (113 * ppr * t)) :=
  if_neg (Nat.ne_of_gt ht)

theorem candidateSpeed_le (k d ppr t : Nat) : candidateSpeed k d ppr t ≤ 16000 := by
  rcases Nat.eq_zero_or_pos t with rfl | ht
  · exact Nat.le_refl 16000
  · exact candidateSpeed_of_pos k d ppr ht ▸ Nat.min_le_left _ _

theorem candidateSpeed_le_divRound (k d ppr : Nat) {t : Nat} (ht : 0 < t) :
    candidateSpeed k d ppr t ≤ divRound (k * d * 355 * 360000) (113 * ppr * t) :=
  candidateSpeed_of_pos k d ppr ht ▸ Nat.min_le_right _ _

/-- Below the clamp the candidate is the rounded quotient itself. -/
theorem candidateSpeed_eq_divRound {k d ppr t : Nat} (ht : 0 < t) (hc : candidateSpeed k d ppr t < 16000) :
    candidateSpeed k d ppr t = divRound (k * d * 355 * 360000) (113 * ppr * t) := by
  rw [candidateSpeed_of_pos k d ppr ht] at hc ⊢
  omega

/-! ## The limits of the parameter ranges -/

theorem candidate_numerator_lt {k d : Nat} (hk : k ≤ 255) (hd : d ≤ 1270) : k * d * 355 * 360000 < 2 ^ 64 :=
  calc k * d * 355 * 360000 ≤ 255 * 1270 * 355 * 360000 :=
        Nat.mul_le_mul_right _ (Nat.mul_le_mul_right _ (Nat.mul_le_mul hk hd))
    _ < 2 ^ 64 := by decide

theorem candidate_denominator_lt {ppr t : Nat} (hp : ppr ≤ 240) (ht : t ≤ 250000) : 113 * ppr * t < 2 ^ 64 :=
  calc 113 * ppr * t ≤ 113 * 240 * 250000 := Nat.mul_le_mul (Nat.mul_le_mul_left _ hp) ht
    _ < 2 ^ 64 := by decide

/-- Settles O8: both rounding inequalities are those of `divRound`, the lower one where the clamp does not bind. -/
theorem candidateSpeedIsRounded : Obligations.CandidateSpeedIsRounded := by
  intro k d ppr t hppr n m
  have hm (ht : 0 < t) : 0 < m := Nat.mul_pos (Nat.mul_pos (by decide) hppr) ht
  refine ⟨?atZero, candidateSpeed_le k d ppr t, ?upper, ?lower, ?width⟩
  case atZero =>
    rintro rfl
    exact candidateSpeed_zero_interval k d ppr
  case upper =>
    intro ht
    exact (le_divRound_iff (hm ht)).mp (candidateSpeed_le_divRound k d ppr ht)
  case lower =>
    intro ht hc
    apply (divRound_lt_iff (hm ht)).mp
    rw [candidateSpeed_eq_divRound ht hc]
    exact Nat.lt_succ_self _
  case width =>
    intro hk hd hp ht
    exact ⟨candidate_numerator_lt hk hd, candidate_denominator_lt hp ht⟩

end Sys2Proof.Machine
end

section
/-! PROOFS. A blend run outside RUN (R62): what it leaves in BC, and the notice LINK_LOSS as its only other trace. -/

namespace Sys2Proof.Machine

/-- All that raising a notice changes of a state, whether or not its cause has begun. -/
theorem raiseIf_eq (b : Bool) (n : Notice) (s : State) :
    raiseIf b n s =
      { s with cx := { s.cx with notices := if b then s.cx.notices ||| noticeBit n else s.cx.notices } } := by
  cases b <;> rfl

/-- The bit of LINK_LOSS in the notice set (R187). -/
theorem noticeBit_linkLoss : noticeBit .linkLoss = 0x0020 := by decide

/-- BLEND RUN is its arm of the dispatcher, and a powered part with its timers running makes the run (R59). -/
theorem exec_blendRun {s : State} (hp : s.powered = true) (ht : s.timersRunning = true) :
    exec .blendRun s = .next (raiseIf (s.bc.demandAge == 3) .linkLoss { s with bc := blendResult s }) := by
  have harm : exec .blendRun s = done s (blendRun s) := rfl
  rw [harm, done_powered _ hp, blendRun, if_pos ht]

/-- A run outside RUN computes P_auto and F_auto, and of the rest only the demand age is not at its reset value. -/
theorem blendResult_outside_run {s : State} (hm : s.cx.mode ≠ .run) :
    blendResult s = { resetBlendComputer with
      pAuto := pAutoOf s.pm.params.blend s.bpm.reduction
      fAuto := airEffort s.pm.params.blend (pAutoOf s.pm.params.blend s.bpm.reduction)
      demandAge := satInc 255 s.bc.demandAge } := by
  have hrun : ¬(s.cx.mode == .run) = true := by simpa using hm
  exact if_neg hrun

/-- Settles O25: outside RUN the run stores `blendResult`, and the notice it may raise is its one change beside BC. -/
theorem runOutsideRunRequestsNothing : Obligations.RunOutsideRunRequestsNothing := by
  intro s hp ht hm p pa
  refine ⟨_, exec_blendRun hp ht, ?record, ?frame⟩
  case record =>
    rw [raiseIf_bc]
    exact blendResult_outside_run hm
  case frame =>
    rw [raiseIf_eq, noticeBit_linkLoss]
    simp only [beq_iff_eq]

end Sys2Proof.Machine
end

section
/-! PROOFS. The overrun latch of LI (R180, R183): a queued command on arrival, and CLEAR OVERRUN, each by the frame that
arrives, its rule, and the reply it places. -/

namespace Sys2Proof.Machine

/-- Every kind but those of CYCLE DEMAND, CLEAR OVERRUN and RESTART is that of a queued command (R180). -/
theorem queuedKind_iff (k : Byte) : queuedKind k = true ↔ k ≠ 0x01 ∧ k ≠ 0x1E ∧ k ≠ 0x1F := by
  simp [queuedKind, kindCycleDemand, kindClearOverrun, kindRestart, and_assoc]

/-- The bit of LINK_OVERRUN in the notice set (R187). -/
theorem noticeBit_linkOverrun : noticeBit .linkOverrun = 0x1000 := by decide

/-- The answer to an arrival leaves the receiver alone. -/
@[simp] theorem placeArrivalReply_receiver (r : Reply) (s : State) :
    (placeArrivalReply r s).li.receiver = s.li.receiver := by
  obtain ⟨hframe, -⟩ := placeArrivalReply_answered r s
  rw [hframe]

/-! ## The rules of the two arrivals -/

theorem queueCommand_of_overrun (kind tag : Byte) (body : List Byte) {s : State} (ho : s.li.overrun = true) :
    queueCommand kind tag body s = placeArrivalReply ⟨replyKind kind, tag, [0x02], .plain⟩ s :=
  if_pos ho

theorem queueCommand_of_room (kind tag : Byte) (body : List Byte) {s : State} (ho : s.li.overrun = false)
    (hq : s.li.queue.length < 4) :
    queueCommand kind tag body s = { s with li := { s.li with queue := s.li.queue ++ [⟨kind, tag, body⟩] } } := by
  rw [queueCommand, if_neg (by simp [ho]), if_pos hq]

theorem queueCommand_of_full (kind tag : Byte) (body : List Byte) {s : State} (ho : s.li.overrun = false)
    (hq : 4 ≤ s.li.queue.length) :
    queueCommand kind tag body s = placeArrivalReply ⟨replyKind kind, tag, [0x01], .plain⟩
      { s with
        li := { s.li with overrun := true }
        cx := { s.cx with notices := s.cx.notices ||| 0x1000 } } := by
  rw [queueCommand, if_neg (by simp [ho]), if_neg (Nat.not_lt.mpr hq), raise, noticeBit_linkOverrun]
  rfl

/-- CLEAR OVERRUN is answered in either case; its body decides between the status and the latch (R183). -/
theorem clearOverrun_eq (tag : Byte) (body : List Byte) (s : State) :
    clearOverrun tag body s =
      placeArrivalReply ⟨0x9E, tag, [if body.isEmpty then 0x00 else 0x03], .plain⟩
        { s with li := { s.li with overrun := s.li.overrun && !body.isEmpty } } := by
  have hk : replyKind kindClearOverrun = 0x9E := by decide
  cases body <;> simp [clearOverrun, statusReply, statusCode, hk]

/-! ## The arrivals at the dispatcher -/

theorem exec_queuedCommandArrival {bytes body : List Byte} {kind tag : Byte} {s : State}
    (h : Arrives bytes kind tag body s) (hk : queuedKind kind = true) :
    ∃ r, exec (.queuedCommandArrival bytes) s =
      .next (queueCommand kind tag body { s with li := { s.li with receiver := r } }) := by
  have harm : exec (.queuedCommandArrival bytes) s = done s (onFrame bytes queuedKind queueCommand s) := rfl
  obtain ⟨r, hr⟩ := onFrame_arrives queueCommand h hk
  exact ⟨r, by rw [harm, done_powered _ h.1, hr]⟩

theorem exec_clearOverrun {bytes body : List Byte} {tag : Byte} {s : State} (h : Arrives bytes 0x1E tag body s) :
    ∃ r, exec (.clearOverrun bytes) s =
      .next (clearOverrun tag body { s with li := { s.li with receiver := r } }) := by
  have harm : exec (.clearOverrun bytes) s =
      done s (onFrame bytes (fun k => k == kindClearOverrun) (fun _ => clearOverrun) s) := rfl
  obtain ⟨r, hr⟩ : ∃ r, onFrame bytes (fun k => k == kindClearOverrun) (fun _ => clearOverrun) s =
      clearOverrun tag body { s with li := { s.li with receiver := r } } := onFrame_arrives _ h (by decide)
  exact ⟨r, by rw [harm, done_powered _ h.1, hr]⟩

/-- Settles O46: `queueCommand` answers, queues or answers by the latch and the room, `clearOverrun` always answers, and
`placeArrivalReply_answered` says what each answer does. -/
theorem overrunLatchIsSetAndCleared : Obligations.OverrunLatchIsSetAndCleared := by
  refine ⟨fun bytes body kind tag s h hdemand hclear hrestart => ?queued, fun bytes body tag s h => ?clear⟩
  case queued =>
    obtain ⟨r, hexec⟩ := exec_queuedCommandArrival h ((queuedKind_iff kind).mpr ⟨hdemand, hclear, hrestart⟩)
    refine ⟨fun ho => ⟨_, hexec, ?latched⟩, fun ho hq => ⟨_, hexec, ?room⟩, fun ho hq => ⟨_, hexec, ?full⟩⟩
    case latched =>
      rw [queueCommand_of_overrun, placeArrivalReply_receiver]
      · exact placeArrivalReply_answered _ _
      · exact ho
    case room =>
      rw [queueCommand_of_room]
      · exact ho
      · exact hq
    case full =>
      rw [queueCommand_of_full, placeArrivalReply_receiver]
      · exact placeArrivalReply_answered _ _
      · exact ho
      · exact hq
  case clear =>
    obtain ⟨r, hexec⟩ := exec_clearOverrun h
    refine ⟨_, hexec, ?_⟩
    rw [clearOverrun_eq, placeArrivalReply_receiver]
    exact placeArrivalReply_answered _ _

end Sys2Proof.Machine
end

section
/-! PROOFS. The commands that change the part mode (R194, R195): ENTER SETUP and ENTER RUN, each by its mode check, the
effects of the entry on the blocks' records (R196), and the status-only reply. -/

namespace Sys2Proof.Machine

@[simp] theorem PerAxle.get_map {α β : Type} (f : α → β) (p : PerAxle α) (i : AxleNo) :
    (p.map f).get i = f (p.get i) := by
  cases i <;> rfl

@[simp] theorem PerTruck.get_both {α : Type} (x : α) (g : Truck) : (PerTruck.both x).get g = x := by
  cases g <;> rfl

/-! ## Entry to SETUP: AM (R16), SP (R42) and CO (R196) -/

theorem clearFaultedAxles_get (axles : PerAxle SpeedFields) (i : AxleNo) :
    (clearFaultedAxles axles).get i = if (axles.get i).sensor = .faulted then clearedFields else axles.get i :=
  PerAxle.get_map _ _ _

theorem setupSlideUnit_axle (p : SlideParams) (axles : PerAxle SpeedFields) (u : SlideUnit) (i : AxleNo) :
    (setupSlideUnit p axles u).axles.get i = clearSlide (axles.get i) (u.axles.get i) :=
  PerAxle.get_ofFn _ _

theorem setupSlideUnit_truck (p : SlideParams) (axles : PerAxle SpeedFields) (u : SlideUnit) (g : Truck) :
    (setupSlideUnit p axles u).trucks.get g = resetTruckRecord p :=
  PerTruck.get_both _ _

theorem setupSlideUnit_valve (p : SlideParams) (axles : PerAxle SpeedFields) (u : SlideUnit) (v : SandDir) :
    valveOf (setupSlideUnit p axles u) v = resetSandValve := by
  cases v <;> rfl

theorem setupCylinderOutput_truck (o : CylinderOutput) (g : Truck) :
    (setupCylinderOutput o).trucks.get g = { o.trucks.get g with airFault := false, deviation := 0 } :=
  PerTruck.get_map _ _ _

/-- Entry to SETUP leaves an axle that is not FAULTED alone, in AM and in SP. -/
theorem enterSetup_axle_kept {s : State} {i : AxleNo} (h : (s.am.axles.get i).sensor ≠ .faulted) :
    (enterSetup s).am.axles.get i = s.am.axles.get i ∧ (enterSetup s).sp.axles.get i = s.sp.axles.get i := by
  rw [enterSetup_am, enterSetup_sp, clearFaultedAxles_get, setupSlideUnit_axle, clearSlide, if_neg h, if_neg h]
  exact ⟨rfl, rfl⟩

/-- Entry to SETUP makes a FAULTED axle one that is silent at rest, with its slide fields as after reset. -/
theorem enterSetup_axle_cleared {s : State} {i : AxleNo} (h : (s.am.axles.get i).sensor = .faulted) :
    (enterSetup s).am.axles.get i = clearedFields ∧
      (enterSetup s).sp.axles.get i =
        { resetSlideFields with wasFaulted := (s.sp.axles.get i).wasFaulted } := by
  rw [enterSetup_am, enterSetup_sp, clearFaultedAxles_get, setupSlideUnit_axle, clearSlide, if_pos h, if_pos h]
  exact ⟨rfl, rfl⟩

/-! ## Entry to RUN: SP (R34) -/

theorem runSlideUnit_truck (p : SlideParams) (u : SlideUnit) (g : Truck) :
    (runSlideUnit p u).trucks.get g =
      if (u.trucks.get g).isProtected = true then { u.trucks.get g with cap := p.nominalCap }
      else u.trucks.get g :=
  PerTruck.get_map _ _ _

/-! ## The two commands at the dispatcher -/

theorem exec_enterSetup {c : Command} {s : State} (h : Awaits c s) (hk : c.kind = 0x09) (hb : c.body = []) :
    exec .enterSetup s = .next (enterSetupCommand c s) := by
  have harm : exec .enterSetup s = done s (takeCommand 0x09 0 enterSetupCommand s) := rfl
  rw [harm, done_take h hk (List.length_eq_zero_iff.mpr hb)]

theorem exec_enterRun {c : Command} {s : State} (h : Awaits c s) (hk : c.kind = 0x0A) (hb : c.body = []) :
    exec .enterRun s = .next (enterRunCommand c s) := by
  have harm : exec .enterRun s = done s (takeCommand 0x0A 0 enterRunCommand s) := rfl
  rw [harm, done_take h hk (List.length_eq_zero_iff.mpr hb)]

/-! ## The mode checks -/

theorem enterSetupCommand_refused {s : State} (c : Command) (h : s.cx.mode = .startup ∨ s.am.standstill = false) :
    enterSetupCommand c s = refuseCommand c .wrongMode s :=
  if_pos (by simpa using h)

theorem enterSetupCommand_accepted {s : State} (c : Command) (hm : s.cx.mode ≠ .startup)
    (hs : s.am.standstill = true) : enterSetupCommand c s = answerOk c (enterSetup s) :=
  if_neg (by simp [hm, hs])

theorem enterRunCommand_startup {s : State} (c : Command) (hm : s.cx.mode = .startup) :
    enterRunCommand c s = refuseCommand c .wrongMode s := by
  simp only [enterRunCommand, hm]

/-- From SETUP the defaults flag and the demand age decide; neither the speed nor STANDSTILL enters. -/
theorem enterRunCommand_setup {s : State} (c : Command) (hm : s.cx.mode = .setup) :
    enterRunCommand c s = if s.pm.defaultsFlag = true ∨ 3 < s.bc.demandAge then refuseCommand c .wrongMode s
      else answerOk c (enterRun s) := by
  simp only [enterRunCommand, hm, Bool.or_eq_true, decide_eq_true_eq]

theorem enterRunCommand_run {s : State} (c : Command) (hm : s.cx.mode = .run) :
    enterRunCommand c s = answerOk c s := by
  simp only [enterRunCommand, hm]

/-! ## The obligations -/

/-- Settles O55: `answerOk` keeps the records of AM, SP and CO, and those `enterSetup` leaves are read off per axle, per
truck and per valve. -/
theorem enterSetupNeedsStandstill : Obligations.EnterSetupNeedsStandstill := by
  intro c s h hk hb
  rw [exec_enterSetup h hk hb]
  refine ⟨fun href => ⟨_, rfl, ?refused⟩, fun hm hs => ?accepted⟩
  case refused =>
    rw [enterSetupCommand_refused c href]
    exact refuseCommand_statusOnly c .wrongMode s
  case accepted =>
    have hans := answerOk_answer c (enterSetup s)
    rw [enterSetupCommand_accepted c hm hs]
    refine ⟨_, rfl, ?_⟩
    rw [hans.am, hans.sp, hans.co]
    exact ⟨answerOk_statusOnly c (enterSetup s), rfl, setupCylinderOutput_truck s.co, setupSlideUnit_truck _ _ _,
      setupSlideUnit_valve _ _ _, fun i => ⟨enterSetup_axle_kept, enterSetup_axle_cleared⟩⟩

/-- Settles O56: in SETUP `enterRunCommand_setup` decides, and `runSlideUnit` leaves each truck's record; in RUN the
answer is the only effect. -/
theorem enterRunNeedsParametersAndLink : Obligations.EnterRunNeedsParametersAndLink := by
  intro c s h hk hb
  rw [exec_enterRun h hk hb]
  refine ⟨fun href => ⟨_, rfl, ?refused⟩, fun hm hd ha => ?fromSetup, fun hm => ⟨_, rfl, ?fromRun⟩⟩
  case refused =>
    have hrefuse : enterRunCommand c s = refuseCommand c .wrongMode s := by
      obtain hm | ⟨hm, hcause⟩ := href
      · exact enterRunCommand_startup c hm
      · rw [enterRunCommand_setup c hm, if_pos hcause]
    rw [hrefuse]
    exact refuseCommand_statusOnly c .wrongMode s
  case fromSetup =>
    have haccept : enterRunCommand c s = answerOk c (enterRun s) := by
      rw [enterRunCommand_setup c hm, if_neg (by simp [hd, ha])]
    rw [haccept]
    refine ⟨_, rfl, ?_⟩
    rw [(answerOk_answer c (enterRun s)).sp]
    exact ⟨answerOk_statusOnly c (enterRun s), runSlideUnit_truck _ _⟩
  case fromRun =>
    rw [enterRunCommand_run c hm]
    exact answerOk_statusOnly c s

end Sys2Proof.Machine
end

section
/-! PROOFS. What a command can do, said once: the effect of `exec` on the part, one constructor for each meaning, with
the rows of a bound taken together with their enclosing step and the queued commands with their rules. Every invariant
is derived from it. -/

namespace Sys2Proof.Machine

/-- The rows that are a WINDOW CLOSE, with its operands (assumption log 1). -/
def windowRow (a b : Reading) (c : Instr) : Prop :=
  c = .windowClose a b ∨ (∃ i, c = .locked i a b ∨ c = .quietSilence i a b ∨ c = .implausibleFault i a b ∨
    c = .sensorFaultTime i a b) ∨ (∃ g, c = .holdTimeEnd g a b ∨ c = .episodeTimeout g a b ∨ c = .lockoutEnd g a b ∨
    c = .airFault g a b) ∨ ∃ v, c = .sandMaxTime v a b ∨ c = .sandRestEnd v a b

/-- The rows that are a BP SAMPLE, with its operand. -/
def pipeRow (r : Reading) (c : Instr) : Prop :=
  c = .bpSample r ∨ c = .rateTrigger r ∨ c = .bpSensorFault r ∨ c = .emergencyRecovery r

/-- The rule by which CX executes a queued command of the required length (R182). -/
def ruleOf : Instr → Option (Command → State → State)
  | .readStatus => some (fun c t => answerWith c (statusBody t) t)
  | .readNotices => some (fun c t =>
      answerWith c ([statusCode .ok] ++ le16 t.cx.notices.toNat ++ le16 t.cx.noticeEnable.toNat) t)
  | .clearNotices => some clearNotices
  | .setNoticeEnable => some setNoticeEnable
  | .readParameter => some readParameter
  | .writeParameter => some writeParameter
  | .saveParameters => some saveParameters
  | .enterSetup => some enterSetupCommand
  | .enterRun => some enterRunCommand
  | .setTrigger => some setTrigger
  | .readTrigger => some readTrigger
  | .markIncident => some (fun c t => answerOk c (withCu (fun cu => { cu with markPending := true }) t))
  | .listIncidents => some (storeCommand listIncidents)
  | .readIncident => some (storeCommand readIncident)
  | .verifyIncident => some (storeCommand verifyIncident)
  | .releaseIncident => some (storeCommand releaseIncident)
  | .setReadBurst => some setReadBurst
  | .readAxleTable => some readAxleTable
  | _ => none

/-- `s` with LI's receiver moved on (R177). -/
def withReceiver (r : Receiver) (s : State) : State := { s with li := { s.li with receiver := r } }

/-- `t` is what the command `c` can leave of `s`. -/
inductive Effect (s : State) : Instr → State → Prop
  | idle (c) : Effect s c s
  | powerOn : Effect s .powerOn (powerUp (if s.powered then powerLoss s else s))
  | parameterLoad : s.cx.loadEnded = false → s.li.closing = false → Effect s .parameterLoadEnd
      (if s.cx.rebuildEnded then enterSetup (parameterLoad s) else parameterLoad s)
  | rebuild (reads results) : rebuilding s = true →
      Effect s (.rebuildEnd reads results) (rebuildEnded (rebuild reads results s))
  | edge (i delay) (axles : PerAxle SpeedFields) :
      Effect s (.tachometerEdge i delay) { s with am := { s.am with timer := s.am.timer + delay, axles := axles } }
  | window {c} (a b) : windowRow a b c → Effect s c (windowClose a b s)
  | recoverCaps (trucks : PerTruck TruckRecord) :
      Effect s .adhesionRecovery { s with sp := { s.sp with trucks := trucks } }
  | sample {c} (r) : pipeRow r c → Effect s c (bpmSample r s)
  | blend {c} : c = .blendRun ∨ c = .linkLoss → Effect s c (blendRun s)
  | thermal : Effect s .thermalUpdate (thermalUpdate s)
  | capture {c} : c = .capture ∨ c = .recordEnd → Effect s c (capture s)
  | grant {t} : execStoreGrant s = .next t → Effect s .storeGrant t
  | programComplete (ok) : Effect s (.programComplete ok) (programComplete ok s)
  | markComplete (ok) : Effect s (.markProgramComplete ok) (markComplete ok s)
  | eraseComplete (ok) : Effect s (.eraseComplete ok) (eraseComplete ok s)
  | copyComplete (o ok) : Effect s (.copyComplete o ok) (copyComplete o ok s)
  | mapWriteComplete (ok) : Effect s (.mapWriteComplete ok) (mapWriteComplete ok s)
  | readComplete (o) : Effect s (.readComplete o) (readComplete o s)
  | relocationStart : Effect s .relocationStart (relocationStart s)
  | demand (bytes tag body r) : s.li.closing = false →
      Effect s (.cycleDemand bytes) (takeDemand tag body (withReceiver r s))
  | arrival (bytes kind tag body r) : s.li.closing = false →
      Effect s (.queuedCommandArrival bytes) (queueCommand kind tag body (withReceiver r s))
  | discard (bytes r) : Effect s (.frameDiscard bytes) (raise .frameErrors (withReceiver r s))
  | gap (bytes after r) : Effect s (.frameGap bytes after) (raise .frameErrors (withReceiver r s))
  | frameSent : Effect s .frameSent (frameSent s)
  | clearOverrun (bytes tag body r) : s.li.closing = false →
      Effect s (.clearOverrun bytes) (clearOverrun tag body (withReceiver r s))
  | restart (bytes tag body r) : s.li.closing = false →
      Effect s (.restart bytes) (takeRestart tag body (withReceiver r s))
  | reset : closingEnded s = true → Effect s .resetProceeds (powerUp s)
  | command {c rule q rest} : ruleOf c = some rule → s.li.queue = q :: rest → cxMayTake s = true →
      Effect s c (rule q s)
  | refused {c q rest} (st) : (ruleOf c).isSome = true ∨ c = .unknownKind → s.li.queue = q :: rest →
      cxMayTake s = true → Effect s c (refuseCommand q st s)
  | saveComplete (ok) : Effect s (.saveComplete ok) (saveComplete ok s)
  | powerLoss : Effect s .powerLoss (powerLoss s)

/-- A command answered through `done` does what its meaning does, or nothing. -/
theorem Effect.of_done {c : Instr} {s t u : State} (h : done s t = .next u) (k : Effect s c t) : Effect s c u := by
  obtain rfl | rfl := done_cases h
  · exact k
  · exact .idle c

theorem Effect.of_occasion {c : Instr} {s t u : State} {b : Bool} (h : onOccasion b s t = .next u)
    (k : Effect s c t) : Effect s c u := by
  obtain rfl | rfl := onOccasion_cases h
  · exact k
  · exact .idle c

/-- CX takes the head command by its rule, refuses it by its length, or does not take it (R181, R182). -/
theorem Effect.of_take {c : Instr} {kind : Byte} {len : Nat} {rule : Command → State → State} {s : State}
    (hr : ruleOf c = some rule) : Effect s c (takeCommand kind len rule s) := by
  unfold takeCommand
  split
  · exact .idle c
  · next q rest hq =>
    split
    · next hk =>
      split
      · exact .command hr hq hk.2
      · exact .refused .badLength (.inl (by rw [hr]; rfl)) hq hk.2
    · exact .idle c

/-- A frame of the line has the effect of its rule, or none. -/
theorem Effect.of_frame {c : Instr} {bytes : List Byte} {accepts : Byte → Bool}
    {rule : Byte → Byte → List Byte → State → State} {s : State}
    (k : ∀ kind tag body r, s.li.closing = false → Effect s c (rule kind tag body (withReceiver r s))) :
    Effect s c (onFrame bytes accepts rule s) := by
  obtain ⟨kind, tag, body, r, -, -, hc, e⟩ | e := onFrame_cases bytes accepts rule s
  · exact e ▸ k kind tag body r hc
  · exact e.symm ▸ .idle c

theorem effect_frameDiscard (bytes : List Byte) (s : State) :
    Effect s (.frameDiscard bytes) (onLine bytes (fun e t =>
      match e with
      | .discarded => raise .frameErrors t
      | .arrived _ _ _ => s) s) := by
  unfold onLine
  split
  · exact .idle _
  · split
    · next r e _ =>
      cases e
      · exact .idle _
      · exact .discard bytes r
    · exact .idle _

theorem effect_frameGap (bytes : List Byte) (after : Byte) (s : State) :
    Effect s (.frameGap bytes after) (frameGap bytes after s) := by
  unfold frameGap
  split
  · exact .idle _
  · split
    · exact .gap bytes after _
    · exact .idle _

theorem effect_unknownKind (s : State) : Effect s .unknownKind (unknownKind s) := by
  unfold unknownKind
  split
  · exact .idle _
  · next q rest hq =>
    split
    · next hk => exact .refused .unknownKind (.inr rfl) hq hk.2
    · exact .idle _

/-- All that a command can do: every next state that `exec` answers is one of `Effect`. -/
theorem exec_effect {c : Instr} {s t : State} (h : exec c s = .next t) : Effect s c t := by
  cases c with
  | powerOn => exact Host.Outcome.next.inj h ▸ .powerOn
  | parameterLoadEnd =>
    refine .of_done h ?_
    split
    · exact .idle _
    · next hc =>
      simp only [Bool.or_eq_true, not_or, Bool.not_eq_true] at hc
      have hre : (parameterLoad s).cx.rebuildEnded = s.cx.rebuildEnded := by simp [parameterLoad, raiseIf_cx]
      dsimp only
      rw [hre]
      exact .parameterLoad hc.1 hc.2
  | rebuildEnd reads results =>
    have harm : execRebuildEnd reads results s = .next t := h
    obtain ht | ⟨hr, ht⟩ := execRebuildEnd_cases harm
    · exact ht ▸ .idle _
    · exact ht ▸ .rebuild reads results hr
  | tachometerEdge i delay => exact .of_done h (.edge i delay _)
  | windowClose a b => exact .of_done h (.window a b (.inl rfl))
  | locked i a b => exact .of_occasion h (.window a b (by simp [windowRow]))
  | quietSilence i a b => exact .of_occasion h (.window a b (by simp [windowRow]))
  | implausibleFault i a b => exact .of_occasion h (.window a b (by simp [windowRow]))
  | sensorFaultTime i a b => exact .of_occasion h (.window a b (by simp [windowRow]))
  | holdTimeEnd g a b => exact .of_occasion h (.window a b (by simp [windowRow]))
  | episodeTimeout g a b => exact .of_occasion h (.window a b (by simp [windowRow]))
  | lockoutEnd g a b => exact .of_occasion h (.window a b (by simp [windowRow]))
  | sandMaxTime v a b => exact .of_occasion h (.window a b (by simp [windowRow]))
  | sandRestEnd v a b => exact .of_occasion h (.window a b (by simp [windowRow]))
  | airFault g a b => exact .of_occasion h (.window a b (by simp [windowRow]))
  | adhesionRecovery =>
    refine .of_done h ?_
    split
    · exact .recoverCaps _
    · exact .idle _
  | bpSample r => exact .of_done h (.sample r (by simp [pipeRow]))
  | rateTrigger r => exact .of_occasion h (.sample r (by simp [pipeRow]))
  | bpSensorFault r => exact .of_occasion h (.sample r (by simp [pipeRow]))
  | emergencyRecovery r => exact .of_occasion h (.sample r (by simp [pipeRow]))
  | blendRun => exact .of_done h (.blend (.inl rfl))
  | linkLoss => exact .of_occasion h (.blend (.inr rfl))
  | thermalUpdate => exact .of_done h .thermal
  | capture => exact .of_done h (.capture (.inl rfl))
  | recordEnd => exact .of_occasion h (.capture (.inr rfl))
  | storeGrant => exact .grant h
  | programComplete ok => exact .of_done h (.programComplete ok)
  | markProgramComplete ok => exact .of_done h (.markComplete ok)
  | eraseComplete ok => exact .of_done h (.eraseComplete ok)
  | copyComplete o ok => exact .of_done h (.copyComplete o ok)
  | mapWriteComplete ok => exact .of_done h (.mapWriteComplete ok)
  | readComplete o => exact .of_done h (.readComplete o)
  | relocationStart => exact .of_done h .relocationStart
  | cycleDemand bytes => exact .of_done h (.of_frame fun _ tag body r hc => .demand bytes tag body r hc)
  | queuedCommandArrival bytes =>
    exact .of_done h (.of_frame fun kind tag body r hc => .arrival bytes kind tag body r hc)
  | frameDiscard bytes => exact .of_done h (effect_frameDiscard bytes s)
  | frameGap bytes after => exact .of_done h (effect_frameGap bytes after s)
  | frameSent => exact .of_done h .frameSent
  | clearOverrun bytes => exact .of_done h (.of_frame fun _ tag body r hc => .clearOverrun bytes tag body r hc)
  | restart bytes => exact .of_done h (.of_frame fun _ tag body r hc => .restart bytes tag body r hc)
  | resetProceeds =>
    refine .of_done h ?_
    split
    · next hc => exact .reset hc
    · exact .idle _
  | unknownKind => exact .of_done h (effect_unknownKind s)
  | saveComplete ok => exact .of_done h (.saveComplete ok)
  | powerLoss => exact .of_done h .powerLoss
  | readStatus => exact .of_done h (.of_take rfl)
  | readNotices => exact .of_done h (.of_take rfl)
  | clearNotices => exact .of_done h (.of_take rfl)
  | setNoticeEnable => exact .of_done h (.of_take rfl)
  | readParameter => exact .of_done h (.of_take rfl)
  | writeParameter => exact .of_done h (.of_take rfl)
  | saveParameters => exact .of_done h (.of_take rfl)
  | enterSetup => exact .of_done h (.of_take rfl)
  | enterRun => exact .of_done h (.of_take rfl)
  | setTrigger => exact .of_done h (.of_take rfl)
  | readTrigger => exact .of_done h (.of_take rfl)
  | markIncident => exact .of_done h (.of_take rfl)
  | listIncidents => exact .of_done h (.of_take rfl)
  | readIncident => exact .of_done h (.of_take rfl)
  | verifyIncident => exact .of_done h (.of_take rfl)
  | releaseIncident => exact .of_done h (.of_take rfl)
  | setReadBurst => exact .of_done h (.of_take rfl)
  | readAxleTable => exact .of_done h (.of_take rfl)

end Sys2Proof.Machine
end

section
/-! PROOFS. The records that every command but a few leaves alone: brake pipe, blend result, thermal groups, outputs and
part mode. From `owners_cases` the invariants of those records follow, each with a case for every command that moves
one of them. -/

namespace Sys2Proof.Machine

/-- `t` has the brake pipe record, the blend result, the thermal groups, the outputs and the part mode of `s`, with the
start-up marks. -/
structure OwnersKept (s t : State) : Prop where
  bpm : t.bpm = s.bpm
  bc : t.bc = s.bc
  gt : t.gt = s.gt
  co : t.co = s.co
  mode : t.cx.mode = s.cx.mode
  loadEnded : t.cx.loadEnded = s.cx.loadEnded
  rebuildEnded : t.cx.rebuildEnded = s.cx.rebuildEnded

theorem OwnersKept.refl (s : State) : OwnersKept s s := ⟨rfl, rfl, rfl, rfl, rfl, rfl, rfl⟩

theorem OwnersKept.trans {s t u : State} (h : OwnersKept s t) (k : OwnersKept t u) : OwnersKept s u :=
  ⟨k.bpm.trans h.bpm, k.bc.trans h.bc, k.gt.trans h.gt, k.co.trans h.co, k.mode.trans h.mode,
    k.loadEnded.trans h.loadEnded, k.rebuildEnded.trans h.rebuildEnded⟩

/-- Updates of other records leave these alone. -/
theorem OwnersKept.of_rfl {s t : State} (h : OwnersKept s t := by exact ⟨rfl, rfl, rfl, rfl, rfl, rfl, rfl⟩) :
    OwnersKept s t := h

/-- What follows an update of other records leaves these alone. -/
theorem OwnersKept.after {s t u : State} (k : OwnersKept t u) (h : OwnersKept s t := by exact .of_rfl) :
    OwnersKept s u := h.trans k

theorem AnswerFrame.owners {s t : State} (h : AnswerFrame s t) : OwnersKept s t :=
  ⟨h.bpm, h.bc, h.gt, h.co, h.mode, h.loadEnded, h.rebuildEnded⟩

theorem StoreFrame.owners {s t : State} (h : StoreFrame s t) : OwnersKept s t := h.answer.owners

theorem withReceiver_owners (r : Receiver) (s : State) : OwnersKept s (withReceiver r s) := .of_rfl

theorem startTx_owners (s : State) : OwnersKept s (startTx s) := (startTx_answer s).owners

theorem placeReport_owners (e : ReportEntry) (s : State) : OwnersKept s (placeReport e s) := by
  unfold placeReport
  split
  · exact .after (startTx_owners _)
  · exact .of_rfl

theorem queueCommand_owners (kind tag : Byte) (body : List Byte) (s : State) :
    OwnersKept s (queueCommand kind tag body s) := by
  unfold queueCommand
  split
  · exact (placeArrivalReply_answer _ s).owners
  · split
    · exact .of_rfl
    · exact .after (placeArrivalReply_answer _ _).owners

theorem clearOverrun_owners (tag : Byte) (body : List Byte) (s : State) :
    OwnersKept s (clearOverrun tag body s) := by
  unfold clearOverrun
  split
  · exact .after (placeArrivalReply_answer _ _).owners
  · exact (placeArrivalReply_answer _ s).owners

theorem frameSent_owners (s : State) : OwnersKept s (frameSent s) := by
  unfold frameSent
  split
  · exact .of_rfl
  · refine OwnersKept.trans ?_ (startTx_owners _)
    split
    · exact .of_rfl
    · exact .after (readReplySent_answer _).owners
    · exact .of_rfl

theorem saveComplete_owners (ok : Bool) (s : State) : OwnersKept s (saveComplete ok s) := by
  unfold saveComplete
  split
  · dsimp only
    generalize (if imageGood ⟨s.pm.params, ok⟩ then Status.ok else Status.uncorrectable) = st
    split
    · exact .of_rfl
    · split
      · exact .of_rfl
      · exact .after (finishCommand_answer _ _).owners
  · exact .of_rfl

theorem powerLoss_owners (s : State) : OwnersKept s (powerLoss s) := by
  cases hp : s.sc.port with
  | none => simp only [powerLoss, hp]; exact .of_rfl
  | some p => simp only [powerLoss, hp]; exact .of_rfl

/-- The entry to SETUP at ENTER SETUP, or a refusal (R194). -/
theorem enterSetupCommand_cases (q : Command) (s : State) :
    enterSetupCommand q s = refuseCommand q .wrongMode s ∨
    (s.cx.mode ≠ .startup ∧ enterSetupCommand q s = answerOk q (enterSetup s)) := by
  unfold enterSetupCommand
  split
  · exact .inl rfl
  · next h => exact .inr ⟨fun hm => h (.inl hm), rfl⟩

/-- The entry to RUN at ENTER RUN, from SETUP alone; otherwise a refusal, or an answer without effect (R195). -/
theorem enterRunCommand_cases (q : Command) (s : State) :
    enterRunCommand q s = refuseCommand q .wrongMode s ∨ enterRunCommand q s = answerOk q s ∨
    (s.cx.mode = .setup ∧ enterRunCommand q s = answerOk q (enterRun s)) := by
  unfold enterRunCommand
  split
  · exact .inl rfl
  · next hm =>
    split
    · exact .inl rfl
    · exact .inr (.inr ⟨hm, rfl⟩)
  · exact .inr (.inl rfl)

theorem clearNotices_owners (q : Command) (s : State) : OwnersKept s (clearNotices q s) := by
  unfold clearNotices
  dsimp only
  split
  · exact (refuseCommand_answer _ _ s).owners
  · exact .after (answerOk_answer _ _).owners

theorem setNoticeEnable_owners (q : Command) (s : State) : OwnersKept s (setNoticeEnable q s) := by
  unfold setNoticeEnable
  dsimp only
  split
  · exact (refuseCommand_answer _ _ s).owners
  · exact .after (answerOk_answer _ _).owners

theorem writeParameter_owners (q : Command) (s : State) : OwnersKept s (writeParameter q s) := by
  unfold writeParameter
  dsimp only
  split
  · exact (refuseCommand_answer _ _ s).owners
  · split
    · exact (refuseCommand_answer _ _ s).owners
    · split
      · exact .after (answerOk_answer _ _).owners
      · exact (refuseCommand_answer _ _ s).owners

theorem saveParameters_owners (q : Command) (s : State) : OwnersKept s (saveParameters q s) := by
  unfold saveParameters
  split
  · exact (refuseCommand_answer _ _ s).owners
  · exact .of_rfl

theorem setTrigger_owners (q : Command) (s : State) : OwnersKept s (setTrigger q s) := by
  unfold setTrigger
  dsimp only
  split
  · exact .after (answerOk_answer _ _).owners
  · exact (refuseCommand_answer _ _ s).owners

theorem readParameter_answer (q : Command) (s : State) : AnswerFrame s (readParameter q s) := by
  unfold readParameter
  dsimp only
  split
  · exact refuseCommand_answer _ _ s
  · exact answerWith_answer _ _ s

theorem readTrigger_answer (q : Command) (s : State) : AnswerFrame s (readTrigger q s) := by
  unfold readTrigger
  dsimp only
  split
  · exact refuseCommand_answer _ _ s
  · exact answerWith_answer _ _ s

theorem setReadBurst_answer (q : Command) (s : State) : AnswerFrame s (setReadBurst q s) := by
  unfold setReadBurst
  dsimp only
  split
  · exact (withSc_frame _ s).answer.trans (answerOk_answer _ _)
  · exact (withSc_frame _ s).answer.trans (refuseCommand_answer _ _ _)

theorem readAxleTable_answer (q : Command) (s : State) : AnswerFrame s (readAxleTable q s) := by
  unfold readAxleTable
  split
  · exact (medium_frame s.medium (s.freeCount + 1) s.sc s).answer.trans (answerWith_answer _ _ _)
  · exact answerWith_answer _ _ s

/-- The commands that move one of those records, with what they make of the part. -/
inductive OwnersMoved (s : State) : Instr → State → Prop
  | reset {c} (u) : c = .powerOn ∨ c = .resetProceeds → OwnersMoved s c (powerUp u)
  | load : s.cx.loadEnded = false → OwnersMoved s .parameterLoadEnd
      (if s.cx.rebuildEnded then enterSetup (parameterLoad s) else parameterLoad s)
  | rebuilt (reads results) {u} : rebuilding s = true → OwnersKept s u →
      OwnersMoved s (.rebuildEnd reads results) (rebuildEnded u)
  | window {c} (a b) : windowRow a b c → OwnersMoved s c (windowClose a b s)
  | sample {c} (r) : pipeRow r c → OwnersMoved s c (bpmSample r s)
  | blend {c} : c = .blendRun ∨ c = .linkLoss → OwnersMoved s c (blendRun s)
  | thermal : OwnersMoved s .thermalUpdate (thermalUpdate s)
  | demand (bytes) (d : Demand) {t} : OwnersKept { s with demand := d, bc := { s.bc with demandAge := 0 } } t →
      OwnersMoved s (.cycleDemand bytes) t
  | restart (bytes tag r) : OwnersMoved s (.restart bytes) (acceptRestart tag (withReceiver r s))
  | setup (q) : s.cx.mode ≠ .startup → OwnersMoved s .enterSetup (answerOk q (enterSetup s))
  | run (q) : s.cx.mode = .setup → OwnersMoved s .enterRun (answerOk q (enterRun s))

/-- A queued command's rule leaves those records alone, but for the entries to SETUP and to RUN. -/
theorem rule_owners {c : Instr} {rule : Command → State → State} (h : ruleOf c = some rule) (q : Command)
    (s : State) : OwnersKept s (rule q s) ∨ OwnersMoved s c (rule q s) := by
  cases c with
  | readStatus => cases h; exact .inl (answerWith_answer _ _ s).owners
  | readNotices => cases h; exact .inl (answerWith_answer _ _ s).owners
  | clearNotices => cases h; exact .inl (clearNotices_owners q s)
  | setNoticeEnable => cases h; exact .inl (setNoticeEnable_owners q s)
  | readParameter => cases h; exact .inl (readParameter_answer q s).owners
  | writeParameter => cases h; exact .inl (writeParameter_owners q s)
  | saveParameters => cases h; exact .inl (saveParameters_owners q s)
  | enterSetup =>
    cases h
    obtain e | ⟨hm, e⟩ := enterSetupCommand_cases q s
    · exact .inl (e ▸ (refuseCommand_answer _ _ s).owners)
    · exact .inr (e ▸ .setup q hm)
  | enterRun =>
    cases h
    obtain e | e | ⟨hm, e⟩ := enterRunCommand_cases q s
    · exact .inl (e ▸ (refuseCommand_answer _ _ s).owners)
    · exact .inl (e ▸ (answerOk_answer _ s).owners)
    · exact .inr (e ▸ .run q hm)
  | setTrigger => cases h; exact .inl (setTrigger_owners q s)
  | readTrigger => cases h; exact .inl (readTrigger_answer q s).owners
  | markIncident => cases h; exact .inl ((withCu_frame _ s).answer.trans (answerOk_answer _ _)).owners
  | listIncidents => cases h; exact .inl (storeCommand_answer (fun c s => answerWith_answer _ _ s) q s).owners
  | readIncident => cases h; exact .inl (storeCommand_answer readIncident_answer q s).owners
  | verifyIncident => cases h; exact .inl (storeCommand_answer verifyIncident_answer q s).owners
  | releaseIncident => cases h; exact .inl (storeCommand_answer releaseIncident_answer q s).owners
  | setReadBurst => cases h; exact .inl (setReadBurst_answer q s).owners
  | readAxleTable => cases h; exact .inl (readAxleTable_answer q s).owners
  | _ => exact absurd h nofun

/-- Every command leaves those records alone, or moves them as `OwnersMoved` says. -/
theorem owners_cases {c : Instr} {s t : State} (h : exec c s = .next t) : OwnersKept s t ∨ OwnersMoved s c t := by
  cases exec_effect h with
  | idle => exact .inl .of_rfl
  | powerOn => exact .inr (.reset _ (.inl rfl))
  | reset => exact .inr (.reset _ (.inr rfl))
  | parameterLoad hl => exact .inr (.load hl)
  | rebuild reads results hr => exact .inr (.rebuilt reads results hr (rebuild_frame _ _ s).owners)
  | edge => exact .inl .of_rfl
  | window a b hc => exact .inr (.window a b hc)
  | recoverCaps => exact .inl .of_rfl
  | sample r hc => exact .inr (.sample r hc)
  | blend hc => exact .inr (.blend hc)
  | thermal => exact .inr .thermal
  | capture => exact .inl (capture_frame s).owners
  | grant hg => exact .inl (execStoreGrant_answer hg).owners
  | programComplete => exact .inl (programComplete_frame _ s).owners
  | markComplete => exact .inl (markComplete_frame _ s).owners
  | eraseComplete => exact .inl (eraseComplete_frame _ s).owners
  | copyComplete => exact .inl (copyComplete_frame _ _ s).owners
  | mapWriteComplete => exact .inl (mapWriteComplete_frame _ s).owners
  | readComplete => exact .inl (readComplete_answer _ s).owners
  | relocationStart => exact .inl (relocationStart_frame s).owners
  | demand bytes tag body r =>
    unfold takeDemand
    split
    · exact .inr (.demand bytes (demandOfBody body) (.after (placeReport_owners _ _)))
    · exact .inl (.after (placeReport_owners _ _))
  | arrival => exact .inl (.after (queueCommand_owners _ _ _ _))
  | discard => exact .inl .of_rfl
  | gap => exact .inl .of_rfl
  | frameSent => exact .inl (frameSent_owners s)
  | clearOverrun => exact .inl (.after (clearOverrun_owners _ _ _))
  | restart bytes tag body r =>
    unfold takeRestart
    split
    · exact .inr (.restart bytes tag r)
    · exact .inl ((withReceiver_owners r s).trans (placeArrivalReply_answer _ _).owners)
  | command hr => exact rule_owners hr _ s
  | refused => exact .inl (refuseCommand_answer _ _ s).owners
  | saveComplete => exact .inl (saveComplete_owners _ s)
  | powerLoss => exact .inl (powerLoss_owners s)

/-- A step is the passing of a microsecond or the effect of the front command. -/
theorem step_next {s t : State} (h : step s = .next t) :
    t = tick s ∨ ∃ c rest, s.pending = c :: rest ∧ exec c { s with pending := rest } = .next t := by
  unfold step at h
  split at h
  · exact .inl (Host.Outcome.next.inj h).symm
  · next c rest hp => exact .inr ⟨c, rest, hp, h⟩

theorem tick_eq (s : State) : ∃ timer, tick s = { s with am := { s.am with timer := timer } } := by
  unfold tick
  split
  · exact ⟨_, rfl⟩
  · exact ⟨s.am.timer, rfl⟩

/-! ## The outputs -/

/-- What drives a truck's outputs makes them agree with its mode (R108, R109). -/
theorem driveOutputs_agree (t : TruckRecord) (cmd : Nat) (o : TruckOutput) :
    outputsAgree (driveOutputs t cmd o) = true := by
  unfold driveOutputs
  split
  · next hm => simp [outputsAgree, hm]
  · next hm => simp [outputsAgree, hm]

theorem windowClose_agree (a b : Reading) (s : State) (h : ∀ g, outputsAgree (s.co.trucks.get g) = true)
    (g : Truck) : outputsAgree ((windowClose a b s).co.trucks.get g) = true := by
  unfold windowClose
  split
  · simp only [compose, raiseIf_co]
    cases g <;> exact driveOutputs_agree _ _ _
  · exact h g

theorem setupCylinderOutput_agree (o : CylinderOutput) (h : ∀ g, outputsAgree (o.trucks.get g) = true)
    (g : Truck) : outputsAgree ((setupCylinderOutput o).trucks.get g) = true := by
  rw [setupCylinderOutput_truck]
  exact h g

theorem acceptRestart_co (tag : Byte) (s : State) :
    (acceptRestart tag s).co = { s.co with trucks := s.co.trucks.map withdrawOutput } := by
  unfold acceptRestart
  rw [startTx_co, restartRecord_frame]

/-- A command keeps the outputs in agreement with the modes. -/
theorem exec_outputsAgree {c : Instr} {s t : State} (h : ∀ g, outputsAgree (s.co.trucks.get g) = true)
    (he : exec c s = .next t) (g : Truck) : outputsAgree (t.co.trucks.get g) = true := by
  obtain hk | hm := owners_cases he
  · exact hk.co ▸ h g
  · cases hm with
    | reset => cases g <;> rfl
    | load =>
      have hp : (parameterLoad s).co = s.co := by simp [parameterLoad]
      split
      · rw [enterSetup_co, hp]
        exact setupCylinderOutput_agree _ h g
      · exact hp ▸ h g
    | @rebuilt reads results u hr hk =>
      rw [rebuildEnded_eq]
      split
      · rw [enterSetup_co, hk.co]
        exact setupCylinderOutput_agree _ h g
      · exact hk.co ▸ h g
    | window a b => exact windowClose_agree a b s h g
    | sample r =>
      unfold bpmSample
      split <;> simpa using h g
    | blend =>
      unfold blendRun
      split <;> simpa using h g
    | thermal =>
      unfold thermalUpdate
      split <;> simpa using h g
    | demand bytes d hk => exact hk.co ▸ h g
    | restart bytes tag r =>
      rw [acceptRestart_co, PerTruck.get_map]
      rfl
    | setup q =>
      rw [(answerOk_answer _ _).co, enterSetup_co]
      exact setupCylinderOutput_agree _ h g
    | run q =>
      rw [(answerOk_answer _ _).co, enterRun_co]
      exact h g

/-- Settles O19: the outputs follow the mode at each composition, at RESTART and after a reset, and no other command
moves one of the two. -/
theorem outputsAgreeKept : Obligations.OutputsAgreeKept := by
  intro s t h hstep g
  obtain rfl | ⟨c, rest, -, he⟩ := step_next hstep
  · obtain ⟨timer, e⟩ := tick_eq s
    exact e ▸ h g
  · exact exec_outputsAgree (s := { s with pending := rest }) h he g

/-! ## The emergency latch -/

/-- A sample that clears the latch meets R49. -/
theorem latchEmergency_clears {p : PipeParams} {standstill host : Bool} {b : BrakePipe}
    (h : b.emergency = true) (hc : (latchEmergency p standstill host b).emergency = false) :
    recoveryHolds p standstill host b = true ∧ 10000 ≤ b.recovery + 10 ∧
      latchEmergency p standstill host b = { b with emergency := false, recovery := 0 } := by
  unfold latchEmergency at hc ⊢
  split at hc
  · exact absurd hc nofun
  · next ht =>
    rw [if_neg ht, if_pos h]
    split at hc
    · next hr =>
      rw [if_pos hr]
      split at hc
      · next hn => exact ⟨hr, hn, if_pos hn⟩
      · exact absurd (hc.symm.trans h) nofun
    · exact absurd (hc.symm.trans h) nofun

theorem takeReading_keeps (r : Reading) (b : BrakePipe) :
    (takeReading r b).emergency = b.emergency ∧ (takeReading r b).recovery = b.recovery := by
  unfold takeReading
  dsimp only
  split <;> exact ⟨rfl, rfl⟩

/-- A sample that clears the latch finds standstill, the pipe at P_recover, no host request, no sensor fault and the
timer at its end (R49). -/
theorem bpmSample_clears {r : Reading} {s : State} (h : s.bpm.emergency = true)
    (hc : (bpmSample r s).bpm.emergency = false) :
    s.am.standstill = true ∧ s.demand.hostEmergency = false ∧ (bpmSample r s).bpm.sensorFault = false ∧
      s.pm.params.pipe.pRecover ≤ (bpmSample r s).bpm.pressure ∧ 9990 ≤ s.bpm.recovery := by
  unfold bpmSample at hc ⊢
  split at hc
  · next ht =>
    rw [if_pos ht]
    simp only [raiseIf_bpm, samplePipe] at hc ⊢
    obtain ⟨he, hrec⟩ := takeReading_keeps r s.bpm
    obtain ⟨hr, hn, e⟩ := latchEmergency_clears (by simpa [deriveFall] using he.trans h) hc
    rw [e]
    simp only [recoveryHolds, Bool.and_eq_true, decide_eq_true_eq, Bool.not_eq_true'] at hr
    obtain ⟨⟨⟨⟨hp, hs⟩, hh⟩, -⟩, hf⟩ := hr
    have hn' : 10000 ≤ s.bpm.recovery + 10 := by simpa [deriveFall, hrec] using hn
    exact ⟨hs, hh, hf, hp, by omega⟩
  · exact absurd (h.symm.trans hc) nofun

/-- Settles O22: of the commands that move the brake pipe record a sample alone can clear the latch, and a reset sets
it. -/
theorem emergencyClearsOnlyByRecovery : Obligations.EmergencyClearsOnlyByRecovery := by
  intro c s t he hs hc
  obtain hk | hm := owners_cases he
  · exact absurd ((hk.bpm ▸ hs).symm.trans hc) nofun
  · have hno (e : t.bpm = s.bpm) : False := absurd ((e ▸ hs).symm.trans hc) nofun
    cases hm with
    | reset => exact absurd hc nofun
    | load => exact (hno (by split <;> simp [parameterLoad])).elim
    | rebuilt reads results hr hk => exact (hno (by rw [rebuildEnded_eq]; split <;> simp [hk.bpm])).elim
    | window a b => exact (hno (by simp)).elim
    | sample r hrow => exact ⟨⟨r, hrow⟩, bpmSample_clears hs hc⟩
    | blend => exact (hno (by unfold blendRun; split <;> simp)).elim
    | thermal => exact (hno (by unfold thermalUpdate; split <;> simp)).elim
    | demand bytes d hk => exact (hno hk.bpm).elim
    | restart bytes tag r =>
      exact (hno (by unfold acceptRestart; rw [startTx_bpm, restartRecord_frame]; rfl)).elim
    | setup q => exact (hno (by rw [(answerOk_answer _ _).bpm, enterSetup_bpm])).elim
    | run q => exact (hno (by rw [(answerOk_answer _ _).bpm, enterRun_bpm])).elim

end Sys2Proof.Machine
end

section
/-! PROOFS. The parameters on the link (R197 to R200): the tables of the groups as the model's numbers, ranges and held
values, what a good image is, and the load and the write of one value. -/

namespace Sys2Proof.Machine

/-! ## The parameters carried unsigned -/

/-- The parameters the tables of the groups carry unsigned and whole. -/
def Param.plain : Param → Bool
  | .curve _ => false
  | .ambient => false
  | .capturePeriod => false
  | _ => true

/-- The value a set holds for a plain parameter; a two-valued one is 0 or 1. -/
def heldValue (s : ParamSet) (p : Param) : Nat :=
  match p with
  | .diameter i => s.motion.diameter.get i
  | .ppr => s.motion.ppr
  | .decelLimit => s.motion.decelLimit
  | .accelLimit => s.motion.accelLimit
  | .creepOn => s.slide.creepOn
  | .creepOff => s.slide.creepOff
  | .lowSpeed => s.slide.lowSpeed
  | .decelOn => s.slide.decelOn
  | .relieveFactor => s.slide.relieveFactor
  | .adhesionCut => s.slide.adhesionCut
  | .floor => s.slide.floor
  | .nominalCap => s.slide.nominalCap
  | .recoveryRate => s.slide.recoveryRate
  | .unprotectedFactor => s.slide.unprotectedFactor
  | .holdTime => s.slide.holdTime
  | .restoreStep => s.slide.restoreStep
  | .corrMax => s.slide.corrMax
  | .lockoutTime => s.slide.lockoutTime
  | .sensorFaultTime => s.slide.sensorFaultTime
  | .sandMax => s.slide.sandMax
  | .sandRest => s.slide.sandRest
  | .pRel => s.pipe.pRel
  | .rFs => s.pipe.rFs
  | .rDb => s.pipe.rDb
  | .emThreshold => s.pipe.emThreshold
  | .emFall => s.pipe.emFall
  | .pRecover => s.pipe.pRecover
  | .ratio => s.blend.ratio
  | .pTouch => s.blend.pTouch
  | .kAir => s.blend.kAir
  | .pFs => s.blend.pFs
  | .pEm => s.blend.pEm
  | .fDbMax => s.blend.fDbMax
  | .upStep => s.blend.upStep
  | .downStep => s.blend.downStep
  | .transfer => s.blend.transfer.toNat
  | .shortfallThreshold => s.blend.shortfallThreshold
  | .blendMode => s.blend.nonBlended.toNat
  | .dbRetained => s.blend.dbRetained.toNat
  | .hg => s.thermal.hg
  | .blowerOn => s.thermal.blowerOn
  | .blowerOff => s.thermal.blowerOff
  | .thetaDerate => s.thermal.thetaDerate
  | .thetaCut => s.thermal.thetaCut
  | .thetaRearm => s.thermal.thetaRearm
  | .airFaultTolerance => s.supervision.airFaultTolerance
  | .airFaultTime => s.supervision.airFaultTime
  | .curve _ => 0
  | .ambient => 0
  | .capturePeriod => 0

theorem readParam_plain {p : Param} (h : p.plain = true) (s : ParamSet) :
    readParam s p = .ofNat 32 (heldValue s p) := by
  cases p with
  | curve | ambient | capturePeriod => exact absurd h nofun
  | _ => rfl

theorem paramInRange_plain {p : Param} (h : p.plain = true) (w : Word32) : paramInRange p w = true ↔
    (paramRange p).1 ≤ w.toNat ∧ w.toNat ≤ (paramRange p).2 ∧ (tensOnly p = true → w.toNat % 10 = 0) := by
  have hq (t : Bool) : (decide ((paramRange p).1 ≤ w.toNat ∧ w.toNat ≤ (paramRange p).2) &&
      (!t || w.toNat % 10 == 0)) = true ↔
      (paramRange p).1 ≤ w.toNat ∧ w.toNat ≤ (paramRange p).2 ∧ (t = true → w.toNat % 10 = 0) := by
    cases t <;> simp [and_assoc]
  cases p with
  | curve | ambient | capturePeriod => exact absurd h nofun
  | _ => exact hq _

theorem paramRange_lt (p : Param) : (paramRange p).2 < 4294967296 := by
  cases p <;> simp [paramRange]

/-- A plain parameter, read out and put back, leaves the set as it stands just where its value travels in 4 bytes. -/
theorem putParam_readParam_plain {p : Param} (h : p.plain = true) (s : ParamSet) :
    putParam s p (readParam s p) = s ↔ heldValue s p < 4294967296 := by
  have hlt (w : Word32) : w.toNat < 4294967296 := w.isLt
  have hkeep (n : Nat) (hn : n < 4294967296) : (BitVec.ofNat 32 n).toNat = n := Nat.mod_eq_of_lt hn
  have hbit (b : Bool) : (BitVec.ofNat 32 b.toNat != 0#32) = b := by cases b <;> rfl
  have hsmall (b : Bool) : b.toNat < 4294967296 := Nat.lt_of_le_of_lt (Bool.toNat_le b) (by decide)
  cases p with
  | curve | ambient | capturePeriod => exact absurd h nofun
  | transfer | blendMode | dbRetained => simp [putParam, readParam, heldValue, hbit, hsmall]
  | diameter i =>
    constructor
    · intro e
      rw [← e, heldValue]
      cases i <;> exact hlt _
    · intro hn
      simp only [heldValue] at hn
      simp only [putParam, readParam, hkeep _ hn]
      cases i <;> rfl
  | _ =>
    constructor
    · intro e
      rw [← e]
      exact hlt _
    · intro hn
      simp only [heldValue] at hn
      simp only [putParam, readParam, hkeep _ hn]

/-! ## The tables -/

/-- The numbers of the plain parameters. -/
def plainTable : List (Nat × Param) := paramTable.filter (·.2.plain)

/-- The row of the groups' tables for a plain parameter. -/
def rowOf (s : ParamSet) (r : Nat × Param) : ParamRow :=
  ⟨r.1, (paramRange r.2).1, (paramRange r.2).2, tensOnly r.2, heldValue defaultParams r.2, heldValue s r.2⟩

/-- The groups' tables are the model's numbers, ranges, defaults and held values. -/
theorem paramRows_eq (s : ParamSet) : paramRows s = plainTable.map (rowOf s) := rfl

theorem mem_paramTable (p : Param) : p ∈ paramTable.map (·.2) := by
  cases p with
  | diameter i => cases i <;> decide
  | curve n => revert n; decide
  | _ => decide

theorem all_paramTable (Q : Param → Prop) : (∀ r ∈ paramTable, Q r.2) ↔ ∀ p, Q p := by
  constructor
  · intro h p
    obtain ⟨r, hr, e⟩ := List.mem_map.mp (mem_paramTable p)
    exact e ▸ h r hr
  · exact fun h r _ => h r.2

theorem all_plainTable (Q : Param → Prop) : (∀ r ∈ plainTable, Q r.2) ↔ ∀ p, p.plain = true → Q p := by
  have h := all_paramTable fun p => p.plain = true → Q p
  simp only [← h, plainTable, List.mem_filter, and_imp]

/-- What holds of every parameter holds of the plain ones and of the three kinds that stand apart. -/
theorem all_params (Q : Param → Prop) : (∀ p, Q p) ↔
    (∀ p, p.plain = true → Q p) ∧ (∀ n, Q (.curve n)) ∧ Q .ambient ∧ Q .capturePeriod := by
  constructor
  · exact fun h => ⟨fun p _ => h p, fun n => h _, h _, h _⟩
  · rintro ⟨hp, hc, ha, hk⟩ p
    cases p with
    | curve n => exact hc n
    | ambient => exact ha
    | capturePeriod => exact hk
    | _ => exact hp _ rfl

/-! ## The values that travel and lie in range -/

/-- A parameter's value travels in 4 bytes and lies in its range. -/
def valueGood (s : ParamSet) (p : Param) : Prop :=
  putParam s p (readParam s p) = s ∧ paramInRange p (readParam s p) = true

theorem valueGood_plain {p : Param} (h : p.plain = true) (s : ParamSet) : valueGood s p ↔
    (paramRange p).1 ≤ heldValue s p ∧ heldValue s p ≤ (paramRange p).2 ∧
      (tensOnly p = true → heldValue s p % 10 = 0) := by
  unfold valueGood
  rw [putParam_readParam_plain h, paramInRange_plain h, readParam_plain h]
  have hr := paramRange_lt p
  constructor
  · rintro ⟨hn, hrange⟩
    rwa [show (BitVec.ofNat 32 (heldValue s p)).toNat = heldValue s p from Nat.mod_eq_of_lt hn] at hrange
  · rintro ⟨hlo, hhi, ht⟩
    have hn : heldValue s p < 4294967296 := by omega
    rw [show (BitVec.ofNat 32 (heldValue s p)).toNat = heldValue s p from Nat.mod_eq_of_lt hn]
    exact ⟨hn, hlo, hhi, ht⟩

theorem rows_allow_iff (s : ParamSet) : (∀ r ∈ paramRows s, r.allows r.value) ↔
    ∀ p, p.plain = true → valueGood s p := by
  rw [paramRows_eq, ← all_plainTable, List.forall_mem_map]
  refine forall₂_congr fun r hr => ?_
  rw [valueGood_plain (List.mem_filter.mp hr).2]
  rfl

/-- A breakpoint travels where both its numbers fit in two bytes. -/
theorem wordBreakpoint_breakpointWord {p : Breakpoint} (hs : p.speed < 65536) (he : p.effort < 65536) :
    wordBreakpoint (breakpointWord p) = p := by
  rcases p with ⟨v, f⟩
  dsimp only at hs he
  have hw : (breakpointWord ⟨v, f⟩).toNat = v + 65536 * f := by
    have hlt : v + 65536 * f < 4294967296 := by omega
    rw [breakpointWord, Nat.mod_eq_of_lt hs, BitVec.toNat_ofNat]
    exact Nat.mod_eq_of_lt hlt
  unfold wordBreakpoint
  rw [hw, Breakpoint.mk.injEq]
  omega

theorem putParam_curve_iff (s : ParamSet) (n : Fin 8) (w : Word32) :
    putParam s (.curve n) w = s ↔ wordBreakpoint w = s.thermal.point n := by
  constructor
  · intro e
    rw [← e]
    revert n
    simp [putParam, Fin.forall_fin_succ, ThermalParams.setPoint, ThermalParams.point]
  · intro e
    simp only [putParam, e]
    revert n
    simp [Fin.forall_fin_succ, ThermalParams.setPoint, ThermalParams.point]

theorem curve_inRange_iff (n : Fin 8) (w : Word32) : paramInRange (.curve n) w = true ↔
    (wordBreakpoint w).speed ≤ 16000 ∧ (wordBreakpoint w).effort ≤ 6000 := by
  simp [paramInRange]

theorem valueGood_curve (s : ParamSet) (n : Fin 8) : valueGood s (.curve n) ↔
    (s.thermal.point n).speed ≤ 16000 ∧ (s.thermal.point n).effort ≤ 6000 := by
  unfold valueGood
  rw [putParam_curve_iff, curve_inRange_iff]
  constructor
  · rintro ⟨e, h⟩
    rwa [e] at h
  · rintro ⟨hs, he⟩
    have e : wordBreakpoint (readParam s (.curve n)) = s.thermal.point n :=
      wordBreakpoint_breakpointWord (by omega) (by omega)
    rw [e]
    exact ⟨rfl, hs, he⟩

theorem ambient_inRange_iff (w : Word32) : paramInRange .ambient w = true ↔ -500 ≤ w.toInt ∧ w.toInt ≤ 600 := by
  simp [paramInRange]

theorem valueGood_ambient (s : ParamSet) : valueGood s .ambient ↔
    -500 ≤ s.thermal.ambient ∧ s.thermal.ambient ≤ 600 := by
  have hput (w : Word32) : putParam s .ambient w = s ↔ w.toInt = s.thermal.ambient :=
    ⟨fun e => by rw [← e]; rfl, fun e => by simp only [putParam, e]⟩
  unfold valueGood
  rw [hput, ambient_inRange_iff]
  constructor
  · rintro ⟨e, h⟩
    rwa [e] at h
  · intro h
    have e : (readParam s .ambient).toInt = s.thermal.ambient := by
      rw [readParam, BitVec.toInt_ofInt, Int.bmod_def]
      omega
    rw [e]
    exact ⟨rfl, h⟩

theorem capturePeriod_inRange_iff (w : Word32) : paramInRange .capturePeriod w = true ↔
    w.toNat = 20 ∨ w.toNat = 50 ∨ w.toNat = 100 := by
  simp [paramInRange, BitVec.toNat_eq, or_assoc]

theorem valueGood_capturePeriod (s : ParamSet) : valueGood s .capturePeriod ↔
    s.capturePeriod = 20 ∨ s.capturePeriod = 50 ∨ s.capturePeriod = 100 := by
  have hput (w : Word32) : putParam s .capturePeriod w = s ↔ w.toNat = s.capturePeriod :=
    ⟨fun e => by rw [← e]; rfl, fun e => by simp only [putParam, e]⟩
  unfold valueGood
  rw [hput, capturePeriod_inRange_iff]
  constructor
  · rintro ⟨e, h⟩
    rwa [e] at h
  · intro h
    have e : (readParam s .capturePeriod).toNat = s.capturePeriod :=
      Nat.mod_eq_of_lt (by omega)
    rw [e]
    exact ⟨rfl, h⟩

theorem mem_curve_iff (t : ThermalParams) (x : Breakpoint) : x ∈ t.curve ↔ ∃ n, t.point n = x := by
  rw [show t.curve = List.ofFn t.point from rfl, List.mem_ofFn]

theorem valuesInRange_iff (s : ParamSet) : valuesInRange s = true ↔
    (∀ r ∈ paramRows s, r.allows r.value) ∧ (∀ x ∈ s.thermal.curve, x.speed ≤ 16000 ∧ x.effort ≤ 6000) ∧
    (-500 ≤ s.thermal.ambient ∧ s.thermal.ambient ≤ 600) ∧
    (s.capturePeriod = 20 ∨ s.capturePeriod = 50 ∨ s.capturePeriod = 100) ∧
    s.triggers.length = 8 ∧ ∀ e ∈ s.triggers, triggerAllowed e := by
  have hgood : (fitsWord s && paramTable.all fun r => paramInRange r.2 (readParam s r.2)) = true ↔
      ∀ p, valueGood s p := by
    simp only [fitsWord, Bool.and_eq_true, List.all_eq_true, beq_iff_eq]
    rw [all_paramTable (fun p => putParam s p (readParam s p) = s),
      all_paramTable (fun p => paramInRange p (readParam s p) = true), ← forall_and]
    rfl
  have hcurve : (∀ x ∈ s.thermal.curve, x.speed ≤ 16000 ∧ x.effort ≤ 6000) ↔ ∀ n, valueGood s (.curve n) := by
    simp only [mem_curve_iff, valueGood_curve, forall_exists_index, forall_apply_eq_imp_iff]
  rw [rows_allow_iff, hcurve, ← valueGood_ambient, ← valueGood_capturePeriod]
  rw [valuesInRange, Bool.and_eq_true, Bool.and_eq_true, hgood, all_params (valueGood s)]
  simp only [List.all_eq_true, triggerInRange_iff, beq_iff_eq, and_assoc]

theorem speedsRise_iff (l : List Breakpoint) : speedsRise l = true ↔
    ∀ k x y, l[k]? = some x → l[k + 1]? = some y → x.speed < y.speed := by
  induction l with
  | nil => simp [speedsRise]
  | cons p rest ih =>
    cases rest with
    | nil => simp [speedsRise]
    | cons q rest =>
      simp only [speedsRise, Bool.and_eq_true, decide_eq_true_eq, ih]
      constructor
      · rintro ⟨hpq, h⟩ k x y hx hy
        cases k with
        | zero => cases hx; cases hy; exact hpq
        | succ k => exact h k x y hx hy
      · exact fun h => ⟨h 0 p q rfl rfl, fun k => h (k + 1)⟩

/-- A good image, in the terms of R200. -/
theorem imageGood_iff (i : ParamImage) : imageGood i = true ↔
    i.checkwordPasses = true ∧ valuesInRange i.values = true ∧ relationsHold i.values = true := by
  simp [imageGood, and_assoc]

theorem relationsHold_iff (s : ParamSet) : relationsHold s = true ↔
    s.slide.creepOff < s.slide.creepOn ∧ s.pipe.emThreshold < s.pipe.pRecover ∧ s.blend.pFs ≤ s.blend.pEm ∧
    s.thermal.c1.speed = 0 ∧
    (∀ k x y, s.thermal.curve[k]? = some x → s.thermal.curve[k + 1]? = some y → x.speed < y.speed) ∧
    s.thermal.thetaRearm < s.thermal.thetaDerate ∧ s.thermal.thetaDerate < s.thermal.thetaCut := by
  simp only [relationsHold, Bool.and_eq_true, decide_eq_true_eq, beq_iff_eq, speedsRise_iff, and_assoc]

/-! ## The load -/

theorem parameterLoad_eq (s : State) : parameterLoad s =
    { s with
      timersRunning := true
      pm := { s.pm with params := loadedParams s.pm.image, defaultsFlag := !imageGood s.pm.image }
      cu := { s.cu with
        interval := (loadedParams s.pm.image).capturePeriod, prevMatch := List.replicate 8 true,
        armed := List.replicate 8 false }
      cx := { s.cx with
        loadEnded := true
        notices := if imageGood s.pm.image then s.cx.notices else s.cx.notices ||| 0x0400 } } := by
  rw [parameterLoad, raiseIf_eq]
  cases imageGood s.pm.image <;> rfl

/-- A load that has its moment is the load, with the entry to SETUP where the rebuild has ended (R193). -/
theorem exec_parameterLoadEnd {s : State} (hp : s.powered = true) (hl : s.cx.loadEnded = false)
    (hc : s.li.closing = false) : exec .parameterLoadEnd s =
      .next (if s.cx.rebuildEnded then enterSetup (parameterLoad s) else parameterLoad s) := by
  have harm : exec .parameterLoadEnd s = execParameterLoadEnd s := rfl
  rw [harm, execParameterLoadEnd, done_powered _ hp, hl, hc]
  simp only [parameterLoad_eq, Bool.or_self, Bool.false_eq_true, if_false]

/-- Settles O3: the model's test is that of R200, by the tables row for row, and the load takes the image by it. -/
theorem parameterLoadTakesImageOrDefaults : Obligations.ParameterLoadTakesImageOrDefaults := by
  refine ⟨fun i => ?_, by decide, rfl, rfl, rfl, rfl, fun s hp hl hc => ?_⟩
  · rw [imageGood_iff, valuesInRange_iff, relationsHold_iff]
    simp only [and_assoc]
  · refine ⟨_, exec_parameterLoadEnd hp hl hc, ?_⟩
    have hgood (h : imageGood s.pm.image = true) : loadedParams s.pm.image = s.pm.image.values := if_pos h
    have hbad (h : imageGood s.pm.image = false) : loadedParams s.pm.image = defaultParams :=
      if_neg (by rw [h]; exact Bool.false_ne_true)
    cases s.cx.rebuildEnded <;> simp +contextual [parameterLoad_eq, hgood, hbad]

end Sys2Proof.Machine
end

section
/-! PROOFS. The writing of one parameter and the saving of the set (R197, R199, R201). -/

namespace Sys2Proof.Machine

/-! ## One value written -/

theorem PerAxle.get_set_other {α : Type} {i j : AxleNo} (h : j ≠ i) (p : PerAxle α) (x : α) :
    (p.set i x).get j = p.get j := by
  cases i <;> cases j <;> first | rfl | exact absurd rfl h

theorem PerAxle.get_set_same {α : Type} (i : AxleNo) (p : PerAxle α) (x : α) : (p.set i x).get i = x := by
  cases i <;> rfl

theorem point_setPoint_same (t : ThermalParams) (n : Fin 8) (x : Breakpoint) : (t.setPoint n x).point n = x := by
  revert n
  simp [Fin.forall_fin_succ, ThermalParams.setPoint, ThermalParams.point]

theorem point_setPoint_other {n m : Fin 8} (h : m ≠ n) (t : ThermalParams) (x : Breakpoint) :
    (t.setPoint n x).point m = t.point m := by
  revert m n
  simp [Fin.forall_fin_succ, ThermalParams.setPoint, ThermalParams.point]

/-- A breakpoint written leaves the rest of the thermal group. -/
theorem setPoint_rest (t : ThermalParams) (n : Fin 8) (x : Breakpoint) : ∃ p1 p2 p3 p4 p5 p6 p7 p8,
    t.setPoint n x = { t with c1 := p1, c2 := p2, c3 := p3, c4 := p4, c5 := p5, c6 := p6, c7 := p7, c8 := p8 } := by
  match n with
  | 0 | 1 | 2 | 3 | 4 | 5 | 6 | 7 => exact ⟨_, _, _, _, _, _, _, _, rfl⟩

/-- Writing one parameter leaves every other as it was. -/
theorem readParam_putParam_other {p q : Param} (h : q ≠ p) (s : ParamSet) (w : Word32) :
    readParam (putParam s p w) q = readParam s q := by
  cases p with
  | diameter i =>
    cases q with
    | diameter j => exact congrArg (BitVec.ofNat 32) (PerAxle.get_set_other (fun e => h (congrArg _ e)) _ _)
    | _ => rfl
  | curve n =>
    cases q with
    | curve m => exact congrArg breakpointWord (point_setPoint_other (fun e => h (congrArg _ e)) _ _)
    | _ =>
      obtain ⟨p1, p2, p3, p4, p5, p6, p7, p8, e⟩ := setPoint_rest s.thermal n (wordBreakpoint w)
      rw [putParam, e]
      rfl
  | _ => cases q <;> first | rfl | exact absurd rfl h

theorem breakpointWord_wordBreakpoint (w : Word32) : breakpointWord (wordBreakpoint w) = w := by
  apply BitVec.eq_of_toNat_eq
  have hw := w.isLt
  simp only [breakpointWord, wordBreakpoint, BitVec.toNat_ofNat]
  omega

/-- A two-valued parameter takes 0 and 1 as they come (R197). -/
theorem ofNat_toNat_of_le_one {w : Word32} (h : w.toNat ≤ 1) : BitVec.ofNat 32 (w != 0).toNat = w := by
  obtain rfl | rfl : w = 0 ∨ w = 1 :=
    (Nat.le_one_iff_eq_zero_or_eq_one.mp h).imp BitVec.eq_of_toNat_eq BitVec.eq_of_toNat_eq
  all_goals rfl

/-- A value in range is read back as it was written. -/
theorem readParam_putParam_same {p : Param} {w : Word32} (h : paramInRange p w = true) (s : ParamSet) :
    readParam (putParam s p w) p = w := by
  have hw : BitVec.ofNat 32 w.toNat = w := by simp
  cases p with
  | diameter i => exact (congrArg (BitVec.ofNat 32) (PerAxle.get_set_same i _ _)).trans hw
  | curve n => exact (congrArg breakpointWord (point_setPoint_same _ n _)).trans (breakpointWord_wordBreakpoint w)
  | ambient => exact BitVec.ofInt_toInt
  | transfer | blendMode | dbRetained => exact ofNat_toNat_of_le_one ((paramInRange_plain rfl w).mp h).2.1
  | _ => exact hw

theorem putParam_triggers (s : ParamSet) (p : Param) (w : Word32) : (putParam s p w).triggers = s.triggers := by
  cases p <;> rfl

/-! ## The numbers -/

theorem paramOf_of_mem : ∀ r ∈ paramTable, paramOf r.1 = some r.2 := by decide

theorem mem_of_paramOf {n : Nat} {p : Param} (h : paramOf n = some p) : (n, p) ∈ paramTable := by
  obtain ⟨r, hr, rfl⟩ := Option.map_eq_some_iff.mp h
  have hn := List.find?_some hr
  rw [beq_iff_eq] at hn
  exact hn ▸ List.mem_of_find?_eq_some hr

theorem paramOf_isSome_iff (n : Nat) : (paramOf n).isSome = true ↔ n ∈ paramTable.map (·.1) := by
  rw [Option.isSome_iff_exists, List.mem_map]
  exact ⟨fun ⟨p, h⟩ => ⟨_, mem_of_paramOf h, rfl⟩, fun ⟨r, hr, e⟩ => ⟨_, e ▸ paramOf_of_mem r hr⟩⟩

/-- The numbers that stand apart from the tables' rows (R197). -/
theorem apartNumbers : (paramTable.filter (fun r => !r.2.plain)).map (·.1) =
    [0x0500, 0x0501, 0x0502, 0x0503, 0x0504, 0x0505, 0x0506, 0x0507, 0x050B, 0x0600] := by decide

theorem mem_numbers_iff (n : Nat) : n ∈ paramTable.map (·.1) ↔ (∃ r ∈ paramRows defaultParams, r.number = n) ∨
    (0x0500 ≤ n ∧ n ≤ 0x0507) ∨ n = 0x050B ∨ n = 0x0600 := by
  have hrows : (∃ r ∈ paramRows defaultParams, r.number = n) ↔ n ∈ plainTable.map (·.1) := by
    rw [paramRows_eq]
    simp only [List.mem_map]
    exact ⟨fun ⟨_, ⟨a, ha, rfl⟩, e⟩ => ⟨a, ha, e⟩, fun ⟨a, ha, e⟩ => ⟨_, ⟨a, ha, rfl⟩, e⟩⟩
  have hapart : (0x0500 ≤ n ∧ n ≤ 0x0507) ∨ n = 0x050B ∨ n = 0x0600 ↔
      n ∈ (paramTable.filter (fun r => !r.2.plain)).map (·.1) := by
    rw [apartNumbers]
    simp only [List.mem_cons, List.not_mem_nil, or_false]
    omega
  rw [hrows, hapart]
  simp only [plainTable, List.mem_map, List.mem_filter]
  constructor
  · rintro ⟨r, hr, e⟩
    cases hb : r.2.plain
    · exact .inr ⟨r, ⟨hr, by rw [hb]; rfl⟩, e⟩
    · exact .inl ⟨r, ⟨hr, hb⟩, e⟩
  · rintro (⟨r, ⟨hr, -⟩, e⟩ | ⟨r, ⟨hr, -⟩, e⟩) <;> exact ⟨r, hr, e⟩

/-! ## The relations -/

/-- The numbers of the parameters that a relation binds (R199). -/
theorem relationNumbers : ∀ r ∈ paramTable,
    (r.1 = 0x0200 ↔ r.2 = .creepOn) ∧ (r.1 = 0x0201 ↔ r.2 = .creepOff) ∧ (r.1 = 0x0303 ↔ r.2 = .emThreshold) ∧
    (r.1 = 0x0305 ↔ r.2 = .pRecover) ∧ (r.1 = 0x0403 ↔ r.2 = .pFs) ∧ (r.1 = 0x0404 ↔ r.2 = .pEm) ∧
    (r.1 = 0x050C ↔ r.2 = .thetaDerate) ∧ (r.1 = 0x050D ↔ r.2 = .thetaCut) ∧ (r.1 = 0x050E ↔ r.2 = .thetaRearm) ∧
    ((r.1 < 0x0500 ∨ 0x0507 < r.1) → ∀ n, r.2 ≠ .curve n) := by decide

theorem relationHolds_iff {n : Nat} {p : Param} (hp : paramOf n = some p) (hn : n < 0x0500 ∨ 0x0507 < n)
    (s : ParamSet) (w : Word32) : relationHolds s p w = true ↔
      (n = 0x0200 → s.slide.creepOff < w.toNat) ∧ (n = 0x0201 → w.toNat < s.slide.creepOn) ∧
      (n = 0x0303 → w.toNat < s.pipe.pRecover) ∧ (n = 0x0305 → s.pipe.emThreshold < w.toNat) ∧
      (n = 0x0403 → w.toNat ≤ s.blend.pEm) ∧ (n = 0x0404 → s.blend.pFs ≤ w.toNat) ∧
      (n = 0x050C → s.thermal.thetaRearm < w.toNat ∧ w.toNat < s.thermal.thetaCut) ∧
      (n = 0x050D → s.thermal.thetaRearm < s.thermal.thetaDerate ∧ s.thermal.thetaDerate < w.toNat) ∧
      (n = 0x050E → w.toNat < s.thermal.thetaDerate ∧ s.thermal.thetaDerate < s.thermal.thetaCut) := by
  obtain ⟨h1, h2, h3, h4, h5, h6, h7, h8, h9, hcurve⟩ := relationNumbers _ (mem_of_paramOf hp)
  simp only at h1 h2 h3 h4 h5 h6 h7 h8 h9 hcurve
  rw [h1, h2, h3, h4, h5, h6, h7, h8, h9]
  cases p with
  | curve m => exact absurd rfl (hcurve hn m)
  | _ => simp [relationHolds]

theorem curveWriteHolds_iff (t : ThermalParams) (n : Fin 8) (p : Breakpoint) : curveWriteHolds t n p = true ↔
    (n.val = 0 → p.speed = 0) ∧ (∀ j y, n.val = j + 1 → t.curve[j]? = some y → y.speed < p.speed) ∧
    (∀ y, n.val ≠ 0 → t.curve[n.val + 1]? = some y → p.speed < y.speed) := by
  have hprev : (∀ j y, n.val = j + 1 → t.curve[j]? = some y → y.speed < p.speed) ↔
      ∀ y, n.val ≠ 0 → t.curve[n.val - 1]? = some y → y.speed < p.speed := by
    constructor
    · exact fun h y hn => h _ y (by omega)
    · exact fun h j y hj hy => h y (by omega) (by rw [hj]; exact hy)
  rw [hprev]
  clear hprev
  match n with
  | ⟨0, _⟩ | ⟨1, _⟩ | ⟨2, _⟩ | ⟨3, _⟩ | ⟨4, _⟩ | ⟨5, _⟩ | ⟨6, _⟩ | ⟨7, _⟩ =>
    simp [curveWriteHolds, ThermalParams.curve]

/-- Breakpoint k of the curve is the parameter of number 0500h + k. -/
theorem point_of_curve {t : ThermalParams} {k : Nat} {x : Breakpoint} (h : t.curve[k]? = some x) :
    ∃ n : Fin 8, n.val = k ∧ t.point n = x := by
  obtain ⟨hk, e⟩ := List.getElem?_eq_some_iff.mp h
  refine ⟨⟨k, hk⟩, rfl, e ▸ ?_⟩
  simp only [show t.curve = List.ofFn t.point from rfl, List.getElem_ofFn]

theorem paramOf_curve : ∀ n : Fin 8, paramOf (0x0500 + n.val) = some (.curve n) := by decide

/-! ## The command -/

theorem exec_writeParameter {c : Command} {s : State} (h : Awaits c s) (hk : c.kind = 0x07) :
    exec .writeParameter s = .next (if c.body.length = 6 then writeParameter c s else refuseCommand c .badLength s) := by
  have harm : exec .writeParameter s = done s (takeCommand 0x07 6 writeParameter s) := rfl
  rw [harm, done_powered _ h.1, takeCommand_awaited 6 _ h hk]

theorem setupOnly_iff (n : Nat) : setupOnly n = true ↔ (paramOf n).isSome = true ∧ n < 0x0400 := by
  unfold setupOnly
  cases paramOf n <;> simp

theorem writeAllowed_iff (m : Mode) (n : Nat) : writeAllowed m n = true ↔
    m = .setup ∨ (m = .run ∧ ¬((paramOf n).isSome = true ∧ n < 0x0400)) := by
  rw [← setupOnly_iff]
  cases m <;> simp [writeAllowed]

theorem writeParameter_wrongMode {c : Command} {s : State} (h : writeAllowed s.cx.mode (fieldAt c.body 0 2) ≠ true) :
    writeParameter c s = refuseCommand c .wrongMode s :=
  if_pos (by simpa using h)

/-- Past the mode check the number decides, and then range and relation. -/
theorem writeParameter_allowed {c : Command} {s : State} (h : writeAllowed s.cx.mode (fieldAt c.body 0 2) = true) :
    writeParameter c s = match paramOf (fieldAt c.body 0 2) with
      | none => refuseCommand c .unknownParameter s
      | some p =>
        if paramInRange p (.ofNat 32 (fieldAt c.body 2 4)) && relationHolds s.pm.params p (.ofNat 32 (fieldAt c.body 2 4))
        then answerOk c { s with pm := { s.pm with params := putParam s.pm.params p (.ofNat 32 (fieldAt c.body 2 4)) } }
        else refuseCommand c .badValue s :=
  (if_neg (by simpa using h)).trans rfl

/-- Settles O53: numbers, ranges and relations by the tables, and the checks of the command in their order. -/
theorem writeParameterChecksInOrder : Obligations.WriteParameterChecksInOrder := by
  refine ⟨fun n => (paramOf_isSome_iff n).trans (mem_numbers_iff n), fun ps => ⟨?rows, ?curve, ?ambient, ?period,
    fun n p w hp hn => relationHolds_iff hp hn ps w⟩, ?command⟩
  case rows =>
    intro r hr
    rw [paramRows_eq, List.mem_map] at hr
    obtain ⟨⟨n, p⟩, hm, rfl⟩ := hr
    obtain ⟨hm, hplain⟩ := List.mem_filter.mp hm
    exact ⟨p, paramOf_of_mem _ hm, readParam_plain hplain ps, paramInRange_plain hplain⟩
  case curve =>
    intro k x hk
    obtain ⟨n, rfl, rfl⟩ := point_of_curve hk
    refine ⟨.curve n, paramOf_curve n, fun hs => ?_, fun w => ⟨curve_inRange_iff n w, ?_⟩⟩
    · rw [readParam, breakpointWord, Nat.mod_eq_of_lt hs]
    · exact curveWriteHolds_iff ps.thermal n (wordBreakpoint w)
  case ambient => exact ⟨.ambient, by decide, rfl, ambient_inRange_iff⟩
  case period => exact ⟨.capturePeriod, by decide, rfl, capturePeriod_inRange_iff⟩
  case command =>
    intro c s h hk
    rw [exec_writeParameter h hk]
    refine ⟨fun hl => ⟨_, rfl, ?_⟩, fun hl hm => ⟨_, rfl, ?_⟩, fun hl hm hp => ⟨_, rfl, ?_⟩,
      fun p hl hm hp hbad => ⟨_, rfl, ?_⟩, fun p hl hm hp hgood => ⟨_, rfl, ?_⟩⟩
    · rw [if_neg hl]
      exact refuseCommand_statusOnly c .badLength s
    · rw [if_pos hl, writeParameter_wrongMode]
      · exact refuseCommand_statusOnly c .wrongMode s
      · rw [Ne, writeAllowed_iff]
        rintro (hs | ⟨hr, hno⟩) <;> obtain hm | ⟨hm, hin⟩ := hm
        · exact absurd (hm.symm.trans hs) nofun
        · exact absurd (hm.symm.trans hs) nofun
        · exact absurd (hm.symm.trans hr) nofun
        · exact hno hin
    · have hw : writeAllowed s.cx.mode (fieldAt c.body 0 2) = true := by
        rw [writeAllowed_iff, hp]
        cases he : s.cx.mode with
        | startup => exact absurd he hm
        | setup => exact .inl rfl
        | run => exact .inr ⟨rfl, fun hn => absurd hn.1 nofun⟩
      rw [if_pos hl, writeParameter_allowed hw, hp]
      exact refuseCommand_statusOnly c .unknownParameter s
    · have hw : writeAllowed s.cx.mode (fieldAt c.body 0 2) = true :=
        (writeAllowed_iff _ _).mpr (hm.imp_right fun hr => ⟨hr.1, fun hn => absurd hn.2 (by omega)⟩)
      rw [if_pos hl, writeParameter_allowed hw, hp]
      simp only [hbad]
      exact refuseCommand_statusOnly c .badValue s
    · have hw : writeAllowed s.cx.mode (fieldAt c.body 0 2) = true :=
        (writeAllowed_iff _ _).mpr (hm.imp_right fun hr => ⟨hr.1, fun hn => absurd hn.2 (by omega)⟩)
      rw [if_pos hl, writeParameter_allowed hw, hp]
      simp only [hgood, if_true]
      have ha := answerOk_answer c { s with pm := { s.pm with
        params := putParam s.pm.params p (.ofNat 32 (fieldAt c.body 2 4)) } }
      rw [ha.pm]
      exact ⟨answerOk_statusOnly c _, readParam_putParam_same (Bool.and_eq_true_iff.mp hgood).1 _,
        putParam_triggers _ _ _, fun q hq => readParam_putParam_other hq _ _⟩

/-! ## The saving -/

theorem exec_saveParameters {c : Command} {s : State} (h : Awaits c s) (hk : c.kind = 0x08) (hb : c.body = []) :
    exec .saveParameters s = .next (saveParameters c s) := by
  have harm : exec .saveParameters s = done s (takeCommand 0x08 0 saveParameters s) := rfl
  rw [harm, done_take h hk (List.length_eq_zero_iff.mpr hb)]

/-- A save that ends has its image written; the head command is answered, or after RESTART dropped (R201, R203). -/
theorem exec_saveComplete {c : Command} {rest : List Command} {s : State} (ok : Bool) (hp : s.powered = true)
    (hs : s.pm.saving = true) (hq : s.li.queue = c :: rest) : exec (.saveComplete ok) s =
      .next (if s.li.closing then popCommand { s with pm := savedMemory ok s.pm }
        else finishCommand (statusReply c.kind c.tag
          (if imageGood ⟨s.pm.params, ok⟩ then .ok else .uncorrectable)) { s with pm := savedMemory ok s.pm }) := by
  have harm : exec (.saveComplete ok) s = done s (saveComplete ok s) := rfl
  rw [harm, done_powered _ hp, saveComplete, if_pos hs, hq]

/-- Settles O54: `savedMemory` is the parameter memory after the write, and the reply follows its read-back. -/
theorem saveWritesTheImage : Obligations.SaveWritesTheImage := by
  refine ⟨fun c s h hk hb => ?begin, fun c rest ok s hp hs hq hc => ?ends, fun c rest ok s hp hs hq hc => ?closing⟩
  case begin =>
    rw [exec_saveParameters h hk hb]
    refine ⟨fun hm => congrArg _ (if_neg hm), fun hm => ⟨_, rfl, ?_⟩⟩
    rw [saveParameters, if_pos hm]
    exact refuseCommand_statusOnly c .wrongMode s
  case ends =>
    rw [exec_saveComplete ok hp hs hq, hc]
    simp only [Bool.false_eq_true, if_false]
    have ha := finishCommand_answer (statusReply c.kind c.tag
      (if imageGood ⟨s.pm.params, ok⟩ then .ok else .uncorrectable)) { s with pm := savedMemory ok s.pm }
    refine ⟨_, rfl, ?_⟩
    rw [ha.pm]
    refine ⟨rfl, rfl, rfl, fun hg => ⟨?_, ?_⟩, fun hb => ⟨?_, ?_⟩⟩
    · simp [savedMemory, hg]
    · rw [hg, if_pos rfl]
      exact finishCommand_answered _ _
    · simp [savedMemory, hb]
    · rw [hb, if_neg Bool.false_ne_true]
      exact finishCommand_answered _ _
  case closing =>
    rw [exec_saveComplete ok hp hs hq, hc, if_pos rfl]
    refine ⟨_, rfl, rfl, rfl, ?_⟩
    simp only [popCommand, hq, List.tail_cons]

end Sys2Proof.Machine
end

section
/-! PROOFS. The ranges of the brake pipe record, the thermal groups and the blend result record (3.1, 5.2, R55, R73), and
the changes of the part mode (R193 to R195). -/

namespace Sys2Proof.Machine

/-! ## The brake pipe record -/

theorem pipeInRange_iff (b : BrakePipe) : pipeInRange b = true ↔
    b.pressure ≤ 1000 ∧ b.history.length ≤ 10 ∧ b.invalidCount ≤ 5 ∧ b.rateHits ≤ 2 ∧ b.recovery < 10000 ∧
      ∀ p ∈ b.history, p ≤ 1000 := by
  simp [pipeInRange, and_assoc]

theorem validReading_le {r : Reading} {p : Nat} (h : validReading r = some p) : p ≤ 1000 := by
  unfold validReading at h
  split at h
  · split at h
    · exact Option.some.inj h ▸ Nat.min_le_left _ _
    · exact absurd h nofun
  · exact absurd h nofun

theorem length_pushHistory_le (history : List Nat) (p : Nat) (h : history.length ≤ 10) :
    (pushHistory history p).length ≤ 10 := by
  simp only [pushHistory, List.length_drop, List.length_append, List.length_singleton]
  omega

theorem mem_pushHistory {history : List Nat} {p x : Nat} (h : x ∈ pushHistory history p) : x ∈ history ∨ x = p := by
  simpa using List.mem_of_mem_drop h

theorem rateHitsAfter_le (p : PipeParams) (valid : Bool) (history : List Nat) (pressure hits : Nat) :
    rateHitsAfter p valid history pressure hits ≤ 2 := by
  unfold rateHitsAfter
  split
  · exact Nat.min_le_left _ _
  · exact Nat.zero_le _

theorem takeReading_inRange (r : Reading) {b : BrakePipe} (h : pipeInRange b = true) :
    pipeInRange (takeReading r b) = true := by
  obtain ⟨hp, hl, hi, hr, hrec, hh⟩ := (pipeInRange_iff b).mp h
  have hist : ∀ x ∈ pushHistory b.history b.pressure, x ≤ 1000 := fun x hx =>
    (mem_pushHistory hx).elim (hh x) (fun e => e ▸ hp)
  have hlen := length_pushHistory_le b.history b.pressure hl
  rw [pipeInRange_iff]
  unfold takeReading
  dsimp only
  split
  · next q hq => exact ⟨validReading_le hq, hlen, Nat.zero_le 5, hr, hrec, hist⟩
  · exact ⟨hp, hlen, Nat.min_le_left 5 _, hr, hrec, hist⟩

theorem deriveFall_inRange (p : PipeParams) (valid : Bool) {b : BrakePipe} (h : pipeInRange b = true) :
    pipeInRange (deriveFall p valid b) = true := by
  obtain ⟨hp, hl, hi, -, hrec, hh⟩ := (pipeInRange_iff b).mp h
  exact (pipeInRange_iff _).mpr ⟨hp, hl, hi, rateHitsAfter_le _ _ _ _ _, hrec, hh⟩

theorem latchEmergency_inRange (p : PipeParams) (standstill host : Bool) {b : BrakePipe}
    (h : pipeInRange b = true) : pipeInRange (latchEmergency p standstill host b) = true := by
  obtain ⟨hp, hl, hi, hr, hrec, hh⟩ := (pipeInRange_iff b).mp h
  rw [pipeInRange_iff]
  unfold latchEmergency
  split
  · exact ⟨hp, hl, hi, hr, Nat.zero_lt_succ 9999, hh⟩
  · split
    · split
      · split
        · exact ⟨hp, hl, hi, hr, Nat.zero_lt_succ 9999, hh⟩
        · next hn => exact ⟨hp, hl, hi, hr, Nat.lt_of_not_le hn, hh⟩
      · exact ⟨hp, hl, hi, hr, Nat.zero_lt_succ 9999, hh⟩
    · exact ⟨hp, hl, hi, hr, hrec, hh⟩

theorem bpmSample_inRange (r : Reading) {s : State} (h : pipeInRange s.bpm = true) :
    pipeInRange (bpmSample r s).bpm = true := by
  unfold bpmSample
  split
  · simp only [raiseIf_bpm]
    exact latchEmergency_inRange _ _ _ (deriveFall_inRange _ _ (takeReading_inRange r h))
  · exact h

/-! ## The thermal groups -/

theorem nextTheta_le (t : ThermalParams) (ambient : Int) (vRef : Nat) (r : GroupReport) (theta : Nat) :
    nextTheta t ambient vRef r theta ≤ 9000 := by
  unfold nextTheta clampInt
  dsimp only
  omega

theorem thermalStep_inRange (p : ParamSet) (ambient : Int) (vRef : Nat) (r : GroupReport) (g : ThermalGroup) :
    groupInRange (thermalStep p ambient vRef r g) = true := by
  simp only [groupInRange, thermalStep, nextTheta_le, decide_true, Bool.true_and, thermalCap]
  cases nextCutout p.thermal (nextTheta p.thermal ambient vRef r g.theta) g.cutout <;> rfl

theorem thermalUpdate_inRange {s : State} (h : ∀ g, groupInRange (s.gt.get g) = true) (g : Truck) :
    groupInRange ((thermalUpdate s).gt.get g) = true := by
  unfold thermalUpdate
  split
  · simp only [raiseIf_gt, PerTruck.get_ofFn]
    exact thermalStep_inRange _ _ _ _ _
  · exact h g

/-! ## The blend result record -/

theorem dbRequestAfter_le (p : BlendParams) (st : CorrState) (capability target dbr : Nat) :
    dbRequestAfter p st capability target dbr ≤ capability := Nat.min_le_left _ _

/-- Whatever the regime, a run in RUN leaves each request within the capability it computed (R73). -/
theorem runTrucks_within (p : BlendParams) (emergency : Bool) (fAuto fHnd : Nat) (bailOff : Bool)
    (dbr : PerTruck Nat) (a b : TruckInputs) (g : Truck) :
    ((runTrucks p emergency fAuto fHnd bailOff dbr a b).get g).dbRequest ≤
      ((runTrucks p emergency fAuto fHnd bailOff dbr a b).get g).capability := by
  unfold runTrucks
  split
  · cases g <;> exact dbRequestAfter_le _ _ _ _ _
  · split
    · cases g <;> exact dbRequestAfter_le _ _ _ _ _
    · cases g <;> exact dbRequestAfter_le _ _ _ _ _

theorem blendResult_within (s : State) (g : Truck) :
    ((blendResult s).trucks.get g).dbRequest ≤ ((blendResult s).trucks.get g).capability := by
  unfold blendResult
  dsimp only
  split
  · exact runTrucks_within _ _ _ _ _ _ _ _ g
  · rw [PerTruck.get_both]
    exact Nat.le_refl _

theorem blendResult_age (s : State) : (blendResult s).demandAge = satInc 255 s.bc.demandAge := by
  unfold blendResult
  dsimp only
  split <;> rfl

/-! ## All of them -/

theorem rangesHold_iff (s : State) : rangesHold s = true ↔
    pipeInRange s.bpm = true ∧ (∀ g, groupInRange (s.gt.get g) = true) ∧ s.bc.demandAge ≤ 255 ∧
      ∀ g, (s.bc.trucks.get g).dbRequest ≤ (s.bc.trucks.get g).capability := by
  have htrucks (P : Truck → Prop) : (∀ g, P g) ↔ P .a ∧ P .b :=
    ⟨fun h => ⟨h .a, h .b⟩, fun ⟨ha, hb⟩ g => by cases g <;> assumption⟩
  simp only [rangesHold, requestsWithinCapability, Bool.and_eq_true, decide_eq_true_eq, htrucks, and_assoc]
  rfl

/-- The ranges are those of three records alone. -/
theorem rangesHold_of_eq {s t : State} (h : rangesHold s = true) (hb : t.bpm = s.bpm) (hg : t.gt = s.gt)
    (hc : t.bc = s.bc) : rangesHold t = true := by
  unfold rangesHold
  rw [hb, hg, hc]
  exact h

theorem blendRun_rangesHold {s : State} (h : rangesHold s = true) : rangesHold (blendRun s) = true := by
  unfold blendRun
  split
  · rw [rangesHold_iff] at h ⊢
    obtain ⟨hp, hg, -, -⟩ := h
    simp only [raiseIf_bpm, raiseIf_gt, raiseIf_bc]
    exact ⟨hp, hg, blendResult_age s ▸ Nat.min_le_left _ _, blendResult_within s⟩
  · exact h

/-- The starting temperature of a loaded set is in range, be it an image's or the default (R98, R200). -/
theorem loadedParams_thetaDerate (i : ParamImage) : (loadedParams i).thermal.thetaDerate ≤ 9000 := by
  unfold loadedParams
  split
  · next h =>
    obtain ⟨-, hv, -⟩ := (imageGood_iff i).mp h
    have hrow := ((valueGood_plain (p := .thetaDerate) rfl i.values).mp
      ((rows_allow_iff i.values).mp ((valuesInRange_iff i.values).mp hv).1 _ rfl)).2.1
    simp only [heldValue, paramRange] at hrow
    omega
  · decide

theorem powerUp_rangesHold (s : State) : rangesHold (powerUp s) = true := by
  have hg : groupInRange (resetThermalGroup (loadedParams s.pm.image)) = true := by
    simp [groupInRange, resetThermalGroup, loadedParams_thetaDerate]
  exact (rangesHold_iff _).mpr ⟨rfl, fun g => by cases g <;> exact hg,
    Nat.le_add_left 4 251, fun g => by cases g <;> exact Nat.le_refl 0⟩

theorem exec_rangesHold {c : Instr} {s t : State} (h : rangesHold s = true) (he : exec c s = .next t) :
    rangesHold t = true := by
  obtain hk | hm := owners_cases he
  · exact rangesHold_of_eq h hk.bpm hk.gt hk.bc
  · cases hm with
    | reset u => exact powerUp_rangesHold u
    | load => split <;> exact rangesHold_of_eq h (by simp [parameterLoad]) (by simp [parameterLoad]) (by simp [parameterLoad])
    | rebuilt reads results hr hk =>
      rw [rebuildEnded_eq]
      split <;> exact rangesHold_of_eq h hk.bpm hk.gt hk.bc
    | window a b => exact rangesHold_of_eq h (by simp) (by simp) (by simp)
    | sample r =>
      rw [rangesHold_iff] at h ⊢
      obtain ⟨hp, hrest⟩ := h
      refine ⟨bpmSample_inRange r hp, ?_⟩
      unfold bpmSample
      split <;> simpa using hrest
    | blend => exact blendRun_rangesHold h
    | thermal =>
      rw [rangesHold_iff] at h ⊢
      obtain ⟨hp, hg, hrest⟩ := h
      refine ⟨?_, thermalUpdate_inRange hg, ?_⟩
      · unfold thermalUpdate
        split <;> simpa using hp
      · unfold thermalUpdate
        split <;> simpa using hrest
    | demand bytes d hk =>
      refine rangesHold_of_eq ?_ hk.bpm hk.gt hk.bc
      rw [rangesHold_iff] at h ⊢
      obtain ⟨hp, hg, -, hd⟩ := h
      exact ⟨hp, hg, Nat.zero_le 255, hd⟩
    | restart bytes tag r =>
      unfold acceptRestart
      refine rangesHold_of_eq h ?_ ?_ ?_
      · rw [startTx_bpm, restartRecord_frame]; rfl
      · rw [startTx_gt, restartRecord_frame]; rfl
      · rw [startTx_bc, restartRecord_frame]; rfl
    | setup q =>
      have ha := answerOk_answer q (enterSetup s)
      exact rangesHold_of_eq h ha.bpm ha.gt ha.bc
    | run q =>
      have ha := answerOk_answer q (enterRun s)
      refine rangesHold_of_eq ?_ ha.bpm ha.gt ha.bc
      rw [rangesHold_iff] at h ⊢
      exact h

/-- Settles O29: each record is in range after the evaluation that writes it, and a command that moves none leaves
them. -/
theorem rangesKept : Obligations.RangesKept := by
  intro s t h hstep
  obtain rfl | ⟨c, rest, -, he⟩ := step_next hstep
  · obtain ⟨timer, e⟩ := tick_eq s
    exact e ▸ h
  · exact exec_rangesHold (s := { s with pending := rest }) h he

/-! ## The part mode -/

theorem modeConsistent_iff (x : Executor) :
    modeConsistent x = true ↔ (x.mode ≠ .startup → x.loadEnded = true ∧ x.rebuildEnded = true) := by
  rcases x with ⟨mode, l, r, n, e⟩
  cases mode <;> simp [modeConsistent]

/-- `t` has the part mode and the start-up marks of `s`. -/
structure MarksKept (s t : State) : Prop where
  mode : t.cx.mode = s.cx.mode
  loadEnded : t.cx.loadEnded = s.cx.loadEnded
  rebuildEnded : t.cx.rebuildEnded = s.cx.rebuildEnded

theorem OwnersKept.marks {s t : State} (h : OwnersKept s t) : MarksKept s t := ⟨h.mode, h.loadEnded, h.rebuildEnded⟩

theorem MarksKept.refl (s : State) : MarksKept s s := ⟨rfl, rfl, rfl⟩

theorem MarksKept.consistent {s t : State} (h : MarksKept s t) (hs : modeConsistent s.cx = true) :
    modeConsistent t.cx = true := by
  rw [modeConsistent_iff, h.mode, h.loadEnded, h.rebuildEnded]
  exact (modeConsistent_iff s.cx).mp hs

theorem windowClose_marks (a b : Reading) (s : State) : MarksKept s (windowClose a b s) := by
  unfold windowClose
  split
  · constructor <;> simp [compose, spEvaluate, raiseIf_cx]
  · exact .refl s

theorem bpmSample_marks (r : Reading) (s : State) : MarksKept s (bpmSample r s) := by
  unfold bpmSample
  split
  · constructor <;> simp [raiseIf_cx]
  · exact .refl s

theorem blendRun_marks (s : State) : MarksKept s (blendRun s) := by
  unfold blendRun
  split
  · constructor <;> simp [raiseIf_cx]
  · exact .refl s

theorem thermalUpdate_marks (s : State) : MarksKept s (thermalUpdate s) := by
  unfold thermalUpdate
  split
  · constructor <;> simp [raiseIf_cx]
  · exact .refl s

theorem acceptRestart_mode (tag : Byte) (s : State) : (acceptRestart tag s).cx.mode = .startup := by
  unfold acceptRestart
  rw [startTx_cx, restartRecord_frame]

theorem parameterLoad_cx (s : State) : (parameterLoad s).cx.mode = s.cx.mode ∧ (parameterLoad s).cx.loadEnded = true ∧
    (parameterLoad s).cx.rebuildEnded = s.cx.rebuildEnded := by
  simp [parameterLoad, raiseIf_cx]

theorem rebuilding_startup {s : State} (h : rebuilding s = true) : s.cx.mode = .startup := by
  simp only [rebuilding, Bool.and_eq_true, beq_iff_eq] at h
  exact h.1.1.1

/-- The commands that change the part mode (R193 to R195). -/
theorem exec_mode {c : Instr} {s t : State} (hs : modeConsistent s.cx = true) (he : exec c s = .next t) :
    t.cx.mode = s.cx.mode ∨ (t.cx.mode = .startup ∧ (c = .powerOn ∨ c = .resetProceeds ∨ ∃ bytes, c = .restart bytes)) ∨
    (t.cx.mode = .setup ∧ (s.cx.mode = .startup ∨ c = .enterSetup)) ∨ (t.cx.mode = .run ∧ c = .enterRun) := by
  obtain hk | hm := owners_cases he
  · exact .inl hk.mode
  · cases hm with
    | reset u hc => exact .inr (.inl ⟨rfl, hc.elim .inl (fun e => .inr (.inl e))⟩)
    | load hl =>
      obtain ⟨hmode, -, -⟩ := parameterLoad_cx s
      have hstart : s.cx.mode = .startup := by
        refine Decidable.byContradiction fun hn => ?_
        exact absurd (hl.symm.trans ((modeConsistent_iff s.cx).mp hs hn).1) nofun
      split
      · exact .inr (.inr (.inl ⟨rfl, .inl hstart⟩))
      · exact .inl hmode
    | rebuilt reads results hr hk =>
      rw [rebuildEnded_eq]
      split
      · exact .inr (.inr (.inl ⟨rfl, .inl (rebuilding_startup hr)⟩))
      · exact .inl hk.mode
    | window a b => exact .inl (windowClose_marks a b s).mode
    | sample r => exact .inl (bpmSample_marks r s).mode
    | blend => exact .inl (blendRun_marks s).mode
    | thermal => exact .inl (thermalUpdate_marks s).mode
    | demand bytes d hk => exact .inl hk.mode
    | restart bytes tag r => exact .inr (.inl ⟨acceptRestart_mode _ _, .inr (.inr ⟨bytes, rfl⟩)⟩)
    | setup q => exact .inr (.inr (.inl ⟨(answerOk_answer _ _).mode, .inr rfl⟩))
    | run q => exact .inr (.inr (.inr ⟨(answerOk_answer _ _).mode, rfl⟩))

/-- Outside STARTUP the load and the rebuild have ended, whatever the command (R193). -/
theorem exec_modeConsistent {c : Instr} {s t : State} (hs : modeConsistent s.cx = true) (he : exec c s = .next t) :
    modeConsistent t.cx = true := by
  have hstart {x : Executor} (h : x.mode = .startup) : modeConsistent x = true :=
    (modeConsistent_iff x).mpr fun hn => absurd h hn
  obtain hk | hm := owners_cases he
  · exact hk.marks.consistent hs
  · cases hm with
    | reset u => exact hstart rfl
    | load hl =>
      obtain ⟨hmode, hload, hreb⟩ := parameterLoad_cx s
      have hm0 : s.cx.mode = .startup := by
        refine Decidable.byContradiction fun hn => ?_
        exact absurd (hl.symm.trans ((modeConsistent_iff s.cx).mp hs hn).1) nofun
      split
      · next hr => exact (modeConsistent_iff _).mpr fun _ => ⟨hload, hreb.trans hr⟩
      · exact hstart (hmode.trans hm0)
    | rebuilt reads results hr hk =>
      rw [rebuildEnded_eq]
      split
      · next hl => exact (modeConsistent_iff _).mpr fun _ => ⟨hl, rfl⟩
      · exact hstart (hk.mode.trans (rebuilding_startup hr))
    | window a b => exact (windowClose_marks a b s).consistent hs
    | sample r => exact (bpmSample_marks r s).consistent hs
    | blend => exact (blendRun_marks s).consistent hs
    | thermal => exact (thermalUpdate_marks s).consistent hs
    | demand bytes d hk => exact hk.marks.consistent (s := { s with demand := d, bc := { s.bc with demandAge := 0 } }) hs
    | restart bytes tag r => exact hstart (acceptRestart_mode _ _)
    | setup q hm =>
      have ha := answerOk_answer q (enterSetup s)
      rw [modeConsistent_iff, ha.loadEnded, ha.rebuildEnded]
      exact fun _ => (modeConsistent_iff s.cx).mp hs hm
    | run q hm =>
      have ha := answerOk_answer q (enterRun s)
      rw [modeConsistent_iff, ha.loadEnded, ha.rebuildEnded]
      exact fun _ => (modeConsistent_iff s.cx).mp hs (by rw [hm]; exact nofun)

/-- Settles O57: `exec_mode` names the commands that change the mode, and each leaves the marks consistent with it. -/
theorem modeChangesOnlyByItsCommands : Obligations.ModeChangesOnlyByItsCommands := by
  refine ⟨fun c s t hs he => ?changes, fun s t hs hstep => ?kept⟩
  case changes =>
    obtain hm | ⟨hm, hc⟩ | ⟨hm, hc⟩ | ⟨hm, hc⟩ := exec_mode hs he
    · exact ⟨fun hn hr => absurd (hm ▸ hr) hn, fun hr hn => absurd (hm.trans hr) hn⟩
    · exact ⟨fun _ hr => absurd (hm.symm.trans hr) nofun, fun _ _ => .inr hc⟩
    · exact ⟨fun _ hr => absurd (hm.symm.trans hr) nofun,
        fun hr _ => .inl (hc.resolve_left fun h0 => absurd (h0.symm.trans hr) nofun)⟩
    · exact ⟨fun _ _ => hc, fun _ hn => absurd hm hn⟩
  case kept =>
    obtain rfl | ⟨c, rest, -, he⟩ := step_next hstep
    · obtain ⟨timer, e⟩ := tick_eq s
      exact e ▸ hs
    · exact exec_modeConsistent (s := { s with pending := rest }) hs he

end Sys2Proof.Machine
end

section
/-! PROOFS. The record directory and the medium through SC's operations (R125, R138, R143, R147): what lies between two
operations of the store moves no byte of it, keeps the directory's bounds, and drops no protected HELD record. -/

namespace Sys2Proof.Machine

/-- Every HELD record with protect true stands in the directory of `t` as in that of `s`. -/
def HeldKept (s t : State) : Prop :=
  ∀ e ∈ s.sc.directory, e.state = .held → e.protect = true → e ∈ t.sc.directory

/-- `t` has the medium of `s` and, where the directory of `s` is within its bounds, a directory within them, with the
protected HELD records of `s`. -/
structure StoreTidy (s t : State) : Prop where
  medium : t.medium = s.medium
  ok : directoryOk s.sc → directoryOk t.sc
  held : directoryOk s.sc → HeldKept s t

theorem StoreTidy.refl (s : State) : StoreTidy s s := ⟨rfl, id, fun _ _ he _ _ => he⟩

theorem StoreTidy.trans {s t u : State} (h : StoreTidy s t) (k : StoreTidy t u) : StoreTidy s u :=
  ⟨k.medium.trans h.medium, fun d => k.ok (h.ok d), fun d e he hs hp =>
    k.held (h.ok d) e (h.held d e he hs hp) hs hp⟩

/-- Updates beside the medium and the directory. -/
theorem StoreTidy.of_eq {s t : State} (hm : t.medium = s.medium) (hd : t.sc.directory = s.sc.directory) :
    StoreTidy s t :=
  ⟨hm, fun d => by unfold directoryOk; rw [hd]; exact d, fun _ e he _ _ => by rw [hd]; exact he⟩

theorem StoreTidy.of_rfl {s t : State} (hm : t.medium = s.medium := by rfl)
    (hd : t.sc.directory = s.sc.directory := by rfl) : StoreTidy s t := .of_eq hm hd

/-- What follows an update beside the medium and the directory. -/
theorem StoreTidy.after {s t u : State} (k : StoreTidy t u) (hm : t.medium = s.medium := by rfl)
    (hd : t.sc.directory = s.sc.directory := by rfl) : StoreTidy s u := (StoreTidy.of_eq hm hd).trans k

/-- An update of entries that keeps each number, and each protected HELD entry. -/
theorem StoreTidy.of_map {s t : State} (hm : t.medium = s.medium) (f : DirEntry → DirEntry)
    (hd : t.sc.directory = s.sc.directory.map f) (hn : ∀ e, (f e).number = e.number)
    (hh : ∀ e, e.state = .held → e.protect = true → f e = e) : StoreTidy s t := by
  refine ⟨hm, fun ⟨hl, hu⟩ => ?_, fun _ e he hs hp => ?_⟩
  · have e : (s.sc.directory.map f).map (·.number) = s.sc.directory.map (·.number) := by
      simp only [List.map_map, Function.comp_def, hn]
    exact ⟨by rw [hd, List.length_map]; exact hl, by rw [hd, e]; exact hu⟩
  · rw [hd]
    exact List.mem_map.mpr ⟨e, he, hh e hs hp⟩

/-- A drop of reclaimable entries. -/
theorem StoreTidy.of_filter {s t : State} (hm : t.medium = s.medium) (p : DirEntry → Bool)
    (hd : t.sc.directory = s.sc.directory.filter p)
    (hp : ∀ e ∈ s.sc.directory, p e = false → reclaimable e = true) : StoreTidy s t := by
  refine ⟨hm, fun ⟨hl, hu⟩ => ⟨?_, ?_⟩, fun _ e he hs hprot => ?_⟩
  · rw [hd]
    exact Nat.le_trans (List.length_filter_le _ _) hl
  · rw [hd]
    exact hu.sublist (List.filter_sublist.map _)
  · rw [hd, List.mem_filter]
    refine ⟨he, ?_⟩
    refine Decidable.byContradiction fun hn => ?_
    have hr := hp e he (Bool.not_eq_true _ ▸ hn)
    simp [reclaimable, hs, hprot] at hr

theorem withCu_tidy (f : CaptureUnit → CaptureUnit) (s : State) : StoreTidy s (withCu f s) := .of_rfl
theorem withSc_tidy (f : StoreController → StoreController) (s : State)
    (h : (f s.sc).directory = s.sc.directory := by rfl) : StoreTidy s (withSc f s) := .of_eq rfl h
theorem raise_tidy (n : Notice) (s : State) : StoreTidy s (raise n s) := .of_rfl

/-- An update of the FILLING entry, which is not HELD. -/
theorem StoreTidy.of_onFilling {s t : State} {f : DirEntry → DirEntry} (hm : t.medium = s.medium)
    (hd : t.sc.directory = (onFilling f s.sc).directory) (hf : ∀ e, (f e).number = e.number) : StoreTidy s t := by
  refine .of_map hm (fun e => if e.state == .filling then f e else e) hd (fun e => ?_) (fun e hs _ => ?_)
  · split
    · exact hf e
    · rfl
  · exact if_neg (by rw [hs]; decide)

/-! ## Truncation, examination, position -/

theorem truncateOpen_tidy (e : EndReason) (keep : List Nat) (s : State) : StoreTidy s (truncateOpen e keep s) := by
  unfold truncateOpen
  split
  · exact .refl s
  · exact withCu_tidy _ s

theorem closeWithoutTrailer_tidy (s : State) : StoreTidy s (closeWithoutTrailer s) := by
  unfold closeWithoutTrailer
  split
  · exact .refl s
  · exact .of_onFilling rfl rfl fun _ => rfl

theorem truncateStoreFull_tidy (s : State) : StoreTidy s (truncateStoreFull s) := by
  unfold truncateStoreFull
  dsimp only
  split
  · exact truncateOpen_tidy _ _ s
  · exact (truncateOpen_tidy _ _ s).trans (closeWithoutTrailer_tidy _)

theorem beginStoreFull_tidy (s : State) : StoreTidy s (beginStoreFull s) := by
  unfold beginStoreFull
  split
  · exact .refl s
  · exact (truncateStoreFull_tidy _).after

theorem abandonRelocation_directory (sc : StoreController) :
    (abandonRelocation sc).directory = sc.directory := by
  unfold abandonRelocation
  split <;> rfl

theorem abandonRelocationOf_directory (b : Nat) (sc : StoreController) :
    (abandonRelocationOf b sc).directory = sc.directory := by
  unfold abandonRelocationOf
  split
  · split
    · exact abandonRelocation_directory sc
    · rfl
  · rfl

/-- The examination drops only records that may be reclaimed (R147). -/
theorem examine_tidy (s : State) : StoreTidy s (examine s) := by
  unfold examine
  dsimp only
  refine StoreTidy.trans (t := withSc (abandonRelocationOf (physicalBlock s.sc.map (eraseTarget s.sc))) s)
    (.of_eq rfl (abandonRelocationOf_directory _ _)) ?_
  split
  · next h =>
    refine .of_filter rfl _ rfl fun e he hf => List.all_eq_true.mp h e (List.mem_filter.mpr ⟨he, ?_⟩)
    simpa using hf
  · exact (beginStoreFull_tidy _).after

theorem enterBlock_tidy (s : State) : StoreTidy s (enterBlock s) := by
  unfold enterBlock
  dsimp only
  split
  · exact (examine_tidy _).after
  · exact .of_rfl

theorem advancePosition_tidy (s : State) : StoreTidy s (advancePosition s) := by
  unfold advancePosition
  dsimp only
  split
  · exact .of_rfl
  · split
    · exact (enterBlock_tidy _).after
    · split
      · exact (closeWithoutTrailer_tidy _).after
      · exact .of_rfl

/-! ## The writer -/

theorem sectionDone_tidy {job : SectionJob} (hj : job ≠ .rebuildTrailer) (logical : Nat) (s : State) :
    StoreTidy s (sectionDone job logical s) := by
  cases job with
  | header => exact .of_onFilling rfl rfl fun _ => rfl
  | frames indices => exact .of_onFilling rfl rfl fun _ => rfl
  | trailer => exact .of_onFilling rfl rfl fun _ => rfl
  | rebuildTrailer => exact absurd rfl hj

theorem wearOut_tidy (job : SectionJob) (s : State) : StoreTidy s (wearOut job s) := by
  unfold wearOut
  dsimp only
  split
  · refine .trans ?_ (enterBlock_tidy _)
    refine .trans ?_ (withSc_tidy _ _)
    split
    · exact (truncateOpen_tidy _ _ _).after
    · exact .of_rfl
  · refine .trans ?_ (examine_tidy _)
    refine .trans ?_ (beginStoreFull_tidy _)
    split
    · exact (truncateStoreFull_tidy _).after
    · exact .of_rfl

theorem eraseWornOut_tidy (s : State) : StoreTidy s (eraseWornOut s) := (beginStoreFull_tidy _).after

theorem takeTarget_directory {sc sc' : StoreController} {b : Nat} (h : takeTarget sc = some (b, sc')) :
    sc'.directory = sc.directory := by
  unfold takeTarget at h
  split at h
  · cases h
    rfl
  · obtain ⟨r, -, e⟩ := Option.map_eq_some_iff.mp h
    cases e
    rfl

theorem beginRecovery_tidy (job : Option SectionJob) (logical slot failed : Nat) (s : State) :
    StoreTidy s (beginRecovery job logical slot failed s) := by
  unfold beginRecovery
  split
  · next h =>
    have hd := takeTarget_directory h
    exact .of_eq rfl hd
  · split
    · exact wearOut_tidy _ s
    · exact eraseWornOut_tidy s

theorem programDone_tidy {job : SectionJob} (hj : job ≠ .rebuildTrailer) (logical : Nat) (s : State) :
    StoreTidy s (programDone job logical s) :=
  ((sectionDone_tidy hj _ _).after).trans (advancePosition_tidy _)

theorem eraseAheadDone_tidy (s : State) : StoreTidy s (eraseAheadDone s) := by
  unfold eraseAheadDone
  dsimp only
  split
  · exact .of_rfl
  · split
    · exact .of_rfl
    · exact (enterBlock_tidy _).after
  · exact (enterBlock_tidy _).after

theorem forgetBlock_tidy (b : Nat) (s : State) : StoreTidy s (withSc (forgetBlock b) s) :=
  .of_eq rfl (abandonRelocationOf_directory b s.sc)

theorem writerErased_tidy (ok : Bool) (block : Nat) (s : State) : StoreTidy s (writerErased ok block s) := by
  unfold writerErased
  split
  · split <;> exact .of_rfl
  · split
    · exact (forgetBlock_tidy _ s).trans (eraseAheadDone_tidy _)
    · exact beginRecovery_tidy _ _ _ _ s

theorem relocatorErased_tidy (ok : Bool) (s : State) : StoreTidy s (relocatorErased ok s) := by
  unfold relocatorErased
  split
  · split <;> exact .of_rfl
  · exact .refl s

theorem writerCopied_tidy (ok : Bool) (s : State) : StoreTidy s (writerCopied ok s) := by
  unfold writerCopied
  split
  · split
    · split
      · exact .of_rfl
      · exact .refl s
    · exact .of_rfl
  · exact .refl s

theorem relocatorCopied_tidy (ok : Bool) (s : State) : StoreTidy s (relocatorCopied ok s) := by
  unfold relocatorCopied
  split
  · split
    · split
      · exact .of_rfl
      · exact .refl s
    · exact .of_rfl
  · exact .refl s

/-! ## The map and the relocator -/

theorem writerMapped_tidy (c : MapChange) (s : State) : StoreTidy s (writerMapped c s) := by
  unfold writerMapped
  split
  · dsimp only
    split
    · exact (forgetBlock_tidy _ s).trans .of_rfl
    · exact (forgetBlock_tidy _ s).trans (eraseAheadDone_tidy _)
  · exact beginRecovery_tidy _ _ _ _ s
  · exact .refl s

theorem restartRelocation_tidy (block : Nat) (s : State) : StoreTidy s (restartRelocation block s) := by
  unfold restartRelocation
  split <;> exact .of_rfl

theorem relocatorMapped_tidy (c : MapChange) (s : State) : StoreTidy s (relocatorMapped c s) := by
  unfold relocatorMapped
  split
  · exact .of_rfl
  · exact restartRelocation_tidy _ s
  · exact .refl s

theorem relocationStart_tidy (s : State) : StoreTidy s (relocationStart s) := by
  unfold relocationStart
  split
  · split
    · exact .refl s
    · exact (restartRelocation_tidy _ _).after
  · exact .refl s

theorem queueBlock_directory (b : Nat) (sc : StoreController) : (queueBlock b sc).directory = sc.directory := by
  obtain e | e := queueBlock_cases b sc <;> rw [e]

/-! ## Answers and the reader -/

theorem startTx_tidy (s : State) : StoreTidy s (startTx s) := .of_eq (by simp) (by simp)

theorem placeReply_tidy (r : Reply) (s : State) : StoreTidy s (placeReply r s) := (startTx_tidy _).after

theorem finishCommand_tidy (r : Reply) (s : State) : StoreTidy s (finishCommand r s) :=
  (placeReply_tidy r s).trans .of_rfl

theorem refuseCommand_tidy (c : Command) (st : Status) (s : State) : StoreTidy s (refuseCommand c st s) :=
  finishCommand_tidy _ s

theorem answerOk_tidy (c : Command) (s : State) : StoreTidy s (answerOk c s) := finishCommand_tidy _ s

theorem placeArrivalReply_tidy (r : Reply) (s : State) : StoreTidy s (placeArrivalReply r s) := by
  unfold placeArrivalReply
  split
  · exact placeReply_tidy r s
  · exact raise_tidy _ s

theorem placeReport_tidy (r : ReportEntry) (s : State) : StoreTidy s (placeReport r s) := by
  unfold placeReport
  split
  · exact (startTx_tidy _).after
  · exact raise_tidy _ s

theorem endReadOut_tidy (st : Status) (r : ReadOut) (s : State) : StoreTidy s (endReadOut st r s) :=
  (finishCommand_tidy _ s).trans .of_rfl

theorem stopReadOut_tidy (st : Status) (r : ReadOut) (s : State) : StoreTidy s (stopReadOut st r s) :=
  endReadOut_tidy _ _ s

theorem turnReader_tidy (r : ReadOut) (s : State) : StoreTidy s (turnReader r s) := by
  unfold turnReader
  split
  · exact stopReadOut_tidy _ _ s
  · dsimp only
    split
    · split
      · exact endReadOut_tidy _ _ s
      · exact stopReadOut_tidy _ _ s
    · exact .of_rfl

theorem afterGather_tidy (r : ReadOut) (s : State) : StoreTidy s (afterGather r s) := by
  unfold afterGather
  split
  · exact endReadOut_tidy _ _ s
  · split
    · exact (placeReply_tidy _ _).after
    · exact turnReader_tidy _ s

theorem afterVerify_tidy (r : ReadOut) (s : State) : StoreTidy s (afterVerify r s) := by
  unfold afterVerify
  split
  · exact endReadOut_tidy _ _ s
  · exact turnReader_tidy _ s

theorem readComplete_tidy (o : MediumOutcome) (s : State) : StoreTidy s (readComplete o s) := by
  unfold readComplete
  split
  · dsimp only
    split
    · exact .of_rfl
    · split
      · exact .of_rfl
      · have k : ∀ (q : MediumOutcome) (p : Nat) (t : State),
            StoreTidy t (if q = .corrected then withSc (queueBlock p) t else t) := by
          intro q p t
          split
          · exact .of_eq rfl (queueBlock_directory _ _)
          · exact .refl t
        refine StoreTidy.trans (StoreTidy.of_rfl (t := freePort { s with freeCount := s.freeCount + sectionSize })) ?_
        split
        · exact (k _ _ _).trans (stopReadOut_tidy _ _ _)
        · split
          · exact (k _ _ _).trans (afterGather_tidy _ _)
          · exact (k _ _ _).trans (afterVerify_tidy _ _)
  · exact .refl s

theorem readReplySent_tidy (s : State) : StoreTidy s (readReplySent s) := by
  unfold readReplySent
  split
  · split
    · exact turnReader_tidy _ s
    · exact .refl s
  · exact .refl s

theorem reexamine_tidy (s : State) : StoreTidy s (reexamine s) := by
  unfold reexamine
  split
  · exact examine_tidy s
  · exact .refl s

end Sys2Proof.Machine
end

section
/-! PROOFS. An opening's part of the directory (R125, R144): the room it makes, the number it takes, and what becomes of
the directory's bounds and of its protected HELD records. -/

namespace Sys2Proof.Machine

/-! ## The number -/

theorem repeat_succ {α : Type} (f : α → α) (i : Nat) (a : α) : Nat.repeat f (i + 1) a = Nat.repeat f i (f a) := by
  induction i with
  | zero => rfl
  | succ i ih => exact congrArg f ih

/-- The search ends at a number that is free, unless none of those it passed is. -/
theorem findFrom_spec (next : Nat → Nat) (free : Nat → Bool) (fuel n : Nat) :
    free (findFrom next free fuel n) = true ∨ ∀ i, i < fuel → free (Nat.repeat next i n) = false := by
  induction fuel generalizing n with
  | zero => exact .inr fun i hi => absurd hi (Nat.not_lt_zero i)
  | succ fuel ih =>
    rw [findFrom]
    split
    · next h => exact .inl h
    · next h =>
      refine (ih (next n)).imp_right fun hall i hi => ?_
      cases i with
      | zero => exact Bool.eq_false_iff.mpr h
      | succ i => exact repeat_succ next i n ▸ hall i (Nat.lt_of_succ_lt_succ hi)

theorem findFrom_of_free {next : Nat → Nat} {free : Nat → Bool} {fuel n : Nat} (h : free n = true) :
    findFrom next free fuel n = n := by
  cases fuel with
  | zero => rfl
  | succ fuel => exact if_pos h

/-- The numbers after `n`, as far as a search goes. -/
theorem followNumber_repeat (n i : Nat) (hi : i ≤ 33) : Nat.repeat followNumber i n =
    if i = 0 then n else if 65535 ≤ n then i else if n + i ≤ 65535 then n + i else n + i - 65535 := by
  induction i with
  | zero => rfl
  | succ i ih =>
    have hlast := ih (by omega)
    rw [Nat.repeat, followNumber, if_neg (Nat.succ_ne_zero i)]
    generalize Nat.repeat followNumber i n = last at hlast ⊢
    grind

theorem followNumber_repeat_injective {n i j : Nat} (hi : i < 32) (hj : j < 32)
    (h : Nat.repeat followNumber i n = Nat.repeat followNumber j n) : i = j := by
  rw [followNumber_repeat n i (by omega), followNumber_repeat n j (by omega)] at h
  grind

/-- Of fewer than 32 entries none has the number of the opening (R144). -/
theorem openingNumber_fresh {sc : StoreController} (h : sc.directory.length < 32) :
    ∀ e ∈ sc.directory, e.number ≠ openingNumber sc := by
  obtain hf | hall := findFrom_spec followNumber (fun n => !(sc.directory.any (fun e => e.number == n))) 32 sc.nextNumber
  · simpa [openingNumber] using hf
  · exfalso
    have hnodup : ((List.range 32).map fun i => Nat.repeat followNumber i sc.nextNumber).Nodup := by
      refine List.pairwise_map.mpr (List.nodup_range.imp_of_mem fun hi hj hne e => hne ?_)
      exact followNumber_repeat_injective (List.mem_range.mp hi) (List.mem_range.mp hj) e
    have hsub : ((List.range 32).map fun i => Nat.repeat followNumber i sc.nextNumber) ⊆ sc.directory.map (·.number) := by
      intro x hx
      obtain ⟨i, hi, rfl⟩ := List.mem_map.mp hx
      obtain ⟨e, he, hn⟩ : ∃ e ∈ sc.directory, e.number = Nat.repeat followNumber i sc.nextNumber := by
        simpa using hall i (List.mem_range.mp hi)
      exact List.mem_map.mpr ⟨e, he, hn⟩
    have hle := hnodup.length_le_of_subset hsub
    simp only [List.length_map, List.length_range] at hle
    omega

theorem openingNumber_next {sc : StoreController} (h : ∀ e ∈ sc.directory, e.number ≠ sc.nextNumber) :
    openingNumber sc = sc.nextNumber :=
  findFrom_of_free (by simpa using h)

/-! ## The room -/

/-- The record R125 drops, with those before it. -/
theorem victim_spec {dir : List DirEntry} {v : DirEntry} (h : victim dir = some v) :
    ∃ pre post, dir = pre ++ v :: post ∧ reclaimable v = true ∧
      ((v.state = .released ∧ ∀ x ∈ pre, x.state ≠ .released) ∨
       (v.state = .held ∧ v.protect = false ∧ (∀ x ∈ dir, x.state ≠ .released) ∧
         ∀ x ∈ pre, ¬(x.state = .held ∧ x.protect = false))) := by
  unfold victim at h
  split at h
  · next e he =>
    cases h
    obtain ⟨hv, pre, post, hd, hpre⟩ := List.find?_eq_some_iff_append.mp he
    rw [beq_iff_eq] at hv
    exact ⟨pre, post, hd, by simp [reclaimable, hv], .inl ⟨hv, fun x hx => by simpa using hpre x hx⟩⟩
  · next he =>
    obtain ⟨hv, pre, post, hd, hpre⟩ := List.find?_eq_some_iff_append.mp h
    simp only [Bool.and_eq_true, beq_iff_eq, Bool.not_eq_true'] at hv
    refine ⟨pre, post, hd, by simp [reclaimable, hv], .inr ⟨hv.1, hv.2, fun x hx => ?_, fun x hx => ?_⟩⟩
    · simpa using List.find?_eq_none.mp he x hx
    · have h := hpre x hx
      simp only [Bool.not_eq_true', Bool.and_eq_false_iff, beq_eq_false_iff_ne, Bool.not_eq_false'] at h
      exact fun ⟨hs, hp⟩ => h.elim (· hs) fun ht => absurd (ht.symm.trans hp) nofun

theorem victim_isSome_iff (dir : List DirEntry) : (victim dir).isSome = true ↔
    ∃ x ∈ dir, x.state = .released ∨ (x.state = .held ∧ x.protect = false) := by
  unfold victim
  split
  · next e he =>
    have hs := List.find?_some he
    rw [beq_iff_eq] at hs
    exact ⟨fun _ => ⟨e, List.mem_of_find?_eq_some he, .inl hs⟩, fun _ => rfl⟩
  · next he =>
    have hn : ∀ x ∈ dir, x.state ≠ .released := by simpa using List.find?_eq_none.mp he
    rw [List.find?_isSome]
    constructor
    · rintro ⟨x, hx, h⟩
      exact ⟨x, hx, .inr (by simpa using h)⟩
    · rintro ⟨x, hx, h | h⟩
      · exact absurd h (hn x hx)
      · exact ⟨x, hx, by simpa using h⟩

/-- An opening is refused in STARTUP, under the store-full state, and where no room can be made (R125). -/
theorem grantsOpening_iff (s : State) : grantsOpening s = true ↔ s.cx.mode ≠ .startup ∧ s.sc.storeFull = false ∧
    (s.sc.directory.length < 32 ∨ ∃ x ∈ s.sc.directory, x.state = .released ∨ (x.state = .held ∧ x.protect = false)) := by
  simp [grantsOpening, ← victim_isSome_iff, and_assoc]

/-- With no number twice, the drop of one record leaves the others, and takes its pending mark along (R125, R149). -/
theorem makeRoom_of_full {sc : StoreController} {pre post : List DirEntry} {v : DirEntry}
    (hu : (sc.directory.map (·.number)).Nodup) (hl : 32 ≤ sc.directory.length) (hv : victim sc.directory = some v)
    (hd : sc.directory = pre ++ v :: post) : makeRoom sc = { sc with
      directory := pre ++ post, pendingMarks := sc.pendingMarks.filter (fun n => n != v.number) } := by
  have hother : ∀ x ∈ pre ++ post, x.number ≠ v.number := by
    rw [hd, List.map_append, List.map_cons, List.perm_middle.nodup_iff] at hu
    intro x hx e
    refine (List.nodup_cons.mp hu).1 ?_
    rw [← List.map_append, ← e]
    exact List.mem_map_of_mem hx
  have hmem : v ∈ sc.directory := by simp [hd]
  have hkeep : ∀ l : List DirEntry, (∀ x ∈ l, x ∈ pre ++ post) →
      l.filter (fun e => !(e.number == v.number && e.sequence == v.sequence)) = l :=
    fun l hl' => List.filter_eq_self.mpr fun x hx => by simp [hother x (hl' x hx)]
  have hdir : sc.directory.filter (fun e => !(e.number == v.number && e.sequence == v.sequence)) = pre ++ post := by
    rw [hd, List.filter_append, List.filter_cons_of_neg (by simp), hkeep pre (by simp +contextual),
      hkeep post (by simp +contextual)]
  have hmarks : sc.pendingMarks.filter (fun n =>
      !(sc.directory.any (fun e => (e.number == v.number && e.sequence == v.sequence) && e.number == n))) =
      sc.pendingMarks.filter (fun n => n != v.number) := by
    refine List.filter_congr fun n _ => ?_
    rw [Bool.eq_iff_iff]
    simp only [Bool.not_eq_true', List.any_eq_false, Bool.and_eq_true, beq_iff_eq, not_and, bne_iff_ne, and_imp]
    exact ⟨fun h e => h v hmem rfl rfl e.symm, fun h x _ hxn _ e => h (e.symm.trans hxn)⟩
  rw [makeRoom, if_neg (by omega), hv]
  simp only [dropRecords, hdir, hmarks]

/-- What the room made is, in the terms of R125: the directory is short enough as it is, or loses one record. -/
theorem makeRoom_cases {sc : StoreController} (hok : directoryOk sc)
    (hg : sc.directory.length < 32 ∨ (victim sc.directory).isSome = true) :
    (sc.directory.length < 32 ∧ makeRoom sc = sc) ∨
    (32 ≤ sc.directory.length ∧ ∃ pre v post, sc.directory = pre ++ v :: post ∧ reclaimable v = true ∧
      makeRoom sc = { sc with
        directory := pre ++ post, pendingMarks := sc.pendingMarks.filter (fun n => n != v.number) } ∧
      ((v.state = .released ∧ ∀ x ∈ pre, x.state ≠ .released) ∨
       (v.state = .held ∧ v.protect = false ∧ (∀ x ∈ sc.directory, x.state ≠ .released) ∧
         ∀ x ∈ pre, ¬(x.state = .held ∧ x.protect = false)))) := by
  by_cases hl : sc.directory.length < 32
  · exact .inl ⟨hl, if_pos hl⟩
  · obtain ⟨v, hv⟩ := Option.isSome_iff_exists.mp (hg.resolve_left hl)
    obtain ⟨pre, post, hd, hr, hold⟩ := victim_spec hv
    exact .inr ⟨by omega, pre, v, post, hd, hr, makeRoom_of_full hok.2 (by omega) hv hd, hold⟩

theorem makeRoom_fields (sc : StoreController) : makeRoom sc = { sc with
    directory := (makeRoom sc).directory, pendingMarks := (makeRoom sc).pendingMarks } := by
  unfold makeRoom
  split
  · rfl
  · split <;> rfl

/-- After the room is made fewer than 32 entries stand, no number twice, and the protected HELD ones as they stood. -/
theorem makeRoom_keeps {sc : StoreController} (hok : directoryOk sc)
    (hg : sc.directory.length < 32 ∨ (victim sc.directory).isSome = true) :
    (makeRoom sc).directory.length < 32 ∧ ((makeRoom sc).directory.map (·.number)).Nodup ∧
    ∀ e ∈ sc.directory, e.state = .held → e.protect = true → e ∈ (makeRoom sc).directory := by
  obtain ⟨hl, e⟩ | ⟨hl, pre, v, post, hd, hr, e, -⟩ := makeRoom_cases hok hg
  · rw [e]
    exact ⟨hl, hok.2, fun x hx _ _ => hx⟩
  · obtain ⟨hle, hu⟩ := hok
    rw [e, hd]
    rw [hd, List.length_append, List.length_cons] at hle
    rw [hd, List.map_append, List.map_cons, List.perm_middle.nodup_iff, ← List.map_append] at hu
    refine ⟨by rw [List.length_append]; omega, hu.of_cons, fun x hx hs hp => ?_⟩
    obtain h | rfl | h : x ∈ pre ∨ x = v ∨ x ∈ post := by simpa using hx
    · simp [h]
    · simp [reclaimable, hs, hp] at hr
    · simp [h]

/-! ## The opening -/

theorem nodup_append_singleton {α : Type} {l : List α} {a : α} (hl : l.Nodup) (ha : a ∉ l) : (l ++ [a]).Nodup := by
  refine List.perm_middle.nodup_iff.mpr (List.nodup_cons.mpr ?_)
  rw [List.append_nil]
  exact ⟨ha, hl⟩

/-- A granted opening leaves the directory within its bounds, with its protected HELD records. -/
theorem openEntry_tidy (protect : Bool) {s : State} (hg : grantsOpening s = true) :
    StoreTidy s (withSc (openEntry protect) s) := by
  have hroom : s.sc.directory.length < 32 ∨ (victim s.sc.directory).isSome = true :=
    ((grantsOpening_iff s).mp hg).2.2.imp_right (victim_isSome_iff _).mpr
  refine ⟨rfl, fun hok => ⟨?_, ?_⟩, fun hok e he hs hp =>
    List.mem_append_left _ ((makeRoom_keeps hok hroom).2.2 e he hs hp)⟩
  · obtain ⟨hl, -, -⟩ := makeRoom_keeps hok hroom
    simp only [withSc_sc, openEntry, List.length_append, List.length_singleton]
    omega
  · obtain ⟨hl, hu, -⟩ := makeRoom_keeps hok hroom
    simp only [withSc_sc, openEntry, List.map_append, List.map_cons, List.map_nil]
    refine nodup_append_singleton hu fun hn => ?_
    obtain ⟨e, he, hn⟩ := List.mem_map.mp hn
    exact openingNumber_fresh hl e he hn

theorem missIncident_tidy (s : State) : StoreTidy s (missIncident s) := .of_rfl

theorem openRecord_tidy (n : Nat) (e : TriggerEntry) (w : Word32) (s : State) :
    StoreTidy s (openRecord n e w s) := by
  unfold openRecord
  split
  · next hg => exact (openEntry_tidy _ hg).trans (withCu_tidy _ _)
  · exact missIncident_tidy s

theorem fireEntry_tidy (n : Nat) (e : TriggerEntry) (w : Word32) (s : State) :
    StoreTidy s (fireEntry n e w s) := by
  unfold fireEntry
  split
  · exact openRecord_tidy _ _ _ s
  · split
    · exact .of_onFilling rfl rfl fun _ => rfl
    · exact missIncident_tidy s

theorem evalEntry_tidy (n : Nat) (e : TriggerEntry) (p : Bool) (w : Word32) (s : State) :
    StoreTidy s (evalEntry n e p w s).1 := by
  unfold evalEntry
  split
  · exact .refl s
  · dsimp only
    split
    · exact fireEntry_tidy _ _ _ s
    · exact .refl s

theorem evalEntries_tidy (w : Word32) (es : List TriggerEntry) (n : Nat) (ps : List Bool) (s : State) :
    StoreTidy s (evalEntries w n es ps s).1 := by
  induction es generalizing n ps s with
  | nil => exact .refl s
  | cons e es ih =>
    cases ps with
    | nil => exact .refl s
    | cons p ps => exact (evalEntry_tidy n e p w s).trans (ih _ _ _)

theorem capture_tidy (s : State) : StoreTidy s (capture s) := by
  unfold capture
  split
  · exact ((withCu_tidy _ s).trans (evalEntries_tidy _ _ _ _ _)).trans (withCu_tidy _ _)
  · exact .refl s

end Sys2Proof.Machine
end

section
/-! PROOFS. Every command on the store's canonical form, the block map and the record directory (R138, R139, R143). -/

namespace Sys2Proof.Machine

/-! ## The completions -/

/-- `t` keeps the store's canonical form and the directory's bounds where `s` has them. -/
structure StoreSound (s t : State) : Prop where
  wf : s.medium.wf = true → t.medium.wf = true
  ok : directoryOk s.sc → directoryOk t.sc

theorem StoreSound.refl (s : State) : StoreSound s s := ⟨id, id⟩

theorem StoreSound.trans {s t u : State} (h : StoreSound s t) (k : StoreSound t u) : StoreSound s u :=
  ⟨fun w => k.wf (h.wf w), fun d => k.ok (h.ok d)⟩

theorem StoreTidy.sound {s t : State} (h : StoreTidy s t) : StoreSound s t := ⟨fun w => h.medium ▸ w, h.ok⟩

/-- `t` is `s` with an operation of the store performed on the medium, and then what lies between two operations. -/
structure Completed (s t : State) (m : Medium) (n : Nat) : Prop where
  wf : s.medium.wf = true → m.wf = true
  tidy : StoreTidy { s with medium := m, freeCount := n } t

theorem Completed.sound {s t : State} {m : Medium} {n : Nat} (h : Completed s t m n) : StoreSound s t :=
  ⟨fun w => h.tidy.medium ▸ h.wf w, h.tidy.ok⟩

theorem programComplete_failed_completed {s : State} {job : SectionJob} {a phys : Nat} {bytes : List Byte} {d : Bool}
    (hp : s.sc.port = some ⟨.writer, .program job a phys bytes, d⟩) :
    Completed s (programComplete false s) (spoilSection s.medium phys) s.freeCount := by
  refine ⟨spoilSection_wf _, ?_⟩
  unfold programComplete
  rw [hp]
  exact (beginRecovery_tidy _ _ _ _ _).after

theorem programComplete_completed {s : State} {job : SectionJob} {a phys : Nat} {bytes : List Byte} {d : Bool}
    (hp : s.sc.port = some ⟨.writer, .program job a phys bytes, d⟩) (hj : job ≠ .rebuildTrailer) :
    Completed s (programComplete true s) (programSection s.medium phys bytes) s.freeCount := by
  refine ⟨programSection_wf _ _, ?_⟩
  unfold programComplete
  rw [hp]
  exact (programDone_tidy hj _ _).after

/-- The directory with a TRAILER that the rebuild owed in it (R159). -/
def withOwedTrailer (i : TrailerInfo) (logical : Nat) (e : DirEntry) : DirEntry :=
  if e.number == i.number then { e with sectionCount := offsetOf e.first logical + 1, trailer := some logical } else e

theorem withOwedTrailer_number (i : TrailerInfo) (logical : Nat) (e : DirEntry) :
    (withOwedTrailer i logical e).number = e.number := by
  unfold withOwedTrailer
  split <;> rfl

theorem sectionDone_owed (logical : Nat) (s : State) :
    (sectionDone .rebuildTrailer logical s).medium = s.medium ∧
    (s.sc.rebuildTrailer = none → sectionDone .rebuildTrailer logical s = s) ∧
    ∀ i, s.sc.rebuildTrailer = some i → (sectionDone .rebuildTrailer logical s).sc.directory =
      s.sc.directory.map (withOwedTrailer i logical) := by
  unfold sectionDone
  dsimp only
  split
  · next h => exact ⟨rfl, fun _ => rfl, fun i hi => absurd (h.symm.trans hi) nofun⟩
  · next t h =>
    refine ⟨rfl, fun hn => absurd (h.symm.trans hn) nofun, fun i hi => ?_⟩
    cases h.symm.trans hi
    rfl

/-- The program of an owed TRAILER keeps the bounds, whatever entry it completes. -/
theorem sectionDone_sound (job : SectionJob) (logical : Nat) (s : State) :
    StoreSound s (sectionDone job logical s) := by
  by_cases hj : job = .rebuildTrailer
  · subst hj
    obtain ⟨hm, hn, hi⟩ := sectionDone_owed logical s
    cases ht : s.sc.rebuildTrailer with
    | none =>
      rw [hn ht]
      exact .refl s
    | some i =>
      refine ⟨fun w => hm ▸ w, fun ⟨hl, hu⟩ => ⟨?_, ?_⟩⟩
      · rw [hi i ht, List.length_map]
        exact hl
      · rw [hi i ht, List.map_map]
        simpa only [Function.comp_def, withOwedTrailer_number] using hu
  · exact (sectionDone_tidy hj _ _).sound

theorem programComplete_sound (ok : Bool) (s : State) : StoreSound s (programComplete ok s) := by
  rw [programComplete.eq_def]
  split
  · next job logical phys bytes d hp =>
    split
    · refine StoreSound.trans (t := { s with medium := programSection s.medium phys bytes })
        ⟨programSection_wf _ _, id⟩ ?_
      refine StoreSound.trans ?_ (advancePosition_tidy _).sound
      refine StoreSound.trans ?_ (sectionDone_sound _ _ _)
      exact (StoreTidy.of_rfl).sound
    · next hok =>
      have h := (programComplete_failed_completed hp).sound
      unfold programComplete at h
      rwa [hp] at h
  · exact .refl s

theorem markComplete_sound (ok : Bool) (s : State) : StoreSound s (markComplete ok s) := by
  unfold markComplete
  split
  · exact ⟨markStore_wf _ _, id⟩
  · exact .refl s

theorem eraseComplete_completed (ok : Bool) (s : State) :
    eraseComplete ok s = s ∨ ∃ m, Completed s (eraseComplete ok s) m s.freeCount := by
  unfold eraseComplete
  split
  · next agent block discard hp =>
    have hwf : s.medium.wf = true →
        (if ok = true then eraseBlock s.medium block else spoilBlock s.medium block).wf = true := fun w => by
      split
      · exact eraseBlock_wf _ w
      · exact spoilBlock_wf _ w
    dsimp only
    generalize (if ok = true then eraseBlock s.medium block else spoilBlock s.medium block) = m at hwf ⊢
    refine .inr ⟨m, hwf, ?_⟩
    split
    · exact .of_rfl
    · split
      · exact (writerErased_tidy _ _ _).after
      · exact (relocatorErased_tidy _ _).after
      · exact .of_rfl
  · exact .inl rfl

theorem copyComplete_completed (o : MediumOutcome) (ok : Bool) (s : State) :
    copyComplete o ok s = s ∨ ∃ m, Completed s (copyComplete o ok s) m (s.freeCount + sectionSize) := by
  unfold copyComplete
  split
  · next agent src dst discard hp =>
    dsimp only
    generalize readOutcome s.medium src o = q
    generalize readSection s.medium s.freeCount src q = bs
    have hwf : s.medium.wf = true → (if (ok || readsErased q bs) = true then copySection q bs src dst s.medium
        else spoilSection s.medium dst).wf = true := fun w => by
      split
      · exact copySection_wf _ _ _ _ w
      · exact spoilSection_wf _ w
    generalize (if (ok || readsErased q bs) = true then copySection q bs src dst s.medium
      else spoilSection s.medium dst) = m at hwf ⊢
    refine .inr ⟨m, hwf, ?_⟩
    split
    · exact .of_rfl
    · split
      · exact (writerCopied_tidy _ _).after
      · exact (relocatorCopied_tidy _ _).after
      · exact .of_rfl
  · exact .inl rfl

theorem mapWriteComplete_completed (ok : Bool) (s : State) :
    mapWriteComplete ok s = s ∨ ∃ m n, Completed s (mapWriteComplete ok s) m n := by
  unfold mapWriteComplete
  split
  · next agent change discard hp =>
    dsimp only
    split
    · refine .inr ⟨writeMapCopy (changeMap change s.sc.map) true s.sc.mapRetry s.medium, s.freeCount,
        writeMapCopy_wf _ _ _, ?_⟩
      split
      · exact .of_rfl
      · split
        · exact (writerMapped_tidy _ _).after
        · exact (relocatorMapped_tidy _ _).after
        · exact .of_rfl
    · refine .inr ⟨writeMapCopy (changeMap change s.sc.map) (Config.freeBit s.freeCount) s.sc.mapRetry s.medium,
        s.freeCount + 1, writeMapCopy_wf _ _ _, ?_⟩
      split <;> exact .of_rfl
  · exact .inl rfl

theorem eraseComplete_sound (ok : Bool) (s : State) : StoreSound s (eraseComplete ok s) := by
  obtain e | ⟨m, h⟩ := eraseComplete_completed ok s
  · rw [e]
    exact .refl s
  · exact h.sound

theorem copyComplete_sound (o : MediumOutcome) (ok : Bool) (s : State) : StoreSound s (copyComplete o ok s) := by
  obtain e | ⟨m, h⟩ := copyComplete_completed o ok s
  · rw [e]
    exact .refl s
  · exact h.sound

theorem mapWriteComplete_sound (ok : Bool) (s : State) : StoreSound s (mapWriteComplete ok s) := by
  obtain e | ⟨m, n, h⟩ := mapWriteComplete_completed ok s
  · rw [e]
    exact .refl s
  · exact h.sound

/-! ## The rebuild -/

theorem runOp_sound (op : StoreOp) (report : MediumOutcome × Bool) (s : State) : StoreSound s (runOp op report s) := by
  refine .trans (withSc_tidy (fun sc => { sc with port := some ⟨.writer, op, false⟩ }) s).sound ?_
  cases op with
  | erase => exact eraseComplete_sound _ _
  | program => exact programComplete_sound _ _
  | mark => exact markComplete_sound _ _
  | read => exact (StoreTidy.of_rfl).sound
  | copy => exact copyComplete_sound _ _ _
  | mapWrite => exact mapWriteComplete_sound _ _

theorem settle_sound (fuel : Nat) (results : List (MediumOutcome × Bool)) (s : State) :
    StoreSound s (settle fuel results s).1 := by
  induction fuel generalizing results s with
  | zero => exact .refl s
  | succ fuel ih =>
    unfold settle
    split
    · exact .refl s
    · exact (runOp_sound _ _ s).trans (ih _ _)

theorem clearSeat_sound (x : State × List (MediumOutcome × Bool)) : StoreSound x.1 (clearSeat x).1 := by
  have key : ∀ t, StoreSound x.1 t → StoreSound x.1
      (if (settle (settleFuel x.2) x.2 t).1.sc.seat = .normal then settle (settleFuel x.2) x.2 t
        else (withSc (fun sc => { sc with rebuildTrailer := none }) (settle (settleFuel x.2) x.2 t).1,
          (settle (settleFuel x.2) x.2 t).2)).1 := by
    intro t h
    have h := h.trans (settle_sound (settleFuel x.2) x.2 t)
    split
    · exact h
    · exact h.trans (StoreTidy.of_rfl).sound
  refine key _ ?_
  split
  · exact (examine_tidy _).sound
  · exact .refl _

theorem eraseAheadNow_sound (x : State × List (MediumOutcome × Bool)) : StoreSound x.1 (eraseAheadNow x).1 :=
  (examine_tidy _).sound.trans (settle_sound _ _ _)

theorem eraseAheadStep_sound (x : State × List (MediumOutcome × Bool)) : StoreSound x.1 (eraseAheadStep x).1 := by
  unfold eraseAheadStep
  split
  · exact ((withSc_tidy seatAside x.1).sound.trans (eraseAheadNow_sound (withSc seatAside x.1, x.2))).trans
      (withSc_tidy _ _).sound
  · exact eraseAheadNow_sound x

theorem endSteps_sound (results : List (MediumOutcome × Bool)) (s : State) : StoreSound s (endSteps results s) :=
  ((clearSeat_sound (s, results)).trans (clearSeat_sound _)).trans (eraseAheadStep_sound _)

/-- The candidates that remain have no number twice (R158). -/
theorem keepNewest_numbers {kept : List Candidate} (h : (kept.map (·.number)).Nodup) (cs : List Candidate) :
    ((keepNewest kept cs).map (·.number)).Nodup := by
  induction cs generalizing kept with
  | nil => exact h
  | cons c cs ih =>
    refine ih ?_
    split
    · exact h
    · next hn =>
      rw [List.map_append]
      refine nodup_append_singleton h fun hd => ?_
      obtain ⟨d, hd, e⟩ := List.mem_map.mp hd
      exact hn (List.any_eq_true.mpr ⟨d, hd, by simp [conflicting, e]⟩)

theorem entryFound_number (c : Candidate) : (entryFound c).number = c.number := by
  unfold entryFound
  split <;> rfl

theorem surplusEntry_mem {dir : List DirEntry} {e : DirEntry} (h : surplusEntry dir = some e) : e ∈ dir := by
  unfold surplusEntry at h
  split at h
  · next v hv =>
    cases h
    obtain ⟨pre, post, hd, -⟩ := victim_spec hv
    simp [hd]
  · exact List.mem_of_mem_head? h

/-- The directory is brought down to 32 records, none of them changed (R158). -/
theorem trimDirectory_spec (fuel : Nat) (dir : List DirEntry) :
    (trimDirectory fuel dir).Sublist dir ∧ (dir.length ≤ 32 + fuel → (trimDirectory fuel dir).length ≤ 32) := by
  induction fuel generalizing dir with
  | zero => exact ⟨.refl _, id⟩
  | succ fuel ih =>
    unfold trimDirectory
    split
    · next h => exact ⟨.refl _, fun _ => h⟩
    · next h =>
      split
      · next e he =>
        obtain ⟨hs, hl⟩ := ih (dir.erase e)
        have hlen := List.length_erase_of_mem (surplusEntry_mem he)
        exact ⟨hs.trans List.erase_sublist, fun hd => hl (by omega)⟩
      · next he =>
        refine ⟨.refl _, fun _ => ?_⟩
        unfold surplusEntry at he
        split at he
        · exact absurd he nofun
        · rw [List.head?_eq_none_iff] at he
          simp [he]

/-- The rebuild's directory is within its bounds, whatever stood before (R158). -/
theorem placeWriter_directoryOk (scan : List (Nat × Found)) {kept : List Candidate}
    (h : (kept.map (·.number)).Nodup) (sc : StoreController) : directoryOk (placeWriter scan kept sc) := by
  unfold placeWriter
  split
  · exact ⟨Nat.zero_le _, List.nodup_nil⟩
  · next newest rest =>
    obtain ⟨hs, hl⟩ := trimDirectory_spec (newest :: rest).length ((newest :: rest).reverse.map entryFound)
    refine ⟨hl (by simp), List.Nodup.sublist (hs.map _) ?_⟩
    simp only [List.map_map, Function.comp_def, entryFound_number, List.map_reverse,
      (List.reverse_perm _).nodup_iff]
    exact h

theorem rebuild_sound (reads : List (Nat × MediumOutcome)) (results : List (MediumOutcome × Bool)) (s : State) :
    (s.medium.wf = true → (rebuild reads results s).medium.wf = true) ∧ directoryOk (rebuild reads results s).sc := by
  unfold rebuild
  dsimp only
  generalize (weakSections reads (scanStore reads s)).foldl
    (fun sc a => queueBlock (physicalBlock sc.map (blockOf a)) sc) s.sc = sc
  refine ⟨fun w => (endSteps_sound _ _).wf ?_, (endSteps_sound _ _).ok ?_⟩
  · rw [withSc_medium]
    exact w
  have hnumbers := keepNewest_numbers (kept := []) List.nodup_nil (newestFirst (candidates (scanStore reads s)))
  rw [withSc_sc]
  exact placeWriter_directoryOk _ hnumbers _

end Sys2Proof.Machine
end

section
/-! PROOFS. The commands that move the store, its directory or its map, said once, and what follows for the store's form,
the block map and the directory. -/

namespace Sys2Proof.Machine

/-- `t` has the medium, the directory's bounds and protected HELD records, and a map that keeps R139, as `s` has them. -/
structure StoreQuiet (s t : State) : Prop where
  tidy : StoreTidy s t
  map : MapKept s.sc s.medium → MapKept t.sc t.medium

theorem StoreQuiet.of_eq {s t : State} (hs : t.sc = s.sc) (hm : t.medium = s.medium) : StoreQuiet s t :=
  ⟨.of_eq hm (by rw [hs]), fun k => by rw [hs, hm]; exact k⟩

theorem StoreQuiet.of_rfl {s t : State} (hs : t.sc = s.sc := by rfl) (hm : t.medium = s.medium := by rfl) :
    StoreQuiet s t := .of_eq hs hm

theorem StoreQuiet.trans {s t u : State} (h : StoreQuiet s t) (k : StoreQuiet t u) : StoreQuiet s u :=
  ⟨h.tidy.trans k.tidy, fun m => k.map (h.map m)⟩

/-- What follows an update beside SC and the medium. -/
theorem StoreQuiet.after {s t u : State} (k : StoreQuiet t u) (h : StoreQuiet s t := by exact .of_rfl) :
    StoreQuiet s u := h.trans k

theorem MapSame.quiet {s t : State} (h : MapSame s t) (k : StoreTidy s t) : StoreQuiet s t := ⟨k, fun m => m.same h⟩

theorem startTx_quiet (s : State) : StoreQuiet s (startTx s) := .of_eq (by simp) (by simp)

theorem placeReply_quiet (r : Reply) (s : State) : StoreQuiet s (placeReply r s) := (startTx_quiet _).after

theorem finishCommand_quiet (r : Reply) (s : State) : StoreQuiet s (finishCommand r s) :=
  (placeReply_quiet r s).trans .of_rfl

theorem refuseCommand_quiet (c : Command) (st : Status) (s : State) : StoreQuiet s (refuseCommand c st s) :=
  finishCommand_quiet _ s

theorem answerOk_quiet (c : Command) (s : State) : StoreQuiet s (answerOk c s) := finishCommand_quiet _ s

theorem answerWith_quiet (c : Command) (body : List Byte) (s : State) : StoreQuiet s (answerWith c body s) :=
  finishCommand_quiet _ s

theorem placeArrivalReply_quiet (r : Reply) (s : State) : StoreQuiet s (placeArrivalReply r s) :=
  (placeArrivalReply_same r s).quiet (placeArrivalReply_tidy r s)

theorem placeReport_quiet (r : ReportEntry) (s : State) : StoreQuiet s (placeReport r s) :=
  (placeReport_same r s).quiet (placeReport_tidy r s)

theorem turnReader_quiet (r : ReadOut) (s : State) : StoreQuiet s (turnReader r s) :=
  (turnReader_same r s).quiet (turnReader_tidy r s)

theorem frameSent_tidy (s : State) : StoreTidy s (frameSent s) := by
  unfold frameSent
  split
  · exact .refl s
  · refine .trans ?_ (startTx_tidy _)
    split
    · exact .of_rfl
    · exact (readReplySent_tidy _).after
    · exact .of_rfl

theorem restartRecord_tidy (s : State) : StoreTidy s (restartRecord s) := by
  unfold restartRecord
  split
  · exact .refl s
  · dsimp only
    split
    · exact truncateOpen_tidy _ _ s
    · exact (truncateOpen_tidy _ _ s).trans (closeWithoutTrailer_tidy _)

theorem restartStore_directory (sc : StoreController) : (restartStore sc).directory = sc.directory := by
  unfold restartStore
  exact abandonRelocation_directory _

theorem acceptRestart_quiet (tag : Byte) (s : State) : StoreQuiet s (acceptRestart tag s) := by
  refine ⟨?_, fun k => acceptRestart_kept k tag⟩
  refine .trans ?_ (startTx_tidy _)
  exact (restartRecord_tidy _).after rfl (restartStore_directory _)

theorem takeRestart_quiet (tag : Byte) (body : List Byte) (s : State) : StoreQuiet s (takeRestart tag body s) := by
  unfold takeRestart
  split
  · exact acceptRestart_quiet tag s
  · exact placeArrivalReply_quiet _ s

theorem execStoreGrant_quiet {s t : State} (h : execStoreGrant s = .next t) : StoreQuiet s t := by
  refine ⟨?_, fun k => execStoreGrant_kept k h⟩
  unfold execStoreGrant at h
  split at h
  · cases h
    exact .refl _
  · split at h
    · cases h
      exact .refl _
    · split at h
      · cases h
        exact .refl _
      · split at h
        · exact absurd h nofun
        · cases h
          exact .of_rfl

theorem queueCommand_quiet (kind tag : Byte) (body : List Byte) (s : State) :
    StoreQuiet s (queueCommand kind tag body s) := by
  unfold queueCommand
  split
  · exact placeArrivalReply_quiet _ s
  · split
    · exact .of_rfl
    · exact (placeArrivalReply_quiet _ _).after

theorem clearOverrun_quiet (tag : Byte) (body : List Byte) (s : State) : StoreQuiet s (clearOverrun tag body s) := by
  unfold clearOverrun
  split
  · exact (placeArrivalReply_quiet _ _).after
  · exact placeArrivalReply_quiet _ s

theorem takeDemand_quiet (tag : Byte) (body : List Byte) (s : State) : StoreQuiet s (takeDemand tag body s) := by
  unfold takeDemand
  split
  · exact (placeReport_quiet _ _).after
  · exact placeReport_quiet _ s

theorem saveComplete_quiet (ok : Bool) (s : State) : StoreQuiet s (saveComplete ok s) := by
  unfold saveComplete
  split
  · dsimp only
    split
    · exact .of_rfl
    · split
      · exact .of_rfl
      · exact (finishCommand_quiet _ _).after
  · exact .of_rfl

theorem parameterLoad_quiet (s : State) : StoreQuiet s (parameterLoad s) :=
  .of_eq (by rw [parameterLoad_eq]) (by rw [parameterLoad_eq])

/-! ## The commands -/

theorem clearNotices_quiet (q : Command) (s : State) : StoreQuiet s (clearNotices q s) := by
  unfold clearNotices
  dsimp only
  split
  · exact refuseCommand_quiet _ _ s
  · exact (answerOk_quiet _ _).after

theorem setNoticeEnable_quiet (q : Command) (s : State) : StoreQuiet s (setNoticeEnable q s) := by
  unfold setNoticeEnable
  dsimp only
  split
  · exact refuseCommand_quiet _ _ s
  · exact (answerOk_quiet _ _).after

theorem readParameter_quiet (q : Command) (s : State) : StoreQuiet s (readParameter q s) := by
  unfold readParameter
  dsimp only
  split
  · exact refuseCommand_quiet _ _ s
  · exact answerWith_quiet _ _ s

theorem writeParameter_quiet (q : Command) (s : State) : StoreQuiet s (writeParameter q s) := by
  unfold writeParameter
  dsimp only
  split
  · exact refuseCommand_quiet _ _ s
  · split
    · exact refuseCommand_quiet _ _ s
    · split
      · exact (answerOk_quiet _ _).after
      · exact refuseCommand_quiet _ _ s

theorem saveParameters_quiet (q : Command) (s : State) : StoreQuiet s (saveParameters q s) := by
  unfold saveParameters
  split
  · exact refuseCommand_quiet _ _ s
  · exact .of_rfl

theorem enterSetupCommand_quiet (q : Command) (s : State) : StoreQuiet s (enterSetupCommand q s) := by
  obtain e | ⟨-, e⟩ := enterSetupCommand_cases q s <;> rw [e]
  · exact refuseCommand_quiet _ _ s
  · exact (answerOk_quiet _ _).after

theorem enterRunCommand_quiet (q : Command) (s : State) : StoreQuiet s (enterRunCommand q s) := by
  obtain e | e | ⟨-, e⟩ := enterRunCommand_cases q s <;> rw [e]
  · exact refuseCommand_quiet _ _ s
  · exact answerOk_quiet _ s
  · exact (answerOk_quiet _ _).after

theorem setTrigger_quiet (q : Command) (s : State) : StoreQuiet s (setTrigger q s) := by
  unfold setTrigger
  dsimp only
  split
  · exact (answerOk_quiet _ _).after
  · exact refuseCommand_quiet _ _ s

theorem readTrigger_quiet (q : Command) (s : State) : StoreQuiet s (readTrigger q s) := by
  unfold readTrigger
  dsimp only
  split
  · exact refuseCommand_quiet _ _ s
  · exact answerWith_quiet _ _ s

theorem setReadBurst_quiet (q : Command) (s : State) : StoreQuiet s (setReadBurst q s) := by
  have h (v : Nat) : StoreQuiet s (withSc (fun sc => { sc with burst := v }) s) :=
    (withSc_same _ s rfl rfl rfl rfl (.inr ⟨rfl, rfl⟩)).quiet .of_rfl
  unfold setReadBurst
  dsimp only
  split
  · exact (h _).trans (answerOk_quiet _ _)
  · exact (h _).trans (refuseCommand_quiet _ _ _)

theorem readAxleTable_quiet (q : Command) (s : State) : StoreQuiet s (readAxleTable q s) := by
  unfold readAxleTable
  split
  · exact (answerWith_quiet _ _ _).after
  · exact answerWith_quiet _ _ s

theorem storeCommand_quiet {rule : Command → State → State} (h : ∀ c s, StoreQuiet s (rule c s))
    (c : Command) (s : State) : StoreQuiet s (storeCommand rule c s) := by
  unfold storeCommand
  split
  · exact refuseCommand_quiet _ _ s
  · exact h c s

theorem readIncident_quiet (c : Command) (s : State) : StoreQuiet s (readIncident c s) := by
  unfold readIncident
  split
  · exact refuseCommand_quiet _ _ s
  · split
    · exact refuseCommand_quiet _ _ s
    · exact turnReader_quiet _ s

theorem verifyIncident_quiet (c : Command) (s : State) : StoreQuiet s (verifyIncident c s) := by
  unfold verifyIncident
  split
  · exact refuseCommand_quiet _ _ s
  · split
    · exact refuseCommand_quiet _ _ s
    · exact turnReader_quiet _ s

/-- The commands that operate on the store, or make or release its records, with what they make of the part. -/
inductive StoreMoved (s : State) : Instr → State → Prop
  | powerOn : StoreMoved s .powerOn (powerUp (if s.powered then powerLoss s else s))
  | reset : StoreMoved s .resetProceeds (powerUp s)
  | rebuild (reads results) : s.sc.port = none →
      StoreMoved s (.rebuildEnd reads results) (rebuildEnded (rebuild reads results s))
  | programComplete (ok) : StoreMoved s (.programComplete ok) (programComplete ok s)
  | markComplete (ok) : StoreMoved s (.markProgramComplete ok) (markComplete ok s)
  | eraseComplete (ok) : StoreMoved s (.eraseComplete ok) (eraseComplete ok s)
  | copyComplete (o ok) : StoreMoved s (.copyComplete o ok) (copyComplete o ok s)
  | mapWriteComplete (ok) : StoreMoved s (.mapWriteComplete ok) (mapWriteComplete ok s)
  | release {q rest} : s.li.queue = q :: rest → StoreMoved s .releaseIncident (releaseIncident q s)
  | powerLoss : StoreMoved s .powerLoss (powerLoss s)

theorem rule_quiet {c : Instr} {rule : Command → State → State} {q : Command} {rest : List Command} {s : State}
    (h : ruleOf c = some rule) (hq : s.li.queue = q :: rest) : StoreQuiet s (rule q s) ∨ StoreMoved s c (rule q s) := by
  cases c with
  | readStatus => cases h; exact .inl (answerWith_quiet _ _ s)
  | readNotices => cases h; exact .inl (answerWith_quiet _ _ s)
  | clearNotices => cases h; exact .inl (clearNotices_quiet q s)
  | setNoticeEnable => cases h; exact .inl (setNoticeEnable_quiet q s)
  | readParameter => cases h; exact .inl (readParameter_quiet q s)
  | writeParameter => cases h; exact .inl (writeParameter_quiet q s)
  | saveParameters => cases h; exact .inl (saveParameters_quiet q s)
  | enterSetup => cases h; exact .inl (enterSetupCommand_quiet q s)
  | enterRun => cases h; exact .inl (enterRunCommand_quiet q s)
  | setTrigger => cases h; exact .inl (setTrigger_quiet q s)
  | readTrigger => cases h; exact .inl (readTrigger_quiet q s)
  | markIncident => cases h; exact .inl ((answerOk_quiet _ _).after)
  | listIncidents => cases h; exact .inl (storeCommand_quiet (fun c s => answerWith_quiet _ _ s) q s)
  | readIncident => cases h; exact .inl (storeCommand_quiet readIncident_quiet q s)
  | verifyIncident => cases h; exact .inl (storeCommand_quiet verifyIncident_quiet q s)
  | releaseIncident =>
    cases h
    unfold storeCommand
    split
    · exact .inl (refuseCommand_quiet _ _ s)
    · exact .inr (.release hq)
  | setReadBurst => cases h; exact .inl (setReadBurst_quiet q s)
  | readAxleTable => cases h; exact .inl (readAxleTable_quiet q s)
  | _ => exact absurd h nofun

/-- Every command leaves the store, its directory and its map in order, or moves them as `StoreMoved` says. -/
theorem store_cases {c : Instr} {s t : State} (h : exec c s = .next t) : StoreQuiet s t ∨ StoreMoved s c t := by
  cases exec_effect h with
  | idle => exact .inl .of_rfl
  | powerOn => exact .inr .powerOn
  | reset => exact .inr .reset
  | parameterLoad =>
    refine .inl ?_
    split
    · exact (parameterLoad_quiet s).trans .of_rfl
    · exact parameterLoad_quiet s
  | rebuild reads results hr =>
    refine .inr (.rebuild reads results ?_)
    simp only [rebuilding, Bool.and_eq_true, Option.isNone_iff_eq_none] at hr
    exact hr.2
  | edge => exact .inl .of_rfl
  | window a b => exact .inl (.of_eq (windowClose_sc a b s) (windowClose_medium a b s))
  | recoverCaps => exact .inl .of_rfl
  | sample r => exact .inl (by unfold bpmSample; split <;> exact .of_eq (by simp) (by simp))
  | blend => exact .inl (by unfold blendRun; split <;> exact .of_eq (by simp) (by simp))
  | thermal => exact .inl (by unfold thermalUpdate; split <;> exact .of_eq (by simp) (by simp))
  | capture => exact .inl ((capture_same s).quiet (capture_tidy s))
  | grant hg => exact .inl (execStoreGrant_quiet hg)
  | programComplete ok => exact .inr (.programComplete ok)
  | markComplete ok => exact .inr (.markComplete ok)
  | eraseComplete ok => exact .inr (.eraseComplete ok)
  | copyComplete o ok => exact .inr (.copyComplete o ok)
  | mapWriteComplete ok => exact .inr (.mapWriteComplete ok)
  | readComplete o => exact .inl ⟨readComplete_tidy o s, fun k => readComplete_kept k o⟩
  | relocationStart => exact .inl ⟨relocationStart_tidy s, relocationStart_kept⟩
  | demand bytes tag body r => exact .inl ((takeDemand_quiet _ _ _).after)
  | arrival => exact .inl ((queueCommand_quiet _ _ _ _).after)
  | discard => exact .inl .of_rfl
  | gap => exact .inl .of_rfl
  | frameSent => exact .inl ((frameSent_same s).quiet (frameSent_tidy s))
  | clearOverrun => exact .inl ((clearOverrun_quiet _ _ _).after)
  | restart bytes tag body r => exact .inl ((takeRestart_quiet _ _ _).after)
  | command hr hq => exact rule_quiet hr hq
  | refused => exact .inl (refuseCommand_quiet _ _ s)
  | saveComplete ok => exact .inl (saveComplete_quiet ok s)
  | powerLoss => exact .inr .powerLoss

/-! ## The store's form and the map -/

theorem cutShort_wf (map : BlockMap) (retry : Option MapSide) (free : Nat) (op : StoreOp) {m : Medium}
    (h : m.wf = true) : (cutShort map retry free op m).wf = true := by
  unfold cutShort
  split
  · exact spoilBlock_wf _ h
  · exact spoilSection_wf _ h
  · exact markStore_wf _ _ h
  · exact h
  · split
    · exact h
    · exact spoilSection_wf _ h
  · exact writeMapCopy_wf _ _ _ h

theorem powerLoss_sound (s : State) : StoreSound s (powerLoss s) := by
  unfold powerLoss
  dsimp only
  split
  · exact (StoreTidy.of_rfl).sound
  · exact ⟨cutShort_wf _ _ _ _, id⟩

theorem powerUp_sound (s : State) : StoreSound s (powerUp s) := ⟨id, fun _ => ⟨Nat.zero_le 32, List.nodup_nil⟩⟩

/-- A release leaves the medium, and moves of the directory the state of its record alone. -/
theorem releaseRecord_sound (e : DirEntry) (s : State) : StoreSound s (withSc (releaseRecord e) s) := by
  refine ⟨id, fun ⟨hl, hu⟩ => ⟨?_, ?_⟩⟩
  · exact Nat.le_trans (Nat.le_of_eq (List.length_map _)) hl
  · have hn : (releaseRecord e s.sc).directory.map (·.number) = s.sc.directory.map (·.number) := by
      simp only [releaseRecord, List.map_map]
      refine List.map_congr_left fun d _ => ?_
      dsimp only [Function.comp]
      split <;> rfl
    exact hn ▸ hu

theorem releaseIncident_sound (q : Command) (s : State) : StoreSound s (releaseIncident q s) := by
  unfold releaseIncident
  split
  · exact (refuseCommand_tidy _ _ s).sound
  · split
    · exact (refuseCommand_tidy _ _ s).sound
    · exact ((releaseRecord_sound _ s).trans (answerOk_tidy _ _).sound).trans (reexamine_tidy _).sound
    · exact ((answerOk_tidy _ _).trans (reexamine_tidy _)).sound

theorem rebuildEnded_sound (s : State) : StoreSound s (rebuildEnded s) := by
  rw [rebuildEnded_eq]
  split <;> exact (StoreTidy.of_rfl).sound

theorem StoreMoved.sound {c : Instr} {s t : State} (h : StoreMoved s c t) : StoreSound s t := by
  cases h with
  | powerOn =>
    refine .trans ?_ (powerUp_sound _)
    split
    · exact powerLoss_sound s
    · exact .refl s
  | reset => exact powerUp_sound s
  | rebuild reads results =>
    have h := rebuild_sound reads results s
    exact .trans ⟨h.1, fun _ => h.2⟩ (rebuildEnded_sound _)
  | programComplete ok => exact programComplete_sound ok s
  | markComplete ok => exact markComplete_sound ok s
  | eraseComplete ok => exact eraseComplete_sound ok s
  | copyComplete o ok => exact copyComplete_sound o ok s
  | mapWriteComplete ok => exact mapWriteComplete_sound ok s
  | release => exact releaseIncident_sound _ s
  | powerLoss => exact powerLoss_sound s

theorem StoreMoved.mapKept {c : Instr} {s t : State} (h : StoreMoved s c t) (k : MapKept s.sc s.medium) :
    MapKept t.sc t.medium := by
  cases h with
  | powerOn =>
    have hu (u : State) (ku : MapKept u.sc u.medium) : MapKept (powerUp u).sc (powerUp u).medium :=
      powerUp_kept ku.first ku.second
    refine hu _ ?_
    split
    · exact powerLoss_kept k
    · exact k
  | reset => exact powerUp_kept k.first k.second
  | rebuild reads results hp =>
    have h := rebuild_kept k hp reads results
    generalize Machine.rebuild reads results s = u at h ⊢
    rw [rebuildEnded_eq]
    split <;> exact h
  | programComplete ok => exact programComplete_kept k ok
  | markComplete ok => exact markComplete_kept k ok
  | eraseComplete ok => exact eraseComplete_kept k ok
  | copyComplete o ok => exact copyComplete_kept k o ok
  | mapWriteComplete ok => exact mapWriteComplete_kept k ok
  | release => exact releaseIncident_kept _ k
  | powerLoss => exact powerLoss_kept k

theorem exec_sound {c : Instr} {s t : State} (h : exec c s = .next t) : StoreSound s t := by
  obtain hq | hm := store_cases h
  · exact hq.tidy.sound
  · exact hm.sound

theorem exec_mapKept {c : Instr} {s t : State} (h : exec c s = .next t) (k : MapKept s.sc s.medium) :
    MapKept t.sc t.medium := by
  obtain hq | hm := store_cases h
  · exact hq.map k
  · exact hm.mapKept k

/-- What the rule of a map says of its logical blocks (R139). -/
theorem mapRule_blocks {m : BlockMap} (h : mapRule m) :
    (∀ l, l < 128 → physicalBlock m l < 136 ∧ m.states[physicalBlock m l]? = some .mapped) ∧
    (∀ l k, l < 128 → k < 128 → physicalBlock m l = physicalBlock m k → l = k) ∧
    ∀ b, m.states[b]? = some .retired → ∀ l, physicalBlock m l ≠ b := by
  obtain ⟨hp, hs, hu, hmapped⟩ := h
  have hget {l : Nat} (hl : l < 128) : physicalBlock m l = m.phys[l]'(hp ▸ hl) := by
    rw [physicalBlock, List.getD_eq_getElem?_getD, List.getElem?_eq_getElem (hp ▸ hl)]
    rfl
  have hin {l : Nat} (hl : l < 128) : m.states[physicalBlock m l]? = some .mapped :=
    hmapped _ (hget hl ▸ List.getElem_mem _)
  have hlt {b : Nat} {st : BlockState} (hb : m.states[b]? = some st) : b < 136 :=
    hs ▸ (List.getElem?_eq_some_iff.mp hb).1
  refine ⟨fun l hl => ⟨hlt (hin hl), hin hl⟩, fun l k hl hk e => ?_, fun b hb l e => ?_⟩
  · rw [hget hl, hget hk] at e
    exact nodup_index hu _ _ e
  · have hmem := physicalBlock_mem (m := m) (l := l) (by rw [e]; exact hlt hb)
    exact absurd ((hmapped _ (e ▸ hmem)).symm.trans hb) nofun

/-- Settles O44: the operations on the store write cells in their canonical form, and the map's rule goes through every
command. -/
theorem storeFormKept : Obligations.StoreFormKept := by
  refine ⟨fun s t h hstep => ?form, fun s t h hstep => ?map, fun sc m h => ⟨?inStore, fun map hmap => ?rule⟩⟩
  case form =>
    obtain rfl | ⟨c, rest, -, he⟩ := step_next hstep
    · obtain ⟨timer, e⟩ := tick_eq s
      exact e ▸ h
    · exact (exec_sound (s := { s with pending := rest }) he).wf h
  case map =>
    obtain rfl | ⟨c, rest, -, he⟩ := step_next hstep
    · obtain ⟨timer, e⟩ := tick_eq s
      exact e ▸ h
    · exact exec_mapKept (s := { s with pending := rest }) he h
  case inStore =>
    refine List.all_eq_true.mpr fun l hl => ?_
    exact decide_eq_true ((mapRule_blocks h.rule).1 l (List.mem_range.mp hl)).1
  case rule =>
    obtain rfl | ⟨hv, rfl⟩ | ⟨hv, rfl⟩ := hmap
    · exact mapRule_blocks h.rule
    · exact mapRule_blocks (h.first hv)
    · exact mapRule_blocks (h.second hv)

end Sys2Proof.Machine
end

section
/-! PROOFS. The protected HELD records (R125, R143, R147): no command drops or alters one, but for its release, a reset,
the rebuild, and the TRAILER that the rebuild owes it. -/

namespace Sys2Proof.Machine

/-- A completion of the store keeps each protected HELD record. -/
theorem Completed.held {s t : State} {m : Medium} {n : Nat} (h : Completed s t m n) (hok : directoryOk s.sc) :
    HeldKept s t := h.tidy.held hok

theorem programComplete_idle {ok : Bool} {s : State}
    (h : ∀ job a phys bytes d, s.sc.port ≠ some ⟨.writer, .program job a phys bytes, d⟩) :
    programComplete ok s = s := by
  unfold programComplete
  split
  · next hp => exact absurd hp (h _ _ _ _ _)
  · rfl

/-- The section done, an owed TRAILER completes its record's entry, and leaves the other protected HELD ones (R159). -/
theorem programDone_owed_held {s : State} (a : Nat) {e : DirEntry} (hok : directoryOk s.sc)
    (he : e ∈ s.sc.directory) (hs : e.state = .held) (hprot : e.protect = true) :
    e ∈ (programDone .rebuildTrailer a s).sc.directory ∨ ∃ i, s.sc.rebuildTrailer = some i ∧ i.number = e.number ∧
      { e with sectionCount := offsetOf e.first a + 1, trailer := some a } ∈
        (programDone .rebuildTrailer a s).sc.directory := by
  have hv := sectionDone_sound .rebuildTrailer a (withSc (fun sc => { sc with recovery := none }) s)
  obtain ⟨-, hnone, hsome⟩ := sectionDone_owed a (withSc (fun sc => { sc with recovery := none }) s)
  have hlast := (advancePosition_tidy (sectionDone .rebuildTrailer a
    (withSc (fun sc => { sc with recovery := none }) s))).held (hv.ok hok)
  cases hi : s.sc.rebuildTrailer with
  | none =>
    refine .inl (hlast e ?_ hs hprot)
    rw [hnone hi]
    exact he
  | some i =>
    have hmem := List.mem_map_of_mem (f := withOwedTrailer i a) he
    rw [← show _ = s.sc.directory.map (withOwedTrailer i a) from hsome i hi] at hmem
    by_cases hn : e.number = i.number
    · have hw : withOwedTrailer i a e = { e with sectionCount := offsetOf e.first a + 1, trailer := some a } :=
        if_pos (beq_iff_eq.mpr hn)
      rw [hw] at hmem
      exact .inr ⟨i, rfl, hn.symm, hlast _ hmem hs hprot⟩
    · have hw : withOwedTrailer i a e = e := if_neg (by simpa using hn)
      rw [hw] at hmem
      exact .inl (hlast e hmem hs hprot)

theorem programComplete_owed_held {s : State} {a phys : Nat} {bytes : List Byte} {d : Bool} {e : DirEntry}
    (hok : directoryOk s.sc) (hp : s.sc.port = some ⟨.writer, .program .rebuildTrailer a phys bytes, d⟩)
    (he : e ∈ s.sc.directory) (hs : e.state = .held) (hprot : e.protect = true) :
    e ∈ (programComplete true s).sc.directory ∨ ∃ i, s.sc.rebuildTrailer = some i ∧ i.number = e.number ∧
      { e with sectionCount := offsetOf e.first a + 1, trailer := some a } ∈ (programComplete true s).sc.directory := by
  unfold programComplete
  rw [hp]
  exact programDone_owed_held (s := freePort { s with medium := programSection s.medium phys bytes }) a hok he hs hprot

/-- A release of another record leaves a protected HELD one. -/
theorem releaseIncident_held {q : Command} {s : State} (hok : directoryOk s.sc) {e : DirEntry}
    (he : e ∈ s.sc.directory) (hs : e.state = .held) (hprot : e.protect = true)
    (hn : fieldAt q.body 0 2 ≠ e.number) : e ∈ (releaseIncident q s).sc.directory := by
  unfold releaseIncident
  split
  · exact (refuseCommand_tidy _ _ s).held hok e he hs hprot
  · next x hx =>
    split
    · exact (refuseCommand_tidy _ _ s).held hok e he hs hprot
    · have hx' : x.number = fieldAt q.body 0 2 := by simpa using List.find?_some hx
      have hk : e ∈ (withSc (releaseRecord x) s).sc.directory :=
        List.mem_map.mpr ⟨e, he, if_neg (by rw [hx', beq_iff_eq]; exact fun h => hn h.symm)⟩
      exact ((answerOk_tidy _ _).trans (reexamine_tidy _)).held ((releaseRecord_sound x s).ok hok) e hk hs hprot
    · exact ((answerOk_tidy _ _).trans (reexamine_tidy _)).held hok e he hs hprot

theorem powerLoss_sc (s : State) : (powerLoss s).sc = s.sc := by
  unfold powerLoss
  dsimp only
  split <;> rfl

/-- Settles O34: between two operations of the store the directory is tidy, and of the operations the program of an owed
TRAILER alone moves a protected HELD record. -/
theorem directoryKept : Obligations.DirectoryKept := by
  refine ⟨fun s t h hstep => ?bounds, fun c s t e hok hexec he hs hprot hpow hreset hreb hrel => ?held⟩
  case bounds =>
    obtain rfl | ⟨c, rest, -, hexec⟩ := step_next hstep
    · obtain ⟨timer, e⟩ := tick_eq s
      exact e ▸ h
    · exact (exec_sound (s := { s with pending := rest }) hexec).ok h
  case held =>
    obtain hq | hm := store_cases hexec
    · exact .inl (hq.tidy.held hok e he hs hprot)
    · cases hm with
      | powerOn => exact absurd rfl hpow
      | reset => exact absurd rfl hreset
      | rebuild reads results => exact absurd rfl (hreb reads results)
      | programComplete ok =>
        by_cases hport : ∃ job a phys bytes d, s.sc.port = some ⟨.writer, .program job a phys bytes, d⟩
        · obtain ⟨job, a, phys, bytes, d, hp⟩ := hport
          cases ok with
          | false => exact .inl ((programComplete_failed_completed hp).held hok e he hs hprot)
          | true =>
            by_cases hj : job = .rebuildTrailer
            · subst hj
              refine (programComplete_owed_held hok hp he hs hprot).imp_right fun ⟨i, hi, hn, hmem⟩ => ?_
              exact ⟨a, phys, bytes, d, i, rfl, hp, hi, hn, hmem⟩
            · exact .inl ((programComplete_completed hp hj).held hok e he hs hprot)
        · rw [programComplete_idle fun job a phys bytes d hp => hport ⟨job, a, phys, bytes, d, hp⟩]
          exact .inl he
      | markComplete ok =>
        refine .inl ?_
        unfold markComplete
        split <;> exact he
      | eraseComplete ok =>
        obtain h | ⟨m, h⟩ := eraseComplete_completed ok s
        · rw [h]
          exact .inl he
        · exact .inl (h.held hok e he hs hprot)
      | copyComplete o ok =>
        obtain h | ⟨m, h⟩ := copyComplete_completed o ok s
        · rw [h]
          exact .inl he
        · exact .inl (h.held hok e he hs hprot)
      | mapWriteComplete ok =>
        obtain h | ⟨m, n, h⟩ := mapWriteComplete_completed ok s
        · rw [h]
          exact .inl he
        · exact .inl (h.held hok e he hs hprot)
      | release hq => exact .inl (releaseIncident_held hok he hs hprot (hrel rfl _ _ hq))
      | powerLoss =>
        rw [powerLoss_sc]
        exact .inl he

end Sys2Proof.Machine
end

section
/-! PROOFS. The bounds of the command queue, the report list and the reply list (R181, R186) through every command. -/

namespace Sys2Proof.Machine

/-! ## The queue and the report list -/

/-- The queue and the report list of `t` are no longer than those of `s`, or have taken an entry for which there was
room. -/
def ListsFit (s t : State) : Prop :=
  (s.li.queue.length ≤ 4 → t.li.queue.length ≤ 4) ∧ (s.li.reports.length ≤ 8 → t.li.reports.length ≤ 8)

theorem linkBounded_iff (l : LinkInterface) : linkBounded l = true ↔ l.queue.length ≤ 4 ∧ l.reports.length ≤ 8 := by
  simp [linkBounded]

theorem ListsFit.refl (s : State) : ListsFit s s := ⟨id, id⟩

theorem ListsFit.trans {s t u : State} (h : ListsFit s t) (k : ListsFit t u) : ListsFit s u :=
  ⟨fun q => k.1 (h.1 q), fun r => k.2 (h.2 r)⟩

theorem ListsFit.of_li {s t : State} (h : t.li = s.li) : ListsFit s t := by
  unfold ListsFit
  rw [h]
  exact ⟨id, id⟩

/-- What follows an update that leaves both lists. -/
theorem ListsFit.after {s t u : State} (k : ListsFit t u) (h : ListsFit s t := by exact ⟨id, id⟩) : ListsFit s u :=
  h.trans k

theorem AnswerFrame.listsFit {s t : State} (h : AnswerFrame s t) : ListsFit s t :=
  ⟨Nat.le_trans h.queue, Nat.le_trans h.reports⟩

theorem StoreFrame.listsFit {s t : State} (h : StoreFrame s t) : ListsFit s t := .of_li h.li

theorem placeReport_listsFit (e : ReportEntry) (s : State) : ListsFit s (placeReport e s) := by
  unfold placeReport
  split
  · next hr =>
    refine ListsFit.trans (t := { s with li := { s.li with reports := s.li.reports ++ [e] } })
      ⟨id, fun _ => ?_⟩ (startTx_answer _).listsFit
    simp only [List.length_append, List.length_singleton]
    omega
  · exact .of_li rfl

theorem queueCommand_listsFit (kind tag : Byte) (body : List Byte) (s : State) :
    ListsFit s (queueCommand kind tag body s) := by
  unfold queueCommand
  split
  · exact (placeArrivalReply_answer _ s).listsFit
  · split
    · next hq =>
      refine ⟨fun _ => ?_, id⟩
      simp only [List.length_append, List.length_singleton]
      omega
    · exact (placeArrivalReply_answer _ _).listsFit.after

theorem clearOverrun_listsFit (tag : Byte) (body : List Byte) (s : State) : ListsFit s (clearOverrun tag body s) := by
  unfold clearOverrun
  split
  · exact (placeArrivalReply_answer _ _).listsFit.after
  · exact (placeArrivalReply_answer _ s).listsFit

theorem acceptRestart_listsFit (tag : Byte) (s : State) : ListsFit s (acceptRestart tag s) := by
  unfold acceptRestart
  refine ListsFit.trans ?_ (startTx_answer _).listsFit
  rw [restartRecord_frame]
  refine ⟨fun hq => ?_, id⟩
  simp only [restartLink]
  split
  · exact Nat.le_trans (List.length_take_le _ _) (by decide)
  · exact Nat.zero_le 4

theorem takeRestart_listsFit (tag : Byte) (body : List Byte) (s : State) : ListsFit s (takeRestart tag body s) := by
  unfold takeRestart
  split
  · exact acceptRestart_listsFit tag s
  · exact (placeArrivalReply_answer _ s).listsFit

theorem frameSent_listsFit (s : State) : ListsFit s (frameSent s) := by
  unfold frameSent
  split
  · exact .refl s
  · refine ListsFit.trans ?_ (startTx_answer _).listsFit
    split
    · exact ⟨id, id⟩
    · exact (readReplySent_answer _).listsFit.after
    · exact ⟨id, id⟩

theorem saveComplete_listsFit (ok : Bool) (s : State) : ListsFit s (saveComplete ok s) := by
  unfold saveComplete
  split
  · dsimp only
    split
    · exact .of_li rfl
    · split
      · exact (popCommand_answer _).listsFit.after
      · exact (finishCommand_answer _ _).listsFit.after
  · exact .refl s

theorem parameterLoad_li (s : State) : (parameterLoad s).li = s.li := by rw [parameterLoad_eq]

/-! ## The replies -/

/-- LI's receiver, its overrun latch and its report list have no part in the bound of the replies. -/
theorem RepliesKept.withLink {s : State} (h : RepliesKept s) (receiver : Receiver) (overrun : Bool)
    (queue : List Command) (reports : List ReportEntry) : RepliesKept { s with li := { s.li with
      receiver := receiver, overrun := overrun, queue := queue, reports := reports } } :=
  ⟨h.bound, h.saving, h.closing, h.idle, h.reading, h.waiting, h.port⟩

theorem withReceiver_replies (r : Receiver) {s : State} (h : RepliesKept s) : RepliesKept (withReceiver r s) :=
  h.withLink r s.li.overrun s.li.queue s.li.reports

/-- Commands that leave LI, SC's reader and the parameter memory's save alone. -/
theorem RepliesKept.of_eq {s t : State} (h : RepliesKept s) (hl : t.li = s.li) (hp : t.pm.saving = s.pm.saving)
    (hs : t.sc = s.sc) : RepliesKept t := h.same hl hp (readerSame_of (by rw [hs]) (by rw [hs]))

theorem cxMayTake_readOut {s : State} (h : cxMayTake s = true) : s.sc.readOut = none := by
  simp only [cxMayTake, cxFree, Bool.and_eq_true, Option.isNone_iff_eq_none] at h
  exact h.1.1.1.1

/-! ## Both, for each operation -/

/-- `t` has the lists within their bounds where `s` has them. -/
structure LinkKept (s t : State) : Prop where
  lists : ListsFit s t
  replies : RepliesKept s → RepliesKept t

theorem LinkKept.trans {s t u : State} (h : LinkKept s t) (k : LinkKept t u) : LinkKept s u :=
  ⟨h.lists.trans k.lists, fun r => k.replies (h.replies r)⟩

theorem LinkKept.of_eq {s t : State} (hl : t.li = s.li) (hp : t.pm.saving = s.pm.saving) (hs : t.sc = s.sc) :
    LinkKept s t := ⟨.of_li hl, fun h => h.of_eq hl hp hs⟩

theorem LinkKept.of_rfl {s t : State} (hl : t.li = s.li := by rfl) (hp : t.pm.saving = s.pm.saving := by rfl)
    (hs : t.sc = s.sc := by rfl) : LinkKept s t := .of_eq hl hp hs

/-- What follows an update of LI's receiver, or of what the bounds do not rest on. -/
theorem LinkKept.after {s t u : State} (k : LinkKept t u) (h : LinkKept s t := by exact .of_rfl) : LinkKept s u :=
  h.trans k

/-- The operations of SC and CU leave LI alone. -/
theorem StoreFrame.linkKept {s t : State} (h : StoreFrame s t) (k : ReaderSame s t) : LinkKept s t :=
  ⟨h.listsFit, fun r => r.same h.li (by rw [h.pm]) k⟩

theorem withReceiver_link (r : Receiver) (s : State) : LinkKept s (withReceiver r s) :=
  ⟨⟨id, id⟩, withReceiver_replies r⟩

theorem placeReport_link (e : ReportEntry) (s : State) : LinkKept s (placeReport e s) :=
  ⟨placeReport_listsFit e s, fun h => h.placeReport e⟩

theorem queueCommand_link (kind tag : Byte) (body : List Byte) (s : State) :
    LinkKept s (queueCommand kind tag body s) := by
  refine ⟨queueCommand_listsFit kind tag body s, fun h => ?_⟩
  unfold queueCommand
  split
  · exact h.placeArrivalReply _ rfl
  · split
    · exact h.withLink s.li.receiver s.li.overrun _ s.li.reports
    · refine RepliesKept.placeArrivalReply ?_ _ rfl
      exact (h.withLink s.li.receiver true s.li.queue s.li.reports).of_eq rfl rfl rfl

theorem clearOverrun_link (tag : Byte) (body : List Byte) (s : State) : LinkKept s (clearOverrun tag body s) := by
  refine ⟨clearOverrun_listsFit tag body s, fun h => ?_⟩
  unfold clearOverrun
  split
  · exact (h.withLink s.li.receiver false s.li.queue s.li.reports).placeArrivalReply _ rfl
  · exact h.placeArrivalReply _ rfl

theorem takeDemand_link (tag : Byte) (body : List Byte) (s : State) : LinkKept s (takeDemand tag body s) := by
  unfold takeDemand
  split
  · exact (placeReport_link _ _).after
  · exact placeReport_link _ s

theorem takeRestart_link (tag : Byte) (body : List Byte) (s : State) : LinkKept s (takeRestart tag body s) := by
  refine ⟨takeRestart_listsFit tag body s, fun h => ?_⟩
  unfold takeRestart
  split
  · exact acceptRestart_replies tag s
  · exact h.placeArrivalReply _ rfl

/-- A frame that is no part of a read-out sent: the line is free, and its role had no part in the bound. -/
theorem RepliesKept.lineFree {s : State} (h : RepliesKept s) (hs : partSending s.li = false) :
    RepliesKept { s with li := { s.li with tx := none } } :=
  ⟨h.bound, h.saving, h.closing, fun hc hn => ⟨(h.idle hc hn).1, rfl⟩,
    fun r hr hw => ⟨(h.reading r hr hw).1, (h.reading r hr hw).2.1, rfl⟩,
    fun r hr hw => by
      obtain ⟨ha, ⟨hp, -⟩ | ⟨-, hsend, -⟩⟩ := h.waiting r hr hw
      · exact ⟨ha, .inl ⟨hp, rfl⟩⟩
      · exact absurd (hs.symm.trans hsend) nofun,
    h.port⟩

/-- A read at the port is asked for by a read-out that does not wait, with room for its reply (R165, R167). -/
theorem RepliesKept.reader {s : State} (h : RepliesKept s) {p : PortOp} (hp : s.sc.port = some p)
    (ha : p.agent = .reader) (hd : p.discard = false) : ∃ r, s.sc.readOut = some r ∧ r.waiting = false ∧
      s.pm.saving = false ∧ s.li.closing = false ∧ s.li.replies.length ≤ 19 ∧ partsIn s.li.replies = 0 ∧
      partSending s.li = false := by
  obtain ⟨r, hr, hask⟩ := h.port p hp ha hd
  have hw : r.waiting = false := by
    refine Decidable.byContradiction fun hn => ?_
    have hnone := (h.waiting r hr (Bool.not_eq_false _ ▸ hn)).1
    rw [hnone] at hask
    exact absurd hask nofun
  have hsave : s.pm.saving = false := by
    refine Decidable.byContradiction fun hn => ?_
    exact absurd (hr.symm.trans (h.saving (Bool.not_eq_false _ ▸ hn)).1) nofun
  have hclose : s.li.closing = false := by
    refine Decidable.byContradiction fun hn => ?_
    exact absurd (hr.symm.trans (h.closing (Bool.not_eq_false _ ▸ hn))) nofun
  exact ⟨r, hr, hw, hsave, hclose, h.reading r hr hw⟩

theorem RoomForReply.stopReadOut {s : State} (h : RoomForReply s) (st : Status) (r : ReadOut) :
    RepliesKept (stopReadOut st r s) := h.endReadOut st _

theorem RoomForReply.afterGather {s : State} (h : RoomForReply s) {r : ReadOut} (hw : r.waiting = false)
    (ha : r.asking = none) : RepliesKept (afterGather r s) := by
  unfold Machine.afterGather
  split
  · exact h.endReadOut _ _
  · split
    · exact h.placePart _ _ rfl rfl ha
    · exact h.turnReader _ hw

theorem RoomForReply.afterVerify {s : State} (h : RoomForReply s) {r : ReadOut} (hw : r.waiting = false) :
    RepliesKept (afterVerify r s) := by
  unfold Machine.afterVerify
  split
  · exact h.endReadOut _ _
  · exact h.turnReader _ hw

theorem readComplete_replies (o : MediumOutcome) {s : State} (h : RepliesKept s) : RepliesKept (readComplete o s) := by
  unfold readComplete
  split
  · next logical phys discard hp =>
    dsimp only
    have hfree : RepliesKept (freePort { s with freeCount := s.freeCount + sectionSize }) :=
      (h.of_eq (t := { s with freeCount := s.freeCount + sectionSize }) rfl rfl rfl).same rfl rfl (freePort_reader _)
    split
    · exact hfree
    · next hd =>
      split
      · exact hfree
      · next r hr =>
        obtain ⟨q, hq, hw, hsave, hclose, hroom, hparts, hsend⟩ := h.reader hp rfl (Bool.not_eq_true _ ▸ hd)
        cases hr.symm.trans hq
        have hspace : RoomForReply (freePort { s with freeCount := s.freeCount + sectionSize }) :=
          ⟨hsave, hclose, hroom, hparts, hsend, fun p hp' => absurd hp' nofun⟩
        have hqueued (q : MediumOutcome) (b : Nat) (t : State) (ht : RoomForReply t) :
            RoomForReply (if q = .corrected then withSc (queueBlock b) t else t) := by
          split
          · exact ht.same rfl rfl (readerSame_of (queueBlock_reader b t.sc).1 (queueBlock_reader b t.sc).2)
          · exact ht
        split
        · exact (hqueued _ _ _ hspace).stopReadOut _ _
        · split
          · exact (hqueued _ _ _ hspace).afterGather hw rfl
          · exact (hqueued _ _ _ hspace).afterVerify hw
  · exact h

theorem readComplete_link (o : MediumOutcome) (s : State) : LinkKept s (readComplete o s) :=
  ⟨(readComplete_answer o s).listsFit, readComplete_replies o⟩

theorem frameSent_replies {s : State} (h : RepliesKept s) : RepliesKept (frameSent s) := by
  unfold frameSent
  split
  · exact h
  · next f hf =>
    have hpart (hrole : f.role ≠ .readPart) : partSending s.li = false := by
      simpa [partSending, hf] using hrole
    refine RepliesKept.startTx ?_
    split
    · next hrole => exact h.lineFree (hpart (by rw [hrole]; decide))
    · next hrole =>
      have hsend : partSending s.li = true := by simp [partSending, hf, hrole]
      unfold readReplySent
      split
      · next r hr =>
        have hr : s.sc.readOut = some r := hr
        split
        · next hw =>
          obtain ⟨-, ⟨-, hn⟩ | ⟨hparts, -, hroom⟩⟩ := h.waiting r hr hw
          · exact absurd (hn.symm.trans hsend) nofun
          have hsave : s.pm.saving = false := by
            refine Decidable.byContradiction fun hn => ?_
            exact absurd (hr.symm.trans (h.saving (Bool.not_eq_false _ ▸ hn)).1) nofun
          have hclose : s.li.closing = false := by
            refine Decidable.byContradiction fun hn => ?_
            exact absurd (hr.symm.trans (h.closing (Bool.not_eq_false _ ▸ hn))) nofun
          have hspace : RoomForReply { s with li := { s.li with tx := none } } := by
            refine ⟨hsave, hclose, hroom, hparts, rfl, fun p hp ha hd => ?_⟩
            obtain ⟨q, hq, hqw, -⟩ := h.reader hp ha hd
            cases hr.symm.trans hq
            exact absurd (hw.symm.trans hqw) nofun
          exact hspace.turnReader { r with waiting := false } rfl
        · next hw => exact absurd (hsend.symm.trans (h.reading r hr (Bool.not_eq_true _ ▸ hw)).2.2) nofun
      · next hn =>
        have hn : s.sc.readOut = none := hn
        refine ⟨h.bound, h.saving, h.closing, fun hc _ => ?_, fun r hr => absurd (hn.symm.trans hr) nofun,
          fun r hr => absurd (hn.symm.trans hr) nofun, h.port⟩
        exact absurd (hsend.symm.trans (h.idle hc hn).2) nofun
    · next hrole =>
      have k := h.lineFree (hpart (by rw [hrole]; decide))
      exact ⟨k.bound, k.saving, k.closing, k.idle, k.reading, k.waiting, k.port⟩

theorem frameSent_link (s : State) : LinkKept s (frameSent s) := ⟨frameSent_listsFit s, frameSent_replies⟩

/-- The end of a save has the room that its command kept for its reply (R181, R203). -/
theorem saveComplete_replies (ok : Bool) {s : State} (h : RepliesKept s) : RepliesKept (saveComplete ok s) := by
  unfold saveComplete
  split
  · next hs =>
    obtain ⟨hn, hroom⟩ := h.saving hs
    have hdone : RepliesKept { s with pm := savedMemory ok s.pm } :=
      ⟨h.bound, fun hsave => absurd hsave nofun, h.closing, h.idle, h.reading, h.waiting, h.port⟩
    dsimp only
    split
    · exact hdone
    · split
      · exact hdone.popCommand
      · next hc =>
        obtain ⟨hparts, hsend⟩ := h.idle (Bool.not_eq_true _ ▸ hc) hn
        have hspace : RoomForReply { s with pm := savedMemory ok s.pm } := by
          refine ⟨rfl, Bool.not_eq_true _ ▸ hc, hroom, hparts, hsend, fun p hp ha hd => ?_⟩
          obtain ⟨r, hr, -⟩ := h.reader hp ha hd
          exact absurd (hn.symm.trans hr) nofun
        exact hspace.finishCommand hn (statusReply _ _ _) rfl
  · exact h

theorem saveComplete_link (ok : Bool) (s : State) : LinkKept s (saveComplete ok s) :=
  ⟨saveComplete_listsFit ok s, saveComplete_replies ok⟩

/-- The reader's operation at the port is one that its read-out asks for (R165). -/
theorem execStoreGrant_replies {s t : State} (h : RepliesKept s) (hg : execStoreGrant s = .next t) :
    RepliesKept t := by
  unfold execStoreGrant at hg
  split at hg
  · cases hg
    exact h
  · split at hg
    · cases hg
      exact h
    · next a ha =>
      split at hg
      · cases hg
        exact h
      · next op hop =>
        split at hg
        · exact absurd hg nofun
        · cases hg
          refine ⟨h.bound, h.saving, h.closing, h.idle, h.reading, h.waiting, fun p hp hagent _ => ?_⟩
          cases hp
          cases hagent
          obtain ⟨l, hl, -⟩ := Option.map_eq_some_iff.mp hop
          obtain ⟨r, hr, hask⟩ := Option.bind_eq_some_iff.mp hl
          exact ⟨r, hr, by rw [hask]; rfl⟩

/-! ## The commands that CX takes -/

/-- A command that CX takes is answered after what it does beside LI and the reader (R181). -/
theorem finishCommand_link {s u : State} (hm : cxMayTake s = true) {r : Reply} (hr : r.role = .plain := by rfl)
    (hl : u.li = s.li := by rfl) (hp : u.pm.saving = s.pm.saving := by rfl)
    (k : ReaderSame s u := by exact readerSame_of rfl rfl) : LinkKept s (finishCommand r u) :=
  ⟨ListsFit.trans (.of_li hl) (finishCommand_answer r u).listsFit, fun h =>
    RoomForReply.finishCommand ((h.room hm).same hl hp k) (k.readOut.trans (cxMayTake_readOut hm)) r hr⟩

theorem turnReader_link {s : State} (hm : cxMayTake s = true) {r : ReadOut} (hw : r.waiting = false) :
    LinkKept s (turnReader r s) :=
  ⟨(turnReader_answer r s).listsFit, fun h => (h.room hm).turnReader r hw⟩

theorem reexamine_link (s : State) : LinkKept s (reexamine s) := by
  unfold reexamine
  split
  · exact (examine_frame s).linkKept (examine_reader s)
  · exact .of_rfl

theorem releaseIncident_link {s : State} (hm : cxMayTake s = true) (q : Command) :
    LinkKept s (releaseIncident q s) := by
  unfold releaseIncident
  split
  · exact finishCommand_link hm
  · split
    · exact finishCommand_link hm
    · exact (finishCommand_link hm).trans (reexamine_link _)
    · exact (finishCommand_link hm).trans (reexamine_link _)

theorem saveParameters_link {s : State} (hm : cxMayTake s = true) (q : Command) :
    LinkKept s (saveParameters q s) := by
  unfold saveParameters
  split
  · exact finishCommand_link hm
  · have hn := cxMayTake_readOut hm
    refine ⟨.of_li rfl, fun h => ?_⟩
    exact ⟨h.bound, fun _ => ⟨hn, (h.room hm).room⟩, h.closing, h.idle, h.reading, h.waiting, h.port⟩

theorem rule_link {c : Instr} {rule : Command → State → State} {s : State} (h : ruleOf c = some rule)
    (hm : cxMayTake s = true) (q : Command) : LinkKept s (rule q s) := by
  have hstore {r : Command → State → State} (hr : LinkKept s (r q s)) : LinkKept s (storeCommand r q s) := by
    unfold storeCommand
    split
    · exact finishCommand_link hm
    · exact hr
  cases c with
  | readStatus => cases h; exact finishCommand_link hm
  | readNotices => cases h; exact finishCommand_link hm
  | clearNotices => cases h; unfold clearNotices; dsimp only; split <;> exact finishCommand_link hm
  | setNoticeEnable => cases h; unfold setNoticeEnable; dsimp only; split <;> exact finishCommand_link hm
  | readParameter => cases h; unfold readParameter; dsimp only; split <;> exact finishCommand_link hm
  | writeParameter =>
    cases h
    unfold writeParameter
    dsimp only
    split
    · exact finishCommand_link hm
    · split
      · exact finishCommand_link hm
      · split <;> exact finishCommand_link hm
  | saveParameters => cases h; exact saveParameters_link hm q
  | enterSetup => cases h; obtain e | ⟨-, e⟩ := enterSetupCommand_cases q s <;> rw [e] <;> exact finishCommand_link hm
  | enterRun => cases h; obtain e | e | ⟨-, e⟩ := enterRunCommand_cases q s <;> rw [e] <;> exact finishCommand_link hm
  | setTrigger => cases h; unfold setTrigger; dsimp only; split <;> exact finishCommand_link hm
  | readTrigger => cases h; unfold readTrigger; dsimp only; split <;> exact finishCommand_link hm
  | markIncident => cases h; exact finishCommand_link hm
  | listIncidents => cases h; exact hstore (finishCommand_link hm)
  | readIncident =>
    cases h
    refine hstore ?_
    unfold readIncident
    split
    · exact finishCommand_link hm
    · split
      · exact finishCommand_link hm
      · exact turnReader_link hm rfl
  | verifyIncident =>
    cases h
    refine hstore ?_
    unfold verifyIncident
    split
    · exact finishCommand_link hm
    · split
      · exact finishCommand_link hm
      · exact turnReader_link hm rfl
  | releaseIncident => cases h; exact hstore (releaseIncident_link hm q)
  | setReadBurst => cases h; unfold setReadBurst; dsimp only; split <;> exact finishCommand_link hm
  | readAxleTable => cases h; unfold readAxleTable; split <;> exact finishCommand_link hm
  | _ => exact absurd h nofun

/-! ## Every command -/

theorem powerUp_replies (s : State) : RepliesKept (powerUp s) := by
  have hp (p : PortOp) (h : (powerUp s).sc.port = some p) : p.agent = .writer := by
    have h : portAtPowerOn s.medium = some p := h
    unfold portAtPowerOn at h
    split at h
    · exact absurd h nofun
    · cases h
      rfl
  refine ⟨Nat.zero_le 20, fun h => absurd h nofun, fun h => absurd h nofun, fun _ _ => ⟨rfl, rfl⟩,
    fun r h => absurd h nofun, fun r h => absurd h nofun, fun p h ha => ?_⟩
  exact absurd ((hp p h).symm.trans ha) nofun

theorem powerUp_link (s t : State) : LinkKept s (powerUp t) :=
  ⟨⟨fun _ => Nat.zero_le 4, fun _ => Nat.zero_le 8⟩, fun _ => powerUp_replies t⟩

theorem powerLoss_link (s : State) : LinkKept s (powerLoss s) := by
  unfold powerLoss
  dsimp only
  split <;> exact .of_rfl

theorem exec_linkKept {c : Instr} {s t : State} (h : exec c s = .next t) : LinkKept s t := by
  cases exec_effect h with
  | idle => exact .of_rfl
  | powerOn => exact powerUp_link s _
  | reset => exact powerUp_link s s
  | parameterLoad =>
    have hl : LinkKept s (parameterLoad s) :=
      .of_eq (parameterLoad_li s) (by rw [parameterLoad_eq]) (by rw [parameterLoad_eq])
    split
    · exact hl.trans .of_rfl
    · exact hl
  | rebuild reads results hr =>
    have hb := (rebuild_frame reads results s).linkKept (rebuild_reader reads results s)
    generalize rebuild reads results s = u at hb ⊢
    rw [rebuildEnded_eq]
    split <;> exact hb.trans .of_rfl
  | edge => exact .of_rfl
  | window a b => exact .of_eq (by simp) (by simp) (by simp)
  | recoverCaps => exact .of_rfl
  | sample r => unfold bpmSample; split <;> exact .of_eq (by simp) (by simp) (by simp)
  | blend => unfold blendRun; split <;> exact .of_eq (by simp) (by simp) (by simp)
  | thermal => unfold thermalUpdate; split <;> exact .of_eq (by simp) (by simp) (by simp)
  | capture => exact (capture_frame s).linkKept (capture_reader s)
  | grant hg => exact ⟨(execStoreGrant_answer hg).listsFit, fun k => execStoreGrant_replies k hg⟩
  | programComplete ok => exact (programComplete_frame ok s).linkKept (programComplete_reader ok s)
  | markComplete ok => exact (markComplete_frame ok s).linkKept (markComplete_reader ok s)
  | eraseComplete ok => exact (eraseComplete_frame ok s).linkKept (eraseComplete_reader ok s)
  | copyComplete o ok => exact (copyComplete_frame o ok s).linkKept (copyComplete_reader o ok s)
  | mapWriteComplete ok => exact (mapWriteComplete_frame ok s).linkKept (mapWriteComplete_reader ok s)
  | readComplete o => exact readComplete_link o s
  | relocationStart => exact (relocationStart_frame s).linkKept (relocationStart_reader s)
  | demand bytes tag body r => exact (withReceiver_link r s).trans (takeDemand_link tag body _)
  | arrival bytes kind tag body r => exact (withReceiver_link r s).trans (queueCommand_link kind tag body _)
  | discard bytes r => exact (withReceiver_link r s).trans .of_rfl
  | gap bytes after r => exact (withReceiver_link r s).trans .of_rfl
  | frameSent => exact frameSent_link s
  | clearOverrun bytes tag body r => exact (withReceiver_link r s).trans (clearOverrun_link tag body _)
  | restart bytes tag body r => exact (withReceiver_link r s).trans (takeRestart_link tag body _)
  | command hr hq hm => exact rule_link hr hm _
  | refused st hc hq hm => exact finishCommand_link hm
  | saveComplete ok => exact saveComplete_link ok s
  | powerLoss => exact powerLoss_link s

/-- Settles O50: an entry joins a list only where there is room, and the reply of the command in execution always has
some. -/
theorem linkBoundsKept : Obligations.LinkBoundsKept := by
  have hexec {s t : State} (hstep : step s = .next t) : LinkKept s t := by
    obtain rfl | ⟨c, rest, -, he⟩ := step_next hstep
    · obtain ⟨timer, e⟩ := tick_eq s
      exact e ▸ .of_rfl
    · exact (exec_linkKept he).after
  refine ⟨fun s t h hstep => ?_, fun s t h hstep => (hexec hstep).replies h⟩
  obtain ⟨hq, hr⟩ := (linkBounded_iff s.li).mp h
  exact (linkBounded_iff t.li).mpr ⟨(hexec hstep).lists.1 hq, (hexec hstep).lists.2 hr⟩

end Sys2Proof.Machine
end

section
/-! PROOFS. The step, the reset values, the moments of the commands, and the tachometer edge (0.6, 0.8, 8.8, 1.2). -/

namespace Sys2Proof.Machine

/-- Settles O1: by the step's definition on a queue that is not empty. -/
theorem stepRunsFrontCommand : Obligations.StepRunsFrontCommand := by
  intro c rest s h
  rw [step, h]

/-! ## The state after a reset -/

theorem powerUp_reset : powerUp State.reset = State.reset := rfl

/-- Settles O60: the state after reset is what a power-on leaves, which keeps each invariant. -/
theorem invariantsHoldAtReset : Obligations.InvariantsHoldAtReset := by
  have hmap : MapKept State.reset.sc State.reset.medium :=
    powerUp_kept (s := State.reset) (fun h => absurd h nofun) (fun h => absurd h nofun)
  refine ⟨reset_medium_wf, ⟨Nat.zero_le 32, List.nodup_nil⟩, powerUp_rangesHold State.reset, rfl,
    powerUp_replies State.reset, rfl, ?_, hmap, fun g => by cases g <;> rfl⟩
  exact (storeFormKept.2.2 _ _ hmap).1

theorem exec_powerOn {s : State} (h : s.powered = false) : exec .powerOn s = .next (powerUp s) := by
  have harm : exec .powerOn s = .next (powerUp (if s.powered then powerLoss s else s)) := rfl
  rw [harm, h, if_neg Bool.false_ne_true]

theorem exec_resetProceeds {s : State} (hp : s.powered = true) (h : closingEnded s = true) :
    exec .resetProceeds s = .next (powerUp s) := by
  have harm : exec .resetProceeds s = done s (if closingEnded s then powerUp s else s) := rfl
  rw [harm, done_powered _ hp, if_pos h]

/-- The map that a power-on loads: that of the newer valid copy, or the initial map (R139). -/
theorem mapAtPowerOn_cases (m : Medium) :
    (m.copy1.valid = true → m.copy2.valid = false → mapAtPowerOn m = m.copy1.map) ∧
    (m.copy1.valid = false → m.copy2.valid = true → mapAtPowerOn m = m.copy2.map) ∧
    (m.copy1.valid = true → m.copy2.valid = true → newerGeneration m.copy2.generation m.copy1.generation = true →
      mapAtPowerOn m = m.copy2.map) ∧
    (m.copy1.valid = true → m.copy2.valid = true → newerGeneration m.copy2.generation m.copy1.generation = false →
      mapAtPowerOn m = m.copy1.map) ∧
    (m.copy1.valid = false → m.copy2.valid = false → mapAtPowerOn m = initialMap) := by
  simp +contextual [mapAtPowerOn, newestIsSecond]

theorem portAtPowerOn_cases (m : Medium) :
    (m.copy1.valid = true ∨ m.copy2.valid = true → portAtPowerOn m = none) ∧
    (m.copy1.valid = false → m.copy2.valid = false →
      portAtPowerOn m = some ⟨.writer, .mapWrite .initial, false⟩) := by
  simp +contextual [portAtPowerOn]

/-- Settles O2: `powerUp` gives each block its reset record, and loads the map by `mapAtPowerOn_cases`. -/
theorem powerOnTakesResetValues : Obligations.PowerOnTakesResetValues := by
  refine ⟨fun s h => ⟨powerUp s, exec_powerOn h, ?_⟩, fun s hp hc => ⟨powerUp s, exec_resetProceeds hp hc, ?_⟩⟩
  · obtain ⟨hone, htwo, hnewer, holder, hnone⟩ := mapAtPowerOn_cases s.medium
    obtain ⟨hfree, hinitial⟩ := portAtPowerOn_cases s.medium
    refine ⟨rfl, rfl, rfl, rfl, rfl, rfl, rfl, rfl, rfl, rfl, rfl, rfl, rfl, rfl, rfl, rfl, rfl, rfl, rfl, rfl, rfl, rfl,
      rfl, rfl, rfl, hone, htwo, fun h1 h2 => ⟨fun ha => ?_, fun ha => ?_⟩, hfree, fun h1 h2 =>
        ⟨hnone h1 h2, hinitial h1 h2⟩⟩
    · exact hnewer h1 h2 (decide_eq_true ha)
    · exact holder h1 h2 (decide_eq_false (by omega))
  · exact exec_powerOn (s := { s with powered := false }) rfl

/-! ## The tachometer edge -/

/-- Settles O7: the timer moves on in any case, and `captureEdge` passes a FAULTED axle by. -/
theorem tachometerEdgeIsCounted : Obligations.TachometerEdgeIsCounted := by
  intro i delay s hp
  have harm : exec (.tachometerEdge i delay) s = execTachometerEdge i delay s := rfl
  have hset : s.am.axles.set i (s.am.axles.get i) = s.am.axles := by cases i <;> rfl
  rw [harm, execTachometerEdge, done_powered _ hp]
  refine ⟨fun h => ?_, fun ht hs => ?_⟩
  · have hkeep : (if s.timersRunning then
        s.am.axles.set i (captureEdge (s.am.timer + delay) (s.am.axles.get i)) else s.am.axles) = s.am.axles := by
      obtain h | h := h
      · rw [captureEdge, if_pos h, hset, ite_self]
      · rw [h, if_neg Bool.false_ne_true]
    rw [hkeep]
  · rw [ht, if_pos rfl, captureEdge, if_neg hs]
    rfl

/-! ## Commands outside their moment -/

theorem done_off {s t : State} (h : s.powered = false) : done s t = .next s := by
  rw [done, h, if_neg Bool.false_ne_true]

theorem done_self {s t : State} (h : t = s) : done s t = .next s := by rw [done, h, ite_self]

theorem onOccasion_or (b : Bool) (s t : State) : onOccasion b s t = .next s ∨ onOccasion b s t = done s t := by
  cases b
  · exact .inl (done_self rfl)
  · exact .inr rfl

/-- A row of a bound in a part where its enclosing step does nothing. -/
theorem onOccasion_self {b : Bool} {s t : State} (h : t = s) : onOccasion b s t = .next s := by
  rw [onOccasion, h, ite_self, done_self rfl]

theorem exec_off {c : Instr} {s : State} (h : s.powered = false) (hc : c ≠ .powerOn) : exec c s = .next s := by
  cases c with
  | powerOn => exact absurd rfl hc
  | storeGrant =>
    have harm : exec .storeGrant s = execStoreGrant s := rfl
    rw [harm, execStoreGrant, if_pos (by simp [h])]
  | rebuildEnd reads results =>
    have harm : exec (.rebuildEnd reads results) s = execRebuildEnd reads results s := rfl
    rw [harm, execRebuildEnd, if_pos (by simp [h])]
  | _ => exact done_off h

theorem windowClose_off (a b : Reading) {s : State} (h : s.timersRunning = false) : windowClose a b s = s := by
  rw [windowClose, h, if_neg Bool.false_ne_true]

theorem bpmSample_off (r : Reading) {s : State} (h : s.timersRunning = false) : bpmSample r s = s := by
  rw [bpmSample, h, if_neg Bool.false_ne_true]

theorem blendRun_off {s : State} (h : s.timersRunning = false) : blendRun s = s := by
  rw [blendRun, h, if_neg Bool.false_ne_true]

theorem thermalUpdate_off {s : State} (h : s.timersRunning = false) : thermalUpdate s = s := by
  rw [thermalUpdate, h, if_neg Bool.false_ne_true]

theorem capture_off {s : State} (h : capturesNow s = false) : capture s = s := by
  rw [capture, h, if_neg Bool.false_ne_true]

/-- The queued commands' rows, each with the rule by which CX takes it. -/
theorem queuedRows_rule : ∀ q ∈ queuedRows, ∃ rule, ∀ s, exec q.2.2 s = done s (takeCommand q.1 q.2.1 rule s) := by
  simp only [queuedRows, List.forall_mem_cons]
  refine ⟨⟨_, fun _ => rfl⟩, ⟨_, fun _ => rfl⟩, ⟨_, fun _ => rfl⟩, ⟨_, fun _ => rfl⟩, ⟨_, fun _ => rfl⟩,
    ⟨_, fun _ => rfl⟩, ⟨_, fun _ => rfl⟩, ⟨_, fun _ => rfl⟩, ⟨_, fun _ => rfl⟩, ⟨_, fun _ => rfl⟩, ⟨_, fun _ => rfl⟩,
    ⟨_, fun _ => rfl⟩, ⟨_, fun _ => rfl⟩, ⟨_, fun _ => rfl⟩, ⟨_, fun _ => rfl⟩, ⟨_, fun _ => rfl⟩, ⟨_, fun _ => rfl⟩,
    ⟨_, fun _ => rfl⟩, List.forall_mem_nil _⟩

theorem takeCommand_idle {kind : Byte} {len : Nat} {rule : Command → State → State} {s : State}
    (h : cxMayTake s = false ∨ s.li.queue = [] ∨ ∃ c, s.li.queue.head? = some c ∧ c.kind ≠ kind) :
    takeCommand kind len rule s = s := by
  unfold takeCommand
  split
  · rfl
  · next q rest hq =>
    refine if_neg fun ⟨hk, hm⟩ => ?_
    obtain h | h | ⟨c, hc, hn⟩ := h
    · exact absurd (hm.symm.trans h) nofun
    · exact absurd (hq.symm.trans h) nofun
    · rw [hq, List.head?_cons, Option.some.injEq] at hc
      exact hn (hc ▸ hk)

theorem queuedRows_idle {q : Byte × Nat × Instr} (hq : q ∈ queuedRows) {s : State}
    (h : cxMayTake s = false ∨ s.li.queue = [] ∨ ∃ c, s.li.queue.head? = some c ∧ c.kind ≠ q.1) :
    exec q.2.2 s = .next s := by
  obtain ⟨rule, hrule⟩ := queuedRows_rule q hq
  rw [hrule, done_self (takeCommand_idle h)]

theorem onFrame_closing {bytes : List Byte} {accepts : Byte → Bool}
    {rule : Byte → Byte → List Byte → State → State} {s : State} (h : s.li.closing = true) :
    onFrame bytes accepts rule s = s := if_pos h

theorem cxMayTake_closing {s : State} (h : s.li.closing = true) : cxMayTake s = false := by
  simp [cxMayTake, h]

/-- Settles O6: each command's own test, in the order of the claim. -/
theorem commandsOutsideTheirMoment : Obligations.CommandsOutsideTheirMoment := by
  refine ⟨fun c s h hc => exec_off h hc, fun i g v a b r s => ?rows, fun ok o reads results s => ?completions,
    fun q hq s h => queuedRows_idle hq h, fun bytes after s hc => ⟨?closing, fun q hq =>
      queuedRows_idle hq (.inl (cxMayTake_closing hc))⟩⟩
  case rows =>
    simp only [List.forall_mem_append, List.forall_mem_cons]
    refine ⟨⟨onOccasion_or _ _ _, onOccasion_or _ _ _, onOccasion_or _ _ _, onOccasion_or _ _ _, onOccasion_or _ _ _,
      onOccasion_or _ _ _, onOccasion_or _ _ _, onOccasion_or _ _ _, onOccasion_or _ _ _, onOccasion_or _ _ _,
      List.forall_mem_nil _⟩, ⟨onOccasion_or _ _ _, onOccasion_or _ _ _, onOccasion_or _ _ _, List.forall_mem_nil _⟩,
      onOccasion_or _ _ _, onOccasion_or _ _ _, fun ht => ?_⟩
    have hw := windowClose_off a b ht
    have hs := bpmSample_off r ht
    have hb := blendRun_off ht
    have hcap : capture s = s := capture_off (by simp [capturesNow, ht])
    have hrec : exec .adhesionRecovery s = .next s := by
      have harm : exec .adhesionRecovery s = execAdhesionRecovery s := rfl
      rw [harm, execAdhesionRecovery, ht]
      exact done_self rfl
    exact ⟨⟨⟨onOccasion_self hw, onOccasion_self hw, onOccasion_self hw, onOccasion_self hw, onOccasion_self hw,
      onOccasion_self hw, onOccasion_self hw, onOccasion_self hw, onOccasion_self hw, onOccasion_self hw,
      List.forall_mem_nil _⟩, onOccasion_self hs, onOccasion_self hs, onOccasion_self hs, List.forall_mem_nil _⟩,
      done_self hw, hrec, done_self hs, done_self hb, onOccasion_self hb, done_self (thermalUpdate_off ht),
      done_self hcap, onOccasion_self hcap, List.forall_mem_nil _⟩
  case completions =>
    simp only [List.forall_mem_cons]
    refine ⟨fun hp => ⟨done_self ?_, done_self ?_, done_self ?_, done_self ?_, done_self ?_, done_self ?_,
      List.forall_mem_nil _⟩, fun hl => done_self ?_, fun hr => ?_, fun ht => done_self ?_, fun hs => done_self ?_,
      fun hc => done_self ?_⟩
    · rw [programComplete, hp]
    · rw [markComplete, hp]
    · rw [eraseComplete, hp]
    · rw [copyComplete, hp]
    · rw [mapWriteComplete, hp]
    · rw [readComplete, hp]
    · rw [hl]
      rfl
    · have harm : exec (.rebuildEnd reads results) s = execRebuildEnd reads results s := rfl
      rw [harm, execRebuildEnd, hr, if_pos (by simp)]
    · rw [frameSent, ht]
    · rw [saveComplete, hs, if_neg Bool.false_ne_true]
    · rw [hc, if_neg Bool.false_ne_true]
  case closing =>
    have hcap : capture s = s := capture_off (by simp [capturesNow, hc])
    have hline (rule : RxEvent → State → State) : onLine bytes rule s = s := if_pos hc
    simp only [List.forall_mem_cons]
    refine ⟨done_self (onFrame_closing hc), done_self (onFrame_closing hc), done_self (onFrame_closing hc),
      done_self (onFrame_closing hc), done_self (hline _), done_self (if_pos hc), done_self hcap, onOccasion_self hcap,
      done_self ?_, done_self ?_, List.forall_mem_nil _⟩
    · rw [hc, Bool.or_true, if_pos rfl]
    · rw [relocationStart, hc]
      simp

end Sys2Proof.Machine
end


section
/-! PROOFS. AM at a window close (Chapter 1): what its evaluation leaves of one axle, of the conditions and of the
reference. -/

namespace Sys2Proof.Machine

/-! ## The interval -/

theorem usableInterval_none_left (e : Option Word32) : usableInterval none e = none := rfl

theorem usableInterval_none_right (e : Option Word32) : usableInterval e none = none := by
  cases e <;> rfl

/-- The usable interval between two stamps is their difference modulo 2^32, up to 250000 µs (R1, R4). -/
theorem usableInterval_eq_some_iff (stored last : Word32) (t : Nat) :
    usableInterval (some stored) (some last) = some t ↔
      t = (last.toNat + 2 ^ 32 - stored.toNat) % 2 ^ 32 ∧ t ≤ 250000 := by
  have hdiff : (last - stored).toNat = (last.toNat + 2 ^ 32 - stored.toNat) % 2 ^ 32 := by bv_omega
  simp only [usableInterval, ← hdiff]
  split
  · simp only [Option.some.injEq]
    omega
  · simp only [reduceCtorEq, false_iff]
    omega

/-! ## One axle's window -/

theorem axleWindow_faulted (d ppr v : Nat) {x : SpeedFields} (h : x.sensor = .faulted) :
    axleWindow d ppr v x = x := if_pos h

theorem axleWindow_quiet (d ppr v : Nat) {x : SpeedFields} (h : x.sensor ≠ .faulted) (he : x.edgeCount = 0) :
    axleWindow d ppr v x = quietWindow v { x with prevSpeed := x.speed } := by
  rw [axleWindow, if_neg h]
  exact if_pos he

theorem axleWindow_edges (d ppr v : Nat) {x : SpeedFields} (h : x.sensor ≠ .faulted) (he : x.edgeCount ≠ 0) :
    axleWindow d ppr v x = edgeWindow d ppr { x with prevSpeed := x.speed } := by
  rw [axleWindow, if_neg h]
  exact if_neg he

/-- What every quiet window leaves (R2, R7). -/
theorem quietWindow_keeps (v : Nat) (x : SpeedFields) :
    (quietWindow v x).quiet = min 255 (x.quiet + 1) ∧ (quietWindow v x).prevSpeed = x.prevSpeed ∧
      (quietWindow v x).implausible = x.implausible ∧ (quietWindow v x).edgeCount = 0 ∧
      (quietWindow v x).windowEdge = none := by
  unfold quietWindow
  dsimp only
  split
  · exact ⟨rfl, rfl, rfl, rfl, rfl⟩
  · split <;> exact ⟨rfl, rfl, rfl, rfl, rfl⟩

/-- From the 25th quiet window on the axle is silent (R7 item 1). -/
theorem quietWindow_silent (v : Nat) {x : SpeedFields} (h : 25 ≤ min 255 (x.quiet + 1)) :
    (quietWindow v x).speed = 0 ∧ (quietWindow v x).measured = false ∧ (quietWindow v x).lastEdge = none ∧
      (quietWindow v x).sensor = (if 1000 ≤ v then .locked else .stopped) := by
  rw [quietWindow, if_pos (show 25 ≤ satInc 255 x.quiet from h)]
  exact ⟨rfl, rfl, rfl, rfl⟩

/-- Before the 25th quiet window the speed is held (R7 item 2). -/
theorem quietWindow_held (v : Nat) {x : SpeedFields} (h : min 255 (x.quiet + 1) < 25) :
    (quietWindow v x).speed = x.speed ∧ (quietWindow v x).measured = x.measured ∧
      (quietWindow v x).lastEdge = x.lastEdge ∧
      (quietWindow v x).sensor = (if 3 ≤ min 255 (x.quiet + 1) ∧ 1000 ≤ v then .locked else x.sensor) := by
  rw [quietWindow, if_neg (show ¬25 ≤ satInc 255 x.quiet from Nat.not_le.mpr h)]
  split
  · next hl => exact ⟨rfl, rfl, rfl, (if_pos hl).symm⟩
  · next hl => exact ⟨rfl, rfl, rfl, (if_neg hl).symm⟩

/-- An axle with edges that is not FAULTED becomes NORMAL, its counts 0 and its last edge stored (R4). -/
def edgeStored (x : SpeedFields) : SpeedFields :=
  { x with quiet := 0, sensor := .normal, lastEdge := x.windowEdge, edgeCount := 0, windowEdge := none }

theorem edgeWindow_eq (d ppr : Nat) {x : SpeedFields} (h : x.sensor ≠ .faulted) :
    edgeWindow d ppr x = match usableInterval x.lastEdge x.windowEdge with
      | some t => takeCandidate (candidateSpeed x.edgeCount d ppr t) (edgeStored x)
      | none => edgeStored x := by
  have hsensor : (if x.sensor = .stopped ∨ x.sensor = .locked then .normal else x.sensor) = SensorState.normal := by
    cases hx : x.sensor <;> simp_all
  rw [edgeWindow, hsensor]
  rfl

/-- The candidate's plausibility (R6). -/
def implausibleCandidate (c : Nat) (x : SpeedFields) : Prop :=
  x.measured = true ∧ (x.speed + 2000 < c ∨ c + 2000 < x.speed)

theorem takeCandidate_plausible {c : Nat} {x : SpeedFields} (h : ¬implausibleCandidate c x) :
    takeCandidate c x = { x with speed := c, measured := true, implausible := 0 } := if_neg h

theorem takeCandidate_held {c : Nat} {x : SpeedFields} (h : implausibleCandidate c x) (hi : x.implausible < 2) :
    takeCandidate c x = { x with implausible := x.implausible + 1 } :=
  (if_pos h).trans (if_neg (by omega))

theorem takeCandidate_third {c : Nat} {x : SpeedFields} (h : implausibleCandidate c x) (hi : 2 ≤ x.implausible) :
    takeCandidate c x = faultedFields :=
  (if_pos h).trans (if_pos (by omega))

/-- Settles O9: by the axle's state, its edges and the usable interval. -/
theorem axleWindowFollowsTheRules : Obligations.AxleWindowFollowsTheRules := by
  refine ⟨fun e => ⟨usableInterval_none_left e, usableInterval_none_right e⟩, usableInterval_eq_some_iff,
    fun d ppr v x => ⟨axleWindow_faulted d ppr v, ?quiet, ?noInterval, ?interval⟩⟩
  case quiet =>
    intro hs he
    rw [axleWindow_quiet d ppr v hs he]
    obtain ⟨hq, hp, hi, hc, hw⟩ := quietWindow_keeps v { x with prevSpeed := x.speed }
    exact ⟨hq, hp, hi, hc, hw, fun h => quietWindow_silent v (x := { x with prevSpeed := x.speed }) h,
      fun h => quietWindow_held v (x := { x with prevSpeed := x.speed }) h⟩
  case noInterval =>
    intro hs he hu
    rw [axleWindow_edges d ppr v hs he, edgeWindow_eq d ppr (by exact hs)]
    simp only [hu]
    exact ⟨rfl, rfl, rfl, rfl, rfl, rfl, rfl, rfl, rfl⟩
  case interval =>
    intro t hs he hu
    rw [axleWindow_edges d ppr v hs he, edgeWindow_eq d ppr (by exact hs)]
    simp only [hu]
    refine ⟨fun hw => takeCandidate_plausible hw, fun hw hi => ?_, fun hw hi => takeCandidate_third hw hi⟩
    have hheld := takeCandidate_held (c := candidateSpeed x.edgeCount d ppr t)
      (x := edgeStored { x with prevSpeed := x.speed }) hw hi
    rw [hheld, ← hw.1]
    rfl

/-- Every window clears the counts of an axle that was not FAULTED (R2). -/
theorem axleWindow_clears (d ppr v : Nat) {x : SpeedFields} (h : x.sensor ≠ .faulted) :
    (axleWindow d ppr v x).edgeCount = 0 ∧ (axleWindow d ppr v x).windowEdge = none := by
  by_cases he : x.edgeCount = 0
  · rw [axleWindow_quiet d ppr v h he]
    obtain ⟨_, _, _, hc, hw⟩ := quietWindow_keeps v { x with prevSpeed := x.speed }
    exact ⟨hc, hw⟩
  · rw [axleWindow_edges d ppr v h he, edgeWindow_eq d ppr (by exact h)]
    split
    · unfold takeCandidate
      split
      · split <;> exact ⟨rfl, rfl⟩
      · exact ⟨rfl, rfl⟩
    · exact ⟨rfl, rfl⟩

/-! ## The window close -/

/-- WINDOW CLOSE of a powered part whose timers run is the chain of AM, SP and CO (R3, R18, R101). -/
theorem exec_windowClose (a b : Reading) {s : State} (hp : s.powered = true) :
    exec (.windowClose a b) s = .next (windowClose a b s) := by
  have harm : exec (.windowClose a b) s = done s (windowClose a b s) := rfl
  rw [harm, done_powered _ hp]

theorem windowClose_chain (a b : Reading) {s : State} (ht : s.timersRunning = true) :
    windowClose a b s = compose a b (spEvaluate (afterAm s)) := if_pos ht

/-- SP's evaluation changes AM's axles, its own record and the notice set. -/
theorem spEvaluate_frame (s : State) :
    spEvaluate s = { s with
      am := { s.am with axles := (spAxles s).1 }, sp := (spEvaluate s).sp
      cx := { s.cx with notices := (spEvaluate s).cx.notices } } := by
  simp [spEvaluate, raiseIf_eq]

/-- A composition changes CO's record and the notice set. -/
theorem compose_frame (a b : Reading) (s : State) :
    compose a b s = { s with
      co := (compose a b s).co, cx := { s.cx with notices := (compose a b s).cx.notices } } := by
  simp [compose, raiseIf_eq]

/-- The chain changes AM, SP, CO and the notice set alone. -/
theorem windowClose_frame (a b : Reading) {s : State} (ht : s.timersRunning = true) :
    windowClose a b s = { s with
      am := (windowClose a b s).am, sp := (windowClose a b s).sp, co := (windowClose a b s).co
      cx := { s.cx with notices := (windowClose a b s).cx.notices } } := by
  rw [windowClose_chain a b ht]
  conv => lhs; rw [compose_frame, spEvaluate_frame]
  conv => rhs; rw [compose_frame a b (spEvaluate (afterAm s)), spEvaluate_frame]
  rfl

/-- The axle a window close leaves: AM's, but FAULTED where SP's step 3 made it so. -/
theorem windowClose_axle (a b : Reading) {s : State} (ht : s.timersRunning = true) (i : AxleNo) :
    (windowClose a b s).am.axles.get i = (windowAxles s).get i := by
  rw [windowClose_am a b ht]
  rfl

theorem PerAxle.mem_toList {α : Type} (p : PerAxle α) (x : α) : x ∈ p.toList ↔ ∃ i, p.get i = x := by
  constructor
  · intro h
    simp only [PerAxle.toList, List.mem_cons, List.not_mem_nil, or_false] at h
    obtain h | h | h | h | h | h := h
    · exact ⟨.a1, h.symm⟩
    · exact ⟨.a2, h.symm⟩
    · exact ⟨.a3, h.symm⟩
    · exact ⟨.a4, h.symm⟩
    · exact ⟨.a5, h.symm⟩
    · exact ⟨.a6, h.symm⟩
  · rintro ⟨i, rfl⟩
    cases i <;> simp [PerAxle.toList, PerAxle.get]

theorem PerAxle.any_toList {α : Type} (p : PerAxle α) (f : α → Bool) :
    p.toList.any f = true ↔ ∃ i, f (p.get i) = true := by
  simp only [List.any_eq_true, PerAxle.mem_toList]
  exact ⟨fun ⟨x, ⟨i, hi⟩, hx⟩ => ⟨i, hi ▸ hx⟩, fun ⟨i, hi⟩ => ⟨_, ⟨i, rfl⟩, hi⟩⟩

theorem PerAxle.all_toList {α : Type} (p : PerAxle α) (f : α → Bool) :
    p.toList.all f = true ↔ ∀ i, f (p.get i) = true := by
  simp only [List.all_eq_true, PerAxle.mem_toList]
  exact ⟨fun h i => h _ ⟨i, rfl⟩, fun h x ⟨i, hi⟩ => hi ▸ h i⟩

theorem amWindow_axle (s : State) (i : AxleNo) :
    (amWindow s).axles.get i =
      axleWindow (s.pm.params.motion.diameter.get i) s.pm.params.motion.ppr (reportedRef s.am) (s.am.axles.get i) := by
  simp [amWindow]

theorem amWindow_lockedAxle (s : State) :
    (amWindow s).lockedAxle = true ↔ ∃ i, ((amWindow s).axles.get i).sensor = .locked := by
  refine (PerAxle.any_toList (amWindow s).axles (fun x => x.sensor == .locked)).trans ?_
  simp only [beq_iff_eq]

theorem amWindow_axleFault (s : State) :
    (amWindow s).axleFault = true ↔ ∃ i, ((amWindow s).axles.get i).sensor = .faulted := by
  refine (PerAxle.any_toList (amWindow s).axles (fun x => x.sensor == .faulted)).trans ?_
  simp only [beq_iff_eq]

theorem allFaulted_iff (p : PerAxle SpeedFields) :
    p.toList.all (fun x => x.sensor == .faulted) = true ↔ ∀ i, (p.get i).sensor = .faulted := by
  simpa using PerAxle.all_toList p (fun x => x.sensor == .faulted)

theorem groundSource_eq_some_iff (d : Demand) (age g : Nat) :
    groundSource d age = some g ↔ d.groundSpeed = some g ∧ age ≤ 1 := by
  unfold groundSource
  split <;> simp_all

theorem groundSource_eq_none_iff (d : Demand) (age : Nat) :
    groundSource d age = none ↔ d.groundSpeed = none ∨ 2 ≤ age := by
  unfold groundSource
  split
  · next h => exact ⟨.inl, fun h' => h'.resolve_right (by omega)⟩
  · next h => exact ⟨fun _ => .inr (by omega), fun _ => rfl⟩

/-- STANDSTILL with an axle that is not FAULTED (R14). -/
theorem amWindow_standstill_axles {s : State} (h : ∃ i, ((amWindow s).axles.get i).sensor ≠ .faulted) :
    (amWindow s).standstill = true ↔
      ∀ i, ((amWindow s).axles.get i).sensor = .stopped ∨ ((amWindow s).axles.get i).sensor = .faulted := by
  have hnot : ¬(amWindow s).axles.toList.all (fun x => x.sensor == .faulted) = true := fun hall =>
    let ⟨i, hi⟩ := h
    hi ((allFaulted_iff _).mp hall i)
  have hstand : (amWindow s).standstill =
      (amWindow s).axles.toList.all (fun x => x.sensor == .faulted || x.sensor == .stopped) := if_neg hnot
  rw [hstand, PerAxle.all_toList]
  simp only [Bool.or_eq_true, beq_iff_eq]
  exact forall_congr' fun i => or_comm

/-- STANDSTILL with every axle FAULTED (R14). -/
theorem amWindow_standstill_ground {s : State} (h : ∀ i, ((amWindow s).axles.get i).sensor = .faulted) :
    (amWindow s).standstill = true ↔ s.demand.groundSpeed = some 0 ∧ s.bc.demandAge ≤ 1 := by
  have hstand : (amWindow s).standstill = (groundSource s.demand s.bc.demandAge == some 0) :=
    if_pos ((allFaulted_iff _).mpr h)
  rw [hstand, beq_iff_eq, groundSource_eq_some_iff]

/-- No axle that step 3 makes FAULTED keeps a count (R9). -/
theorem windowAxles_cases (s : State) (i : AxleNo) :
    (windowAxles s).get i = faultedFields ∨ (windowAxles s).get i = (amWindow s).axles.get i := by
  simp only [windowAxles, spAxles, PerAxle.get_ofFn]
  split
  · exact .inl rfl
  · exact .inr rfl

/-- Settles O10. -/
theorem windowCloseRunsTheChain : Obligations.WindowCloseRunsTheChain := by
  intro a b s hp ht
  have ham := windowClose_am a b ht
  refine ⟨_, exec_windowClose a b hp, windowClose_chain a b ht, windowClose_frame a b ht, ?_, ?_, ?_, ?_, ?_, ?_⟩
  · rw [ham]
    rfl
  · intro i hi
    rw [windowClose_axle a b ht]
    rcases windowAxles_cases s i with h | h
    · rw [h]
      exact ⟨rfl, rfl⟩
    · rw [h, amWindow_axle]
      exact axleWindow_clears _ _ _ hi
  · rw [ham]
    exact amWindow_lockedAxle s
  · rw [ham]
    exact amWindow_axleFault s
  · rw [ham]
    exact amWindow_standstill_axles
  · rw [ham]
    exact amWindow_standstill_ground

/-! ## The reference -/

/-- Where every axle is FAULTED there is no greatest speed. -/
theorem greatestSpeed_none {p : PerAxle SpeedFields} (h : ∀ i, (p.get i).sensor = .faulted) :
    greatestSpeed p = none := by
  have hnil : p.toList.filter (fun x => x.sensor != .faulted) = [] := by
    rw [List.filter_eq_nil_iff]
    intro x hx
    obtain ⟨i, rfl⟩ := (PerAxle.mem_toList p x).mp hx
    simp [h i]
  rw [greatestSpeed, hnil]
  rfl

/-- The greatest speed is one of an axle that is not FAULTED, and no such axle is faster (R11). -/
theorem greatestSpeed_some {p : PerAxle SpeedFields} {v : Nat}
    (hv : ∃ i, (p.get i).sensor ≠ .faulted ∧ (p.get i).speed = v)
    (hle : ∀ i, (p.get i).sensor ≠ .faulted → (p.get i).speed ≤ v) : greatestSpeed p = some v := by
  rw [greatestSpeed, List.max?_eq_some_iff]
  have hmem (w : Nat) : w ∈ (p.toList.filter (fun x => x.sensor != .faulted)).map (·.speed) ↔
      ∃ i, (p.get i).sensor ≠ .faulted ∧ (p.get i).speed = w := by
    simp only [List.mem_map, List.mem_filter, PerAxle.mem_toList, bne_iff_ne]
    exact ⟨fun ⟨x, ⟨⟨i, hi⟩, hx⟩, hw⟩ => ⟨i, hi ▸ hx, hi ▸ hw⟩, fun ⟨i, hi, hw⟩ => ⟨_, ⟨⟨i, rfl⟩, hi⟩, hw⟩⟩
  refine ⟨(hmem v).mpr hv, fun w hw => ?_⟩
  obtain ⟨i, hi, rfl⟩ := (hmem w).mp hw
  exact hle i hi

theorem amWindow_ref (s : State) :
    ((amWindow s).refInternal, (amWindow s).refValid) =
      nextReference s.pm.params.motion (groundSource s.demand s.bc.demandAge) (amWindow s).axles s.am.refInternal :=
  rfl

/-- Settles O11: by the three sources of R10 and R11. -/
theorem referenceFollowsItsSource : Obligations.ReferenceFollowsItsSource := by
  intro a b s hp ht
  refine ⟨_, exec_windowClose a b hp, ?_⟩
  rw [windowClose_am a b ht]
  have href := amWindow_ref s
  refine ⟨fun g hg hage => ?ground, fun hnone hall => ?faulted, fun hnone v hv hle => ?axles⟩
  case ground =>
    rw [(groundSource_eq_some_iff _ _ g).mpr ⟨hg, hage⟩] at href
    obtain ⟨h1, h2⟩ := Prod.mk.inj href
    exact ⟨h1.trans (Nat.mul_comm g 10), h2⟩
  case faulted =>
    rw [(groundSource_eq_none_iff _ _).mpr hnone, nextReference, greatestSpeed_none hall] at href
    exact Prod.mk.inj href
  case axles =>
    rw [(groundSource_eq_none_iff _ _).mpr hnone, nextReference, greatestSpeed_some hv hle] at href
    obtain ⟨h1, h2⟩ := Prod.mk.inj href
    refine ⟨h2, h1.trans ?_⟩
    rw [Nat.mul_comm v 10]
    rfl

end Sys2Proof.Machine
end


section
/-! PROOFS. SP's trucks (Chapter 2): the correction state machine, the adhesion cap and the recovery. -/

namespace Sys2Proof.Machine

/-! ## ADHESION RECOVERY and the bounds of the cap (R33, R34) -/

theorem recoverCap_eq (p : SlideParams) (run : Bool) (t : TruckRecord) :
    recoverCap p run t = if run = true ∧ t.isProtected = true ∧ t.state = .idle then
      { t with cap := min p.nominalCap (t.cap + p.recoveryRate * p.nominalCap / 1000) } else t := rfl

/-- ADHESION RECOVERY changes the truck records alone (R33). -/
theorem exec_adhesionRecovery {s : State} (hp : s.powered = true) (ht : s.timersRunning = true) :
    exec .adhesionRecovery s = .next { s with sp := { s.sp with
      trucks := s.sp.trucks.map (recoverCap s.pm.params.slide (s.cx.mode == .run)) } } := by
  have harm : exec .adhesionRecovery s = execAdhesionRecovery s := rfl
  rw [harm, execAdhesionRecovery, done_powered _ hp, if_pos ht]

theorem permille_le (n : Nat) {f : Nat} (h : f ≤ 1000) : n * f / 1000 ≤ n :=
  Nat.div_le_of_le_mul (Nat.mul_comm 1000 n ▸ Nat.mul_le_mul_left n h)

/-- A cap in its bounds (R34). -/
def capInRange (p : SlideParams) (cap : Nat) : Prop := floorEffort p ≤ cap ∧ cap ≤ p.nominalCap

theorem cutCap_inRange {p : SlideParams} (hf : p.floor ≤ 1000) (e : Nat) {cap : Nat} (h : capInRange p cap) :
    capInRange p (cutCap p e cap) :=
  ⟨Nat.le_max_left _ _, Nat.max_le.mpr ⟨permille_le _ hf, Nat.le_trans (Nat.min_le_left _ _) h.2⟩⟩

theorem recoverCap_inRange {p : SlideParams} (run : Bool) {t : TruckRecord} (h : capInRange p t.cap) :
    capInRange p (recoverCap p run t).cap := by
  obtain ⟨hlo, hhi⟩ := h
  rw [recoverCap_eq]
  split
  · exact ⟨Nat.le_min.mpr ⟨Nat.le_trans hlo hhi, Nat.le_trans hlo (Nat.le_add_right _ _)⟩, Nat.min_le_left _ _⟩
  · exact ⟨hlo, hhi⟩

/-- No transition moves the cap but the cut of a slide (R26, R29). -/
theorem truckStep_cap (p : SlideParams) (run low slide : Bool) (e : Nat) (t : TruckRecord) :
    (truckStep p run low slide e t).cap = t.cap ∨ (truckStep p run low slide e t).cap = cutCap p e t.cap := by
  unfold truckStep lockoutStep episodeStep holdStep restoreStep enterRelieve reenterRelieve enterLockout toIdle
  dsimp only
  repeat' split
  all_goals simp

theorem capStep_inRange {p : SlideParams} (hf : p.floor ≤ 1000) (hu : p.unprotectedFactor ≤ 1000) (run : Bool)
    {t : TruckRecord} (h : capInRange p t.cap) : capInRange p (capStep p run t).cap := by
  unfold capStep
  split
  · exact ⟨Nat.le_max_left _ _, Nat.max_le.mpr ⟨permille_le _ hf, permille_le _ hu⟩⟩
  · split
    · exact h
    · exact ⟨permille_le _ hf, Nat.le_refl _⟩

/-- Settles O16. -/
theorem adhesionRecoveryRaisesCaps : Obligations.AdhesionRecoveryRaisesCaps := by
  constructor
  · intro s hp ht
    refine ⟨_, exec_adhesionRecovery hp ht, rfl, fun g => ?_⟩
    rw [PerTruck.get_map, recoverCap_eq]
    simp only [beq_iff_eq]
  · intro p run low slide e t hf hu hlo hhi
    have h : capInRange p t.cap := ⟨hlo, hhi⟩
    have hstep : capInRange p (truckStep p run low slide e t).cap := by
      rcases truckStep_cap p run low slide e t with hc | hc <;> rw [hc]
      · exact h
      · exact cutCap_inRange hf e h
    obtain ⟨h1, h2⟩ := capStep_inRange hf hu run hstep
    obtain ⟨h3, h4⟩ := recoverCap_inRange run h
    exact ⟨h1, h2, h3, h4⟩

/-! ## The correction state machine (R25 to R32, R35) -/

theorem truckStep_outside (p : SlideParams) (low slide : Bool) (e : Nat) (t : TruckRecord) :
    truckStep p false low slide e t = toIdle t := rfl

theorem truckStep_unprotected (p : SlideParams) (low slide : Bool) (e : Nat) {t : TruckRecord}
    (h : t.isProtected = false) :
    truckStep p true low slide e t = if t.state = .idle then t else toIdle t := by
  simp [truckStep, h]

theorem truckStep_idle (p : SlideParams) (low slide : Bool) (e : Nat) {t : TruckRecord}
    (h : t.isProtected = true) (hs : t.state = .idle) :
    truckStep p true low slide e t = if !low && slide then enterRelieve p e t else t := by
  simp [truckStep, h, hs]

theorem truckStep_lockout (p : SlideParams) (low slide : Bool) (e : Nat) {t : TruckRecord}
    (h : t.isProtected = true) (hs : t.state = .lockout) :
    truckStep p true low slide e t = lockoutStep p t := by
  simp [truckStep, h, hs]

/-- A truck in an episode. -/
def InEpisode (t : TruckRecord) : Prop := t.state = .relieve ∨ t.state = .hold ∨ t.state = .restore

theorem truckStep_episode (p : SlideParams) (low slide : Bool) (e : Nat) {t : TruckRecord}
    (h : t.isProtected = true) (hs : InEpisode t) :
    truckStep p true low slide e t = if low then toIdle t else episodeStep p slide e t := by
  rcases hs with hs | hs | hs <;> simp [truckStep, h, hs]

theorem episodeStep_late {p : SlideParams} (slide : Bool) (e : Nat) {t : TruckRecord}
    (h : p.corrMax ≤ t.episode + 10) :
    episodeStep p slide e t = enterLockout { t with episode := t.episode + 10 } := if_pos h

theorem episodeStep_relieve {p : SlideParams} (slide : Bool) (e : Nat) {t : TruckRecord}
    (h : ¬p.corrMax ≤ t.episode + 10) (hs : t.state = .relieve) :
    episodeStep p slide e t = if slide then { t with episode := t.episode + 10 }
      else { t with state := .hold, episode := t.episode + 10, holdTimer := 0 } := by
  simp [episodeStep, h, hs]

/-- A slide in HOLD or RESTORE (R29). -/
theorem episodeStep_slide {p : SlideParams} (e : Nat) {t : TruckRecord}
    (h : ¬p.corrMax ≤ t.episode + 10) (hs : t.state = .hold ∨ t.state = .restore) :
    episodeStep p true e t = reenterRelieve p e { t with episode := t.episode + 10 } := by
  rcases hs with hs | hs <;> simp [episodeStep, h, hs]

theorem episodeStep_hold {p : SlideParams} (e : Nat) {t : TruckRecord}
    (h : ¬p.corrMax ≤ t.episode + 10) (hs : t.state = .hold) :
    episodeStep p false e t = { t with
      state := if p.holdTime ≤ t.holdTimer + 10 then .restore else .hold
      episode := t.episode + 10, holdTimer := t.holdTimer + 10 } := by
  simp only [episodeStep, h, hs, holdStep, if_false, Bool.false_eq_true]
  split <;> rfl

theorem episodeStep_restore {p : SlideParams} (e : Nat) {t : TruckRecord}
    (h : ¬p.corrMax ≤ t.episode + 10) (hs : t.state = .restore) :
    episodeStep p false e t = restoreStep p { t with episode := t.episode + 10 } := by
  simp [episodeStep, h, hs]

theorem lockoutStep_eq (p : SlideParams) (t : TruckRecord) :
    lockoutStep p t = if p.lockoutTime ≤ t.lockoutTimer + 10 then toIdle { t with lockoutTimer := t.lockoutTimer + 10 }
      else { t with lockoutTimer := t.lockoutTimer + 10 } := rfl

theorem capStep_eq (p : SlideParams) (run : Bool) (t : TruckRecord) :
    capStep p run t = { t with cap :=
      if t.isProtected = false then max (floorEffort p) (p.nominalCap * p.unprotectedFactor / 1000)
      else if run = true then t.cap else p.nominalCap } := by
  obtain ⟨state, episode, hold, lockout, limit, cap, kept, sand⟩ := t
  cases kept <;> cases run <;> rfl

/-! ## A truck at a window close -/

theorem lowSpeed_iff (am : AxleMonitor) : lowSpeed am = true ↔ reportedRef am < 300 ∨ am.refValid = false := by
  simp [lowSpeed]

/-- SP's low-speed inhibit is that of the reference the window close leaves (R19). -/
theorem lowSpeed_windowClose (a b : Reading) {s : State} (ht : s.timersRunning = true) :
    lowSpeed (windowClose a b s).am = lowSpeed (amWindow s) := by
  rw [windowClose_am a b ht]
  rfl

theorem reportedRef_windowClose (a b : Reading) {s : State} (ht : s.timersRunning = true) :
    reportedRef (windowClose a b s).am = reportedRef (amWindow s) := by
  rw [windowClose_am a b ht]
  rfl

/-- The truck record a window close leaves (R18). -/
theorem windowClose_truck (a b : Reading) {s : State} (ht : s.timersRunning = true) (g : Truck) :
    (windowClose a b s).sp.trucks.get g =
      capStep s.pm.params.slide (s.cx.mode == .run)
        (truckStep s.pm.params.slide (s.cx.mode == .run) (lowSpeed (amWindow s)) (windowSlide s g)
          (eOnset (afterAm s) g)
          { s.sp.trucks.get g with isProtected := protectedBy (windowAxles s) g }) := by
  rw [windowClose_sp a b ht, spEvaluate_truck]
  rfl

/-- The slide fields a window close leaves: those of the evaluation, but for the fault time of a truck in LOCKOUT. -/
theorem windowClose_slide (a b : Reading) {s : State} (ht : s.timersRunning = true) (i : AxleNo) :
    (windowClose a b s).sp.axles.get i =
      leftSlide (windowClose a b s).sp.trucks (windowAxles s) (spAxles (afterAm s)).2 i := by
  rw [windowClose_sp a b ht, spEvaluate_axle]
  rfl

theorem windowSlide_iff (a b : Reading) {s : State} (ht : s.timersRunning = true) (g : Truck) :
    windowSlide s g = true ↔ ∃ i, truckOf i = g ∧ ((windowClose a b s).am.axles.get i).sensor ≠ .faulted ∧
      ((windowClose a b s).sp.axles.get i).sliding = true := by
  simp only [windowSlide, slidePresent, List.any_eq_true, mem_axlesOf, Bool.and_eq_true, bne_iff_ne,
    windowClose_axle a b ht, windowClose_slide a b ht, leftSlide]
  rfl

theorem protectedBy_iff (axles : PerAxle SpeedFields) (g : Truck) :
    protectedBy axles g = true ↔ ∃ i, truckOf i = g ∧ (axles.get i).sensor ≠ .faulted := by
  simp [protectedBy, mem_axlesOf]

theorem usedDemand_achieved (s : State) (g : Truck) :
    ((usedDemand s).groups.get g).achieved = if 4 ≤ s.bc.demandAge then 0 else (s.demand.groups.get g).achieved := by
  unfold usedDemand linkLost
  by_cases h : 4 ≤ s.bc.demandAge
  · cases g <;> simp [h, PerTruck.both, PerTruck.get]
  · simp [h]

/-- E_onset in the terms of R26, R57 and R63. -/
theorem eOnset_afterAm (s : State) (g : Truck) :
    eOnset (afterAm s) g =
      min 6000 ((if 4 ≤ s.bc.demandAge then 0 else (s.demand.groups.get g).achieved) +
        airEffort s.pm.params.blend (s.co.trucks.get g).measured) := by
  rw [eOnset, usedDemand_achieved]
  rfl

theorem windowClose_conds (a b : Reading) {s : State} (ht : s.timersRunning = true) (g : Truck) :
    ((windowClose a b s).sp.relieveCond.get g = true ↔
      ((windowClose a b s).sp.trucks.get g).state = .relieve ∨ ((windowClose a b s).sp.trucks.get g).state = .hold) ∧
    ((windowClose a b s).sp.lockoutCond.get g = true ↔ ((windowClose a b s).sp.trucks.get g).state = .lockout) := by
  rw [windowClose_sp a b ht]
  simp [spEvaluate]

/-- Settles O14: the transition the window close makes, and the transition itself by the truck's state. -/
theorem truckTransitionsFollowTheRules : Obligations.TruckTransitionsFollowTheRules := by
  refine ⟨fun a b g s hp ht => ?window, fun p low slide e t => ?idle, fun p slide e t hkept => ?kept⟩
  case window =>
    refine ⟨_, lowSpeed (amWindow s), windowSlide s g, protectedBy (windowAxles s) g, exec_windowClose a b hp,
      ?_, windowSlide_iff a b ht g, ?_, ?_, windowClose_conds a b ht g⟩
    · rw [← lowSpeed_windowClose a b ht]
      exact lowSpeed_iff _
    · simp only [protectedBy_iff, windowClose_axle a b ht]
    · rw [windowClose_truck a b ht, capStep_eq, eOnset_afterAm]
      simp only [truckStep_isProtected, beq_iff_eq]
      rfl
  case idle =>
    refine ⟨fun hp hs => ?_, fun hp hs => ?_, truckStep_outside p low slide e t⟩
    · rw [truckStep_unprotected p low slide e hp, if_neg hs]
      rfl
    · rw [truckStep_unprotected p low slide e hp, if_pos hs]
  case kept =>
    dsimp only
    refine ⟨fun hs hslide => ⟨?_, ?_⟩, fun hs hslide => ?_, fun hs => ?_, fun hs hlate hslide => ?_,
      fun hs hlate hslide => ?_, fun hs hlate hslide => ?_, fun hs hlate hslide => ?_,
      fun l hl hs hlate hslide => ?_, fun hs low => ?_⟩
    · rw [truckStep_idle p false slide e hkept hs, hslide]
      rfl
    · rw [truckStep_idle p true slide e hkept hs]
      rfl
    · rw [truckStep_idle p false slide e hkept hs, hslide]
      rfl
    · have hr (low : Bool) := truckStep_episode p low slide e hkept hs
      simp only [hr]
      refine ⟨rfl, rfl, rfl, rfl, rfl, rfl, fun hlate => ?_⟩
      simp only [Bool.false_eq_true, if_false, episodeStep_late slide e hlate]
      exact ⟨rfl, rfl, rfl, rfl, rfl, rfl⟩
    · rw [truckStep_episode p false slide e hkept (.inl hs)]
      exact (episodeStep_relieve slide e hlate hs).trans (if_pos hslide)
    · rw [truckStep_episode p false slide e hkept (.inl hs)]
      exact (episodeStep_relieve slide e hlate hs).trans (if_neg (by simp [hslide]))
    · rw [truckStep_episode p false slide e hkept (.inr hs), hslide]
      simp only [Bool.false_eq_true, if_false, episodeStep_slide e hlate hs]
      refine ⟨rfl, rfl, rfl, rfl, rfl, fun l hl => ?_⟩
      simp only [reenterRelieve, hl]
    · rw [truckStep_episode p false slide e hkept (.inr (.inl hs)), hslide]
      exact episodeStep_hold e hlate hs
    · rw [truckStep_episode p false slide e hkept (.inr (.inr hs)), hslide]
      simp only [Bool.false_eq_true, if_false, episodeStep_restore e hlate hs, restoreStep, hl, Option.getD_some]
      split
      · exact ⟨rfl, rfl, rfl, rfl, rfl, rfl⟩
      · rfl
    · rw [truckStep_lockout p low slide e hkept hs, lockoutStep_eq]
      split
      · exact ⟨rfl, rfl, rfl, rfl, rfl, rfl, rfl⟩
      · rfl

end Sys2Proof.Machine
end


section
/-! PROOFS. Slide detection and the sensor-fault decision at a window close (R19 to R24), and the rows of AM and SP that
name a bound. -/

namespace Sys2Proof.Machine

/-! ## The notice set -/

theorem noticeBit_getLsbD (n m : Notice) : (noticeBit n).getLsbD (noticeNumber m) = decide (n = m) := by
  cases n <;> cases m <;> decide

/-- A notice stands after a raise where it stood before, or is the one raised. -/
theorem raiseIf_notice (b : Bool) (n m : Notice) (s : State) :
    (raiseIf b n s).cx.notices.getLsbD (noticeNumber m) =
      (s.cx.notices.getLsbD (noticeNumber m) || (b && decide (n = m))) := by
  rw [raiseIf_cx]
  cases b
  · simp
  · simp [noticeBit_getLsbD]

/-! ## Slide detection on one axle -/

theorem slideAxle_faulted (p : SlideParams) (low : Bool) (v : Nat) {x : SpeedFields} (y : SlideFields)
    (h : x.sensor = .faulted) : slideAxle p low v x y = faultedSlide y := if_pos h

theorem slideAxle_low (p : SlideParams) (v : Nat) {x : SpeedFields} (y : SlideFields) (h : x.sensor ≠ .faulted) :
    slideAxle p true v x y =
      { y with creep := 0, decel := (x.prevSpeed : Int) - x.speed, decelHits := 0, sliding := false, faultTime := 0 } :=
  if_neg h

theorem slideAxle_high (p : SlideParams) (v : Nat) {x : SpeedFields} (y : SlideFields) (h : x.sensor ≠ .faulted) :
    slideAxle p false v x y =
      (let decel : Int := x.prevSpeed - x.speed
       let hits := if (p.decelOn : Int) ≤ decel then satInc 2 y.decelHits else 0
       { y with
         creep := creepOf v x.speed, decel := decel, decelHits := hits
         sliding := if onCondition p v x (creepOf v x.speed) hits then true
           else y.sliding && !(decide (creepOf v x.speed ≤ p.creepOff ∧ decel ≤ 0)) }) :=
  if_neg h

/-- The on-conditions of R22. -/
theorem onCondition_iff (p : SlideParams) (v : Nat) (x : SpeedFields) (creep hits : Nat) :
    onCondition p v x creep hits = true ↔
      p.creepOn ≤ creep ∨ (v < 1500 ∧ (p.lowSpeed : Int) ≤ (v : Int) - x.speed) ∨ hits = 2 ∨ x.sensor = .locked := by
  have hslow : x.speed + p.lowSpeed ≤ v ↔ (p.lowSpeed : Int) ≤ (v : Int) - x.speed := by omega
  simp only [onCondition, Bool.or_eq_true, decide_eq_true_eq, beq_iff_eq, hslow, or_assoc]

/-- The sliding flag of R22. -/
theorem slideAxle_sliding (p : SlideParams) (v : Nat) {x : SpeedFields} (y : SlideFields) (h : x.sensor ≠ .faulted) :
    let r := slideAxle p false v x y
    r.sliding = true ↔
      (p.creepOn ≤ r.creep ∨ (v < 1500 ∧ (p.lowSpeed : Int) ≤ (v : Int) - x.speed) ∨ r.decelHits = 2 ∨
        x.sensor = .locked) ∨ (y.sliding = true ∧ ¬(r.creep ≤ p.creepOff ∧ r.decel ≤ 0)) := by
  rw [slideAxle_high p v y h]
  dsimp only
  generalize (if (p.decelOn : Int) ≤ (x.prevSpeed : Int) - x.speed then satInc 2 y.decelHits else 0) = hits
  split
  · next hon => exact iff_of_true rfl (.inl ((onCondition_iff _ _ _ _ _).mp hon))
  · next hon =>
    rw [← onCondition_iff, or_iff_right hon]
    simp only [Bool.and_eq_true, Bool.not_eq_true', decide_eq_false_iff_not]

/-! ## The evaluation on the axles -/

/-- The slide fields step 2 gives an axle (R20 to R22). -/
def slideOf (s : State) (i : AxleNo) : SlideFields :=
  slideAxle s.pm.params.slide (lowSpeed (amWindow s)) (reportedRef (amWindow s)) ((amWindow s).axles.get i)
    (s.sp.axles.get i)

/-- Whether step 3 advances the fault time of an axle (R23). -/
def FaultCounts (s : State) (i : AxleNo) : Prop :=
  s.cx.mode = .run ∧ lowSpeed (amWindow s) = false ∧ ((amWindow s).axles.get i).sensor = .locked ∧
  ((s.sp.trucks.get (truckOf i)).state = .relieve ∨ (s.sp.trucks.get (truckOf i)).state = .hold) ∧
  ∃ j, j ≠ i ∧ truckOf j = truckOf i ∧ ((amWindow s).axles.get j).sensor = .normal ∧
    (slideOf s j).creep ≤ s.pm.params.slide.creepOff

/-- Whether step 3 makes an axle FAULTED (R23). -/
def FoundFaulty (s : State) (i : AxleNo) : Prop :=
  FaultCounts s i ∧ s.pm.params.slide.sensorFaultTime ≤ (s.sp.axles.get i).faultTime + 10

/-- Step 2's table, as the model's step 3 reads it. -/
def slideTable (s : State) : PerAxle SlideFields := PerAxle.ofFn (slideOf s)

/-- Where step 3 tests an axle. -/
def faultTested (s : State) : Bool := (s.cx.mode == .run) && !lowSpeed (amWindow s)

theorem faultCounts_iff (s : State) (i : AxleNo) :
    (faultTested s && sensorFaultCondition s.pm.params.slide s.sp.trucks (amWindow s).axles (slideTable s) i) = true ↔
      FaultCounts s i := by
  simp only [faultTested, sensorFaultCondition, companionTrue, slideTable, FaultCounts, Bool.and_eq_true, beq_iff_eq,
    Bool.or_eq_true, List.any_eq_true, mem_axlesOf, bne_iff_ne, decide_eq_true_eq, PerAxle.get_ofFn,
    Bool.not_eq_true']
  constructor
  · rintro ⟨⟨hrun, hlow⟩, ⟨hlocked, hstate⟩, j, htruck, ⟨hne, hnormal⟩, hcreep⟩
    exact ⟨hrun, hlow, hlocked, hstate, j, hne, htruck, hnormal, hcreep⟩
  · rintro ⟨hrun, hlow, hlocked, hstate, j, hne, htruck, hnormal, hcreep⟩
    exact ⟨⟨hrun, hlow⟩, ⟨hlocked, hstate⟩, j, htruck, ⟨hne, hnormal⟩, hcreep⟩

/-- An axle whose fault time advances is LOCKED, not FAULTED. -/
theorem FaultCounts.not_faulted {s : State} {i : AxleNo} (h : FaultCounts s i) :
    ((amWindow s).axles.get i).sensor ≠ .faulted := by
  obtain ⟨_, _, hlocked, _⟩ := h
  rw [hlocked]
  exact SensorState.noConfusion

theorem foundFaulty_iff (s : State) (i : AxleNo) :
    sensorFaulted s.pm.params.slide (faultTested s) s.sp.trucks (amWindow s).axles (slideTable s) i = true ↔
      FoundFaulty s i := by
  have hcounts := faultCounts_iff s i
  have htime (hc : FaultCounts s i) : ((slideTable s).get i).faultTime = (s.sp.axles.get i).faultTime := by
    have hlow : lowSpeed (amWindow s) = false := hc.2.1
    rw [slideTable, PerAxle.get_ofFn, slideOf, hlow, slideAxle_high _ _ _ hc.not_faulted]
  simp only [Bool.and_eq_true] at hcounts
  simp only [sensorFaulted, FoundFaulty, Bool.and_eq_true, bne_iff_ne, decide_eq_true_eq]
  constructor
  · rintro ⟨⟨⟨_, htest⟩, hcond⟩, ht⟩
    have hc := hcounts.mp ⟨htest, hcond⟩
    exact ⟨hc, htime hc ▸ ht⟩
  · rintro ⟨hc, ht⟩
    obtain ⟨htest, hcond⟩ := hcounts.mpr hc
    exact ⟨⟨⟨hc.not_faulted, htest⟩, hcond⟩, (htime hc).symm ▸ ht⟩

/-- The axle step 3 leaves: FAULTED where it found it so, AM's otherwise. -/
theorem windowAxles_found {s : State} {i : AxleNo} (h : FoundFaulty s i) : (windowAxles s).get i = faultedFields :=
  (PerAxle.get_ofFn _ i).trans (if_pos ((foundFaulty_iff s i).mpr h))

theorem windowAxles_not_found {s : State} {i : AxleNo} (h : ¬FoundFaulty s i) :
    (windowAxles s).get i = (amWindow s).axles.get i :=
  (PerAxle.get_ofFn _ i).trans (if_neg fun h' => h ((foundFaulty_iff s i).mp h'))

theorem windowAxles_faulted_iff (s : State) (i : AxleNo) :
    ((windowAxles s).get i).sensor = .faulted ↔ ((amWindow s).axles.get i).sensor = .faulted ∨ FoundFaulty s i := by
  by_cases h : FoundFaulty s i
  · rw [windowAxles_found h]
    exact iff_of_true rfl (.inr h)
  · rw [windowAxles_not_found h, or_iff_left h]

/-- The slide fields step 3 leaves of an axle it found faulty. -/
theorem spAxles_slide_found {s : State} {i : AxleNo} (h : FoundFaulty s i) :
    (spAxles (afterAm s)).2.get i = faultedSlide (slideOf s i) :=
  (PerAxle.get_ofFn _ i).trans ((if_pos ((foundFaulty_iff s i).mpr h)).trans
    (congrArg faultedSlide (PerAxle.get_ofFn _ i)))

/-- The slide fields step 3 leaves of an axle AM had FAULTED (R24). -/
theorem spAxles_slide_faulted {s : State} {i : AxleNo} (h : ((amWindow s).axles.get i).sensor = .faulted) :
    (spAxles (afterAm s)).2.get i = faultedSlide (s.sp.axles.get i) := by
  have hnot : ¬FoundFaulty s i := fun hf => hf.1.not_faulted h
  have hslide : slideOf s i = faultedSlide (s.sp.axles.get i) := slideAxle_faulted _ _ _ _ h
  exact (PerAxle.get_ofFn _ i).trans ((if_neg fun h' => hnot ((foundFaulty_iff s i).mp h')).trans
    ((if_pos h).trans ((PerAxle.get_ofFn _ i).trans hslide)))

/-- The slide fields step 3 leaves of an axle that stays as AM left it: step 2's, with the fault time of R23. -/
theorem spAxles_slide_kept {s : State} {i : AxleNo} (h : ((windowAxles s).get i).sensor ≠ .faulted) :
    (spAxles (afterAm s)).2.get i = { slideOf s i with
      faultTime := ((spAxles (afterAm s)).2.get i).faultTime } ∧
    (FaultCounts s i → ((spAxles (afterAm s)).2.get i).faultTime = (s.sp.axles.get i).faultTime + 10) ∧
    (¬FaultCounts s i → ((spAxles (afterAm s)).2.get i).faultTime = 0) := by
  obtain ⟨hsensor, hfound⟩ := not_or.mp (mt (windowAxles_faulted_iff s i).mpr h)
  have heq : (spAxles (afterAm s)).2.get i = { (slideTable s).get i with
      faultTime := faultTimeAfter s.pm.params.slide (faultTested s) s.sp.trucks (amWindow s).axles (slideTable s) i } :=
    (PerAxle.get_ofFn _ i).trans ((if_neg fun h' => hfound ((foundFaulty_iff s i).mp h')).trans (if_neg hsensor))
  rw [heq]
  refine ⟨by rw [slideTable, PerAxle.get_ofFn], fun hc => ?_, fun hc => if_neg (mt (faultCounts_iff s i).mp hc)⟩
  have hlow : lowSpeed (amWindow s) = false := hc.2.1
  refine (if_pos ((faultCounts_iff s i).mpr hc)).trans ?_
  rw [slideTable, PerAxle.get_ofFn, slideOf, hlow, slideAxle_high _ _ _ hsensor]

/-- A companion that counts is one of the axles and slide fields the evaluation leaves: step 3 makes none FAULTED that
is NORMAL. -/
theorem companion_iff (a b : Reading) {s : State} (ht : s.timersRunning = true) (j : AxleNo) (n : Nat) :
    ((windowClose a b s).am.axles.get j).sensor = .normal ∧ ((windowClose a b s).sp.axles.get j).creep ≤ n ↔
      ((amWindow s).axles.get j).sensor = .normal ∧ (slideOf s j).creep ≤ n := by
  rw [windowClose_axle a b ht, windowClose_slide a b ht]
  by_cases hf : FoundFaulty s j
  · have hlocked := hf.1.2.2.1
    rw [windowAxles_found hf, hlocked]
    simp [faultedFields]
  · rw [windowAxles_not_found hf]
    refine and_congr_right fun hnormal => ?_
    have hkept : ((windowAxles s).get j).sensor ≠ .faulted := by
      rw [windowAxles_not_found hf, hnormal]
      exact SensorState.noConfusion
    rw [leftSlide, (spAxles_slide_kept hkept).1]

/-- Settles O13: the detection by the low-speed inhibit, the evaluation by what step 3 finds of the axle. -/
theorem slideDetectionFollowsTheRules : Obligations.SlideDetectionFollowsTheRules := by
  refine ⟨fun p v x y h => ⟨?low, ?high⟩, fun a b s hp ht => ?window⟩
  case low =>
    rw [slideAxle_low p v y h]
    exact ⟨rfl, rfl, rfl, rfl, rfl⟩
  case high =>
    refine ⟨?_, ?_, ?_, slideAxle_sliding p v y h⟩ <;> rw [slideAxle_high p v y h] <;> rfl
  case window =>
    refine ⟨_, lowSpeed (amWindow s), exec_windowClose a b hp, ?_, fun i => ?_⟩
    · rw [← lowSpeed_windowClose a b ht]
      exact lowSpeed_iff _
    · have hcounts : (s.cx.mode = .run ∧ lowSpeed (amWindow s) = false ∧ ((amWindow s).axles.get i).sensor = .locked ∧
          ((s.sp.trucks.get (truckOf i)).state = .relieve ∨ (s.sp.trucks.get (truckOf i)).state = .hold) ∧
          ∃ j, j ≠ i ∧ truckOf j = truckOf i ∧ ((windowClose a b s).am.axles.get j).sensor = .normal ∧
            ((windowClose a b s).sp.axles.get j).creep ≤ s.pm.params.slide.creepOff) ↔ FaultCounts s i := by
        simp only [companion_iff a b ht, FaultCounts]
      dsimp only
      rw [hcounts, reportedRef_windowClose a b ht, windowClose_axle a b ht, windowAxles_faulted_iff,
        windowClose_slide a b ht]
      refine ⟨Iff.rfl, fun hf => ?_, fun hf => ?_⟩
      · have hfaulted : ((windowAxles s).get i).sensor = .faulted := (windowAxles_faulted_iff s i).mpr hf
        rcases hf with hf | hf
        · rw [leftSlide, spAxles_slide_faulted hf, hfaulted]
          simp [faultedSlide]
        · rw [leftSlide, spAxles_slide_found hf, hfaulted]
          simp [faultedSlide]
      · obtain ⟨hslide, htime, hnone⟩ := spAxles_slide_kept hf
        have hrest := windowAxles_not_found (not_or.mp (mt (windowAxles_faulted_iff s i).mpr hf)).2
        refine ⟨hrest, ?_, ?_, ?_, ?_, fun hc hl => ?_, fun h => ?_⟩
        · rw [leftSlide, hslide]; rfl
        · rw [leftSlide, hslide]; rfl
        · rw [leftSlide, hslide]; rfl
        · rw [leftSlide, hslide]; rfl
        · exact (if_neg hl).trans (htime hc)
        · by_cases hl : ((windowClose a b s).sp.trucks.get (truckOf i)).state = .lockout
          · exact if_pos hl
          · exact (if_neg hl).trans (hnone (h.resolve_right hl))

end Sys2Proof.Machine
end


section
/-! PROOFS. The rows of AM and SP that name a bound (R7, R9, R23, R28, R31, R32, R39), with their notices. -/

namespace Sys2Proof.Machine

/-- A row whose bound is reached is its whole step (assumption log 1). -/
theorem row_met {c : Instr} {s t : State} {b : Bool} (harm : exec c s = onOccasion b s t) (hb : b = true)
    (hp : s.powered = true) : exec c s = .next t := by
  rw [harm, hb, onOccasion_met t hp]

/-! ## The notices of a window close -/

theorem compose_notice (a b : Reading) {s : State} (m : Notice) (h : s.cx.notices.getLsbD (noticeNumber m) = true) :
    (compose a b s).cx.notices.getLsbD (noticeNumber m) = true := by
  simp only [compose, raiseIf_notice, h, Bool.true_or]

/-- An axle that SP had not found FAULTED raises AXLE_FAULT (R24). -/
theorem windowClose_axleFault (a b : Reading) {s : State} (ht : s.timersRunning = true) {i : AxleNo}
    (hf : ((windowAxles s).get i).sensor = .faulted) (hw : (s.sp.axles.get i).wasFaulted = false) :
    (windowClose a b s).cx.notices.getLsbD 0 = true := by
  rw [windowClose_chain a b ht]
  refine compose_notice a b .axleFault ?_
  have hnew : allAxles.any (fun i => ((spAxles (afterAm s)).1.get i).sensor == .faulted &&
      !((afterAm s).sp.axles.get i).wasFaulted) = true := by
    refine List.any_eq_true.mpr ⟨i, by cases i <;> decide, ?_⟩
    rw [Bool.and_eq_true, beq_iff_eq]
    exact ⟨hf, by rw [afterAm, hw]; rfl⟩
  simp only [spEvaluate, raiseIf_notice, hnew]
  simp

theorem spEvaluate_lockout_notice {s : State} {g : Truck} (hb : (s.sp.trucks.get g).state ≠ .lockout)
    (hl : ((spEvaluate s).sp.trucks.get g).state = .lockout) :
    (spEvaluate s).cx.notices.getLsbD (noticeNumber .lockout) = true := by
  simp only [spEvaluate, raiseIf_notice, raiseIf_sp] at hl ⊢
  generalize PerTruck.ofFn (spTruck s (spAxles s).1 (spAxles s).2) = trucks at hl ⊢
  cases g
  · simp [bne_iff_ne.mpr (show s.sp.trucks.a.state ≠ .lockout from hb), show trucks.a.state = .lockout from hl]
  · simp [bne_iff_ne.mpr (show s.sp.trucks.b.state ≠ .lockout from hb), show trucks.b.state = .lockout from hl]

/-- A truck that comes to LOCKOUT raises LOCKOUT (R40). -/
theorem windowClose_lockout_notice (a b : Reading) {s : State} (ht : s.timersRunning = true) {g : Truck}
    (hb : (s.sp.trucks.get g).state ≠ .lockout)
    (hl : ((windowClose a b s).sp.trucks.get g).state = .lockout) :
    (windowClose a b s).cx.notices.getLsbD 1 = true := by
  rw [windowClose_sp a b ht] at hl
  rw [windowClose_chain a b ht]
  exact compose_notice a b .lockout (spEvaluate_lockout_notice hb hl)

/-! ## The rows of an axle -/

theorem amWindow_quiet {s : State} {i : AxleNo} (h : (s.am.axles.get i).sensor ≠ .faulted)
    (he : (s.am.axles.get i).edgeCount = 0) :
    (amWindow s).axles.get i =
      quietWindow (reportedRef s.am) { s.am.axles.get i with prevSpeed := (s.am.axles.get i).speed } := by
  rw [amWindow_axle, axleWindow_quiet _ _ _ h he]

/-- LOCKED happens at the third quiet window at 10 km/h or above (R7 item 2). -/
theorem exec_locked {i : AxleNo} (a b : Reading) {s : State} (hp : s.powered = true) (ht : s.timersRunning = true)
    (h : (s.am.axles.get i).sensor ≠ .faulted) (he : (s.am.axles.get i).edgeCount = 0)
    (hq : 3 ≤ ((amWindow s).axles.get i).quiet ∧ ((amWindow s).axles.get i).quiet < 25 ∧ 1000 ≤ reportedRef s.am) :
    exec (.locked i a b) s = .next (windowClose a b s) := by
  refine row_met (harm := rfl) ?_ hp
  simp [ht, h, he, hq]

/-- QUIET SILENCE happens from the 25th quiet window on (R7 item 1). -/
theorem exec_quietSilence {i : AxleNo} (a b : Reading) {s : State} (hp : s.powered = true)
    (ht : s.timersRunning = true) (h : (s.am.axles.get i).sensor ≠ .faulted)
    (he : (s.am.axles.get i).edgeCount = 0) (hq : 25 ≤ ((amWindow s).axles.get i).quiet) :
    exec (.quietSilence i a b) s = .next (windowClose a b s) := by
  refine row_met (harm := rfl) ?_ hp
  simp [ht, h, he, hq]

/-- IMPLAUSIBLE FAULT happens where AM makes the axle FAULTED (R6, R9). -/
theorem exec_implausibleFault {i : AxleNo} (a b : Reading) {s : State} (hp : s.powered = true)
    (ht : s.timersRunning = true) (h : (s.am.axles.get i).sensor ≠ .faulted)
    (hf : ((amWindow s).axles.get i).sensor = .faulted) :
    exec (.implausibleFault i a b) s = .next (windowClose a b s) := by
  refine row_met (harm := rfl) ?_ hp
  simp [ht, h, hf]

/-- SENSOR FAULT TIME happens where step 3 finds the axle faulty (R23). -/
theorem exec_sensorFaultTime {i : AxleNo} (a b : Reading) {s : State} (hp : s.powered = true)
    (ht : s.timersRunning = true) (hf : FoundFaulty s i) :
    exec (.sensorFaultTime i a b) s = .next (windowClose a b s) := by
  refine row_met (harm := rfl) ?_ hp
  have hafter := (windowAxles_faulted_iff s i).mpr (.inr hf)
  simp [ht, windowClose_axle a b ht, hafter, hf.1.not_faulted]

/-- Settles O12: each bound's effect by AM's equations, the sensor-fault time's by what step 3 finds. -/
theorem axleSensorRows : Obligations.AxleSensorRows := by
  refine ⟨fun i a b s hp ht h he => ?quiet, fun i a b u s hp ht h he hm hi hu hwild => ?implausible,
    fun i j a b s hp ht hrun hlow hlocked hstate hne htruck hnormal hcreep htime => ?faultTime⟩
  case quiet =>
    have hx := amWindow_quiet h he
    have hq : ((amWindow s).axles.get i).quiet = min 255 ((s.am.axles.get i).quiet + 1) := by
      rw [hx]
      exact (quietWindow_keeps _ _).1
    refine ⟨fun hlo hhi href => ?_, fun hlo => ?_⟩
    · refine ⟨_, exec_locked a b hp ht h he (by omega), exec_windowClose a b hp, ?_⟩
      obtain ⟨hspeed, _, _, hsensor⟩ := quietWindow_held (reportedRef s.am)
        (x := { s.am.axles.get i with prevSpeed := (s.am.axles.get i).speed }) (by dsimp only; omega)
      rw [hx, hsensor, hspeed]
      exact ⟨if_pos ⟨by dsimp only; omega, href⟩, rfl⟩
    · refine ⟨_, exec_quietSilence a b hp ht h he (by omega), exec_windowClose a b hp, ?_⟩
      rw [hx]
      exact quietWindow_silent _ (by dsimp only; omega)
  case implausible =>
    have hx : (amWindow s).axles.get i = faultedFields := by
      rw [amWindow_axle, axleWindow_edges _ _ _ h he, edgeWindow_eq _ _ (by exact h)]
      simp only [hu]
      exact takeCandidate_third ⟨hm, hwild⟩ (Nat.le_of_eq hi.symm)
    have hnot : ¬FoundFaulty s i := fun hf => hf.1.not_faulted (congrArg SpeedFields.sensor hx)
    refine ⟨_, exec_implausibleFault a b hp ht h (congrArg SpeedFields.sensor hx), exec_windowClose a b hp, ?_⟩
    have haxle : (windowAxles s).get i = faultedFields := (windowAxles_not_found hnot).trans hx
    rw [windowClose_axle a b ht, haxle]
    exact ⟨rfl, rfl, rfl, rfl, windowClose_axleFault a b ht (congrArg SpeedFields.sensor haxle)⟩
  case faultTime =>
    have hslide : (slideOf s j).creep ≤ s.pm.params.slide.creepOff := by
      rw [slideOf, hlow, slideAxle_high _ _ _ (by rw [hnormal]; exact SensorState.noConfusion)]
      exact hcreep
    have hf : FoundFaulty s i := ⟨⟨hrun, hlow, hlocked, hstate, j, hne, htruck, hnormal, hslide⟩, htime⟩
    have haxle := windowAxles_found hf
    refine ⟨_, exec_sensorFaultTime a b hp ht hf, exec_windowClose a b hp, ?_⟩
    rw [windowClose_axle a b ht, windowClose_slide a b ht, haxle, leftSlide, spAxles_slide_found hf]
    exact ⟨rfl, rfl, rfl, rfl, rfl, ite_self 0, windowClose_axleFault a b ht (congrArg SpeedFields.sensor haxle)⟩

/-! ## The rows of a truck -/

/-- The truck a window close leaves in RUN while it is protected. -/
theorem windowClose_protectedTruck (a b : Reading) {s : State} (ht : s.timersRunning = true) {g : Truck}
    (hrun : s.cx.mode = .run) (hkept : protectedBy (windowAxles s) g = true) :
    (windowClose a b s).sp.trucks.get g =
      truckStep s.pm.params.slide true (lowSpeed (amWindow s)) (windowSlide s g) (eOnset (afterAm s) g)
        { s.sp.trucks.get g with isProtected := true } := by
  rw [windowClose_truck a b ht, hrun, hkept, beq_self_eq_true, capStep, truckStep_isProtected]
  rfl

theorem exec_holdTimeEnd {g : Truck} (a b : Reading) {s : State} (hp : s.powered = true)
    (hb : (s.sp.trucks.get g).state = .hold)
    (hl : ((windowClose a b s).sp.trucks.get g).state = .restore) :
    exec (.holdTimeEnd g a b) s = .next (windowClose a b s) := by
  refine row_met (harm := rfl) ?_ hp
  simp [hb, hl]

theorem exec_episodeTimeout {g : Truck} (a b : Reading) {s : State} (hp : s.powered = true)
    (hb : (s.sp.trucks.get g).state ≠ .lockout)
    (hl : ((windowClose a b s).sp.trucks.get g).state = .lockout) :
    exec (.episodeTimeout g a b) s = .next (windowClose a b s) := by
  refine row_met (harm := rfl) ?_ hp
  simp [hb, hl]

theorem exec_lockoutEnd {g : Truck} (a b : Reading) {s : State} (hp : s.powered = true) (hrun : s.cx.mode = .run)
    (hkept : ((windowClose a b s).sp.trucks.get g).isProtected = true)
    (hb : (s.sp.trucks.get g).state = .lockout)
    (hl : ((windowClose a b s).sp.trucks.get g).state = .idle) :
    exec (.lockoutEnd g a b) s = .next (windowClose a b s) := by
  refine row_met (harm := rfl) ?_ hp
  simp [hrun, hkept, hb, hl]

/-! ## The sand valves -/

/-- The direction of a valve. -/
def directionOfValve : SandDir → Direction
  | .forward => .forward
  | .reverse => .reverse

/-- A valve's request at a window close (R38). -/
def SandRequested (t s : State) (v : SandDir) : Prop :=
  s.demand.direction = directionOfValve v ∧ t.am.standstill = false ∧
  ((∃ g, (t.sp.trucks.get g).sandDemand = true) ∨ (s.demand.hostSand = true ∧ s.bc.demandAge < 4))

theorem usedDemand_direction (s : State) : (usedDemand s).direction = s.demand.direction := by
  unfold usedDemand
  split <;> rfl

theorem usedDemand_hostSand (s : State) :
    (usedDemand s).hostSand = true ↔ s.demand.hostSand = true ∧ s.bc.demandAge < 4 := by
  unfold usedDemand linkLost
  split
  · next h =>
    have : 4 ≤ s.bc.demandAge := of_decide_eq_true h
    simp
    omega
  · next h =>
    have : ¬4 ≤ s.bc.demandAge := fun h' => h (decide_eq_true h')
    exact ⟨fun h' => ⟨h', by omega⟩, fun h' => h'.1⟩

theorem PerTruck.any_iff {α : Type} (p : PerTruck α) (f : α → Bool) : p.any f = true ↔ ∃ g, f (p.get g) = true := by
  rw [PerTruck.any, Bool.or_eq_true]
  exact ⟨fun h => h.elim (⟨.a, ·⟩) (⟨.b, ·⟩), fun ⟨g, h⟩ => match g with
    | .a => .inl h
    | .b => .inr h⟩

/-- The valve a window close leaves (R38, R39). -/
theorem windowClose_valve (a b : Reading) {s : State} (ht : s.timersRunning = true) (v : SandDir) :
    ∃ request, valveOf (windowClose a b s).sp v = valveStep s.pm.params.slide request (valveOf s.sp v) ∧
      (request = true ↔ SandRequested (windowClose a b s) s v) := by
  have hstand : (windowClose a b s).am.standstill = (amWindow s).standstill := by rw [windowClose_am a b ht]
  rw [SandRequested, hstand, windowClose_sp a b ht, spEvaluate_valve]
  refine ⟨_, rfl, ?_⟩
  simp only [sandRequest, Bool.and_eq_true, Bool.or_eq_true, PerTruck.any_iff, usedDemand_hostSand, usedDemand_direction,
    beq_iff_eq, Bool.not_eq_true', and_assoc]
  cases v <;> rfl

theorem valveStep_closed (p : SlideParams) (request : Bool) {v : SandValve} (h : v.state = .closed) :
    valveStep p request v = if request then ⟨.opened, 0, v.restTime⟩ else v := by
  rw [valveStep, h]

theorem valveStep_opened (p : SlideParams) (request : Bool) {v : SandValve} (h : v.state = .opened) :
    valveStep p request v = if request then
        if p.sandMax * 1000 ≤ v.openTime + 10 then ⟨.resting, v.openTime + 10, 0⟩
        else { v with openTime := v.openTime + 10 }
      else ⟨.closed, 0, v.restTime⟩ := by
  rw [valveStep, h]

theorem valveStep_resting (p : SlideParams) (request : Bool) {v : SandValve} (h : v.state = .resting) :
    valveStep p request v =
      if p.sandRest * 1000 ≤ v.restTime + 10 then ⟨.closed, v.openTime, v.restTime + 10⟩
      else { v with restTime := v.restTime + 10 } := by
  rw [valveStep, h]

theorem exec_sandMaxTime {v : SandDir} (a b : Reading) {s : State} (hp : s.powered = true)
    (hb : (valveOf s.sp v).state = .opened) (hl : (valveOf (windowClose a b s).sp v).state = .resting) :
    exec (.sandMaxTime v a b) s = .next (windowClose a b s) := by
  refine row_met (harm := rfl) ?_ hp
  simp [hb, hl]

theorem exec_sandRestEnd {v : SandDir} (a b : Reading) {s : State} (hp : s.powered = true)
    (hb : (valveOf s.sp v).state = .resting) (hl : (valveOf (windowClose a b s).sp v).state = .closed) :
    exec (.sandRestEnd v a b) s = .next (windowClose a b s) := by
  refine row_met (harm := rfl) ?_ hp
  simp [hb, hl]

theorem windowClose_sanding (a b : Reading) {s : State} (ht : s.timersRunning = true) :
    (windowClose a b s).sp.sanding = true ↔ ∃ v, (valveOf (windowClose a b s).sp v).state = .opened := by
  rw [windowClose_sp a b ht]
  simp only [spEvaluate, raiseIf_sp, Bool.or_eq_true, beq_iff_eq]
  exact ⟨fun h => h.elim (⟨.forward, ·⟩) (⟨.reverse, ·⟩), fun ⟨v, h⟩ => match v with
    | .forward => .inl h
    | .reverse => .inr h⟩

/-- Settles O15: each row by the transition or the valve's move that the window close makes. -/
theorem slideTimerRows : Obligations.SlideTimerRows := by
  refine ⟨fun g a b s hp ht hrun hkept => ?trucks, fun v a b s hp ht => ?valves, fun a b s hp ht => ?everyClose⟩
  case trucks =>
    have htruck := windowClose_protectedTruck a b ht hrun hkept
    obtain ⟨u, hu⟩ : ∃ u : TruckRecord, u = { s.sp.trucks.get g with isProtected := true } := ⟨_, rfl⟩
    have hkeep : u.isProtected = true := by rw [hu]
    rw [← hu] at htruck
    refine ⟨fun hlow hs hslide hlate htime => ?_, fun hlow hs hlate => ?_, fun hs htime => ?_⟩
    · have hus : u.state = .hold := hu ▸ hs
      rw [hlow, hslide, truckStep_episode _ _ _ _ hkeep (.inr (.inl hus)), if_neg Bool.false_ne_true,
        episodeStep_hold _ (by rw [hu]; exact Nat.not_le.mpr hlate) hus, hu] at htruck
      dsimp only at htruck
      rw [if_pos htime] at htruck
      refine ⟨_, exec_holdTimeEnd a b hp hs (by rw [htruck]), exec_windowClose a b hp, ?_⟩
      rw [htruck]
      exact ⟨rfl, rfl, rfl⟩
    · have hus : InEpisode u := hu ▸ hs
      rw [hlow, truckStep_episode _ _ _ _ hkeep hus, if_neg Bool.false_ne_true,
        episodeStep_late _ _ (by rw [hu]; exact hlate), hu] at htruck
      have hnot : (s.sp.trucks.get g).state ≠ .lockout := by rcases hs with hs | hs | hs <;> simp [hs]
      have hlock : ((windowClose a b s).sp.trucks.get g).state = .lockout := by rw [htruck]; rfl
      refine ⟨_, exec_episodeTimeout a b hp hnot hlock, exec_windowClose a b hp, hlock, ?_, ?_, ?_,
        (windowClose_conds a b ht g).2.mpr hlock, windowClose_lockout_notice a b ht hnot hlock, fun i hi => ?_⟩
      · rw [htruck]; rfl
      · rw [htruck]; rfl
      · rw [htruck]; rfl
      · exact windowClose_lockout_faultTime a b ht (hi ▸ hlock)
    · rw [truckStep_lockout _ _ _ _ hkeep (hu ▸ hs), lockoutStep_eq, if_pos (by rw [hu]; exact htime), hu] at htruck
      have hidle : ((windowClose a b s).sp.trucks.get g).state = .idle := by rw [htruck]; rfl
      refine ⟨_, exec_lockoutEnd a b hp hrun (by rw [htruck]; rfl) hs hidle, exec_windowClose a b hp, hidle, ?_, ?_, ?_⟩
      · rw [htruck]; rfl
      · rw [htruck]; rfl
      · rw [Bool.eq_false_iff, ne_eq, (windowClose_conds a b ht g).2, hidle]
        exact CorrState.noConfusion
  case valves =>
    obtain ⟨request, hvalve, hreq⟩ := windowClose_valve a b ht v
    refine ⟨fun hs hdir hhost hstand htime => ?_, fun hs htime => ?_⟩
    · have hr : request = true := hreq.mpr ⟨hdir, by rw [windowClose_am a b ht]; exact hstand,
        .inr ((usedDemand_hostSand s).mp hhost)⟩
      rw [valveStep_opened _ _ hs, hr, if_pos rfl, if_pos htime] at hvalve
      refine ⟨_, exec_sandMaxTime a b hp hs (by rw [hvalve]), exec_windowClose a b hp, ?_⟩
      rw [hvalve]
      exact ⟨rfl, rfl⟩
    · rw [valveStep_resting _ _ hs, if_pos htime] at hvalve
      exact ⟨_, exec_sandRestEnd a b hp hs (by rw [hvalve]), exec_windowClose a b hp, by rw [hvalve]⟩
  case everyClose =>
    refine ⟨_, exec_windowClose a b hp, windowClose_sanding a b ht, fun v => ?_⟩
    obtain ⟨request, hvalve, hreq⟩ := windowClose_valve a b ht v
    have hnreq (h : ¬SandRequested (windowClose a b s) s v) : ¬request = true := mt hreq.mp h
    dsimp only
    rw [hvalve]
    refine ⟨fun hs hr => ?_, fun hs hr => ?_, fun hs hr => ?_, fun hs hr => ⟨fun htime => ?_, fun htime => ?_⟩,
      fun hs => ⟨fun htime => ?_, fun htime => ?_⟩⟩
    · rw [valveStep_closed _ _ hs, if_pos (hreq.mpr hr)]
    · rw [valveStep_closed _ _ hs, if_neg (hnreq hr)]
    · rw [valveStep_opened _ _ hs, if_neg (hnreq hr)]
    · rw [valveStep_opened _ _ hs, if_pos (hreq.mpr hr), if_neg (Nat.not_le.mpr htime)]
    · rw [valveStep_opened _ _ hs, if_pos (hreq.mpr hr), if_pos htime]
      exact ⟨rfl, rfl⟩
    · rw [valveStep_resting _ _ hs, if_neg (Nat.not_le.mpr htime)]
    · rw [valveStep_resting _ _ hs, if_pos htime]

end Sys2Proof.Machine
end


section
/-! PROOFS. CO at a window close (R101 to R113): what the composition leaves of each truck, and the row AIR FAULT. -/

namespace Sys2Proof.Machine

/-! ## The steps on one truck -/

theorem sampleCylinder_valid {x : Int} (o : TruckOutput) (h : 0 ≤ x ∧ x ≤ 1050) :
    sampleCylinder (.kPa x) o = { o with measured := min 1000 x.toNat, measuredValid := true } := by
  rw [sampleCylinder, validReading, if_pos h]

theorem sampleCylinder_invalid {x : Int} (o : TruckOutput) (h : x < 0 ∨ 1050 < x) :
    sampleCylinder (.kPa x) o = { o with measuredValid := false } := by
  rw [sampleCylinder, validReading, if_neg (by omega)]

theorem sampleCylinder_open (o : TruckOutput) :
    sampleCylinder .openCircuit o = { o with measuredValid := false } := rfl

/-- A sample changes the measured pressure and its validity alone (R102). -/
theorem sampleCylinder_frame (r : Reading) (o : TruckOutput) :
    sampleCylinder r o = { o with
      measured := (sampleCylinder r o).measured, measuredValid := (sampleCylinder r o).measuredValid } := by
  unfold sampleCylinder
  split <;> rfl

/-- The causes of PNEUMATIC (R103). -/
theorem outputModeOf_pneumatic_iff (m : Mode) (pipe moved air : Bool) :
    outputModeOf m pipe moved air = .pneumatic ↔ m = .startup ∨ pipe = true ∨ air = true ∨ moved = true := by
  unfold outputModeOf
  split
  · next h => exact iff_of_true rfl (by simpa [or_assoc] using h)
  · next h => exact iff_of_false OutputMode.noConfusion (by simpa [or_assoc] using h)

theorem OutputMode.ne_pneumatic_iff (m : OutputMode) : m ≠ .pneumatic ↔ m = .ep := by
  cases m <;> simp

theorem deviates_iff (tol cmd : Nat) (o : TruckOutput) :
    deviates tol cmd o = true ↔ o.measuredValid = false ∨ cmd + tol < o.measured ∨ o.measured + tol < cmd := by
  simp [deviates]

theorem supervise_pneumatic (p : SupervisionParams) (cmd : Nat) {o : TruckOutput} (h : o.mode = .pneumatic) :
    supervise p cmd o = { o with deviation := 0 } := by
  simp [supervise, h]

/-- The deviation timer at the air-fault time turns the truck PNEUMATIC (R111). -/
theorem supervise_fault {p : SupervisionParams} {cmd : Nat} {o : TruckOutput} (h : o.mode = .ep)
    (hd : deviates p.airFaultTolerance cmd o = true) (ht : p.airFaultTime ≤ o.deviation + 10) :
    supervise p cmd o = { o with deviation := 0, airFault := true, mode := .pneumatic } := by
  simp [supervise, h, hd, ht]

/-- An EP truck below the air-fault time stays EP (R110). -/
theorem supervise_ep {p : SupervisionParams} {cmd : Nat} {o : TruckOutput} (h : o.mode = .ep)
    (hn : ¬(deviates p.airFaultTolerance cmd o = true ∧ p.airFaultTime ≤ o.deviation + 10)) :
    supervise p cmd o = { o with
      deviation := if deviates p.airFaultTolerance cmd o then o.deviation + 10 else 0 } := by
  cases hd : deviates p.airFaultTolerance cmd o
  · simp [supervise, h, hd]
  · have ht : ¬p.airFaultTime ≤ o.deviation + 10 := fun ht => hn ⟨hd, ht⟩
    simp only [supervise, h, hd, if_true, if_neg ht]

/-! ## The truck a composition leaves -/

/-- A truck as steps 1 and 2 leave it: sampled, its mode set (R102, R103). -/
def sampledTruck (s : State) (moved : Bool) (r : Reading) (g : Truck) : TruckOutput :=
  { sampleCylinder r (s.co.trucks.get g) with
    mode := outputModeOf s.cx.mode s.bpm.sensorFault moved (s.co.trucks.get g).airFault }

theorem composeTruck_eq (s : State) (moved : Bool) (r : Reading) (g : Truck) :
    composeTruck s moved r g = driveOutputs (s.sp.trucks.get g) (composeCommand s g)
      (supervise s.pm.params.supervision (composeCommand s g) (sampledTruck s moved r g)) := by
  have hair : (sampleCylinder r (s.co.trucks.get g)).airFault = (s.co.trucks.get g).airFault := by
    rw [sampleCylinder_frame]
  rw [sampledTruck, ← hair]
  rfl

/-- What a composition leaves of a truck that steps 2 and 4 leave PNEUMATIC, and of one they leave EP. -/
inductive Composed (s : State) (moved : Bool) (r : Reading) (g : Truck) (o : TruckOutput) : Prop
  | pneumatic (mode : outputModeOf s.cx.mode s.bpm.sensorFault moved (s.co.trucks.get g).airFault = .pneumatic)
      (eq : o = { sampleCylinder r (s.co.trucks.get g) with
        mode := .pneumatic, pCmd := none, deviation := 0
        dump := (s.sp.trucks.get g).state == .relieve || (s.sp.trucks.get g).state == .hold })
  | faulted (mode : outputModeOf s.cx.mode s.bpm.sensorFault moved (s.co.trucks.get g).airFault = .ep)
      (eq : o = { sampleCylinder r (s.co.trucks.get g) with
        mode := .pneumatic, pCmd := none, deviation := 0, airFault := true
        dump := (s.sp.trucks.get g).state == .relieve || (s.sp.trucks.get g).state == .hold })
  | ep (mode : outputModeOf s.cx.mode s.bpm.sensorFault moved (s.co.trucks.get g).airFault = .ep)
      (eq : o = { sampleCylinder r (s.co.trucks.get g) with
        mode := .ep, pCmd := some (composeCommand s g), dump := false
        deviation := if deviates s.pm.params.supervision.airFaultTolerance (composeCommand s g)
            (sampleCylinder r (s.co.trucks.get g)) then (s.co.trucks.get g).deviation + 10 else 0 })

theorem sampleCylinder_deviation (r : Reading) (o : TruckOutput) : (sampleCylinder r o).deviation = o.deviation := by
  rw [sampleCylinder_frame]

theorem composeTruck_composed (s : State) (moved : Bool) (r : Reading) (g : Truck) :
    Composed s moved r g (composeTruck s moved r g) := by
  rw [composeTruck_eq]
  cases hm : outputModeOf s.cx.mode s.bpm.sensorFault moved (s.co.trucks.get g).airFault with
  | pneumatic =>
    refine .pneumatic hm ?_
    rw [supervise_pneumatic _ _ (show (sampledTruck s moved r g).mode = .pneumatic from hm)]
    simp only [driveOutputs, sampledTruck, hm]
  | ep =>
    have hep : (sampledTruck s moved r g).mode = .ep := hm
    by_cases hf : deviates s.pm.params.supervision.airFaultTolerance (composeCommand s g) (sampledTruck s moved r g) =
        true ∧ s.pm.params.supervision.airFaultTime ≤ (sampledTruck s moved r g).deviation + 10
    · refine .faulted hm ?_
      rw [supervise_fault hep hf.1 hf.2]
      rfl
    · refine .ep hm ?_
      rw [supervise_ep hep hf]
      simp only [driveOutputs, sampledTruck, hm, sampleCylinder_deviation]
      rfl

namespace Composed

variable {s : State} {moved : Bool} {r : Reading} {g : Truck} {o : TruckOutput}

theorem sampled (h : Composed s moved r g o) :
    o.measured = (sampleCylinder r (s.co.trucks.get g)).measured ∧
      o.measuredValid = (sampleCylinder r (s.co.trucks.get g)).measuredValid := by
  cases h with
  | pneumatic _ eq | faulted _ eq | ep _ eq => rw [eq]; exact ⟨rfl, rfl⟩

theorem turnsPneumatic (h : Composed s moved r g o) (hc : s.cx.mode = .startup ∨ s.bpm.sensorFault = true ∨
    (s.co.trucks.get g).airFault = true ∨ moved = true) : o.mode = .pneumatic := by
  have hmode := (outputModeOf_pneumatic_iff _ _ _ _).mpr hc
  cases h with
  | pneumatic _ eq => rw [eq]
  | faulted _ eq => rw [eq]
  | ep mode _ => exact absurd (mode.symm.trans hmode) OutputMode.noConfusion

theorem staysEp (h : Composed s moved r g o) (hm : s.cx.mode ≠ .startup) (hb : s.bpm.sensorFault = false)
    (ha : o.airFault = false) (hv : moved = false) : o.mode = .ep := by
  cases h with
  | pneumatic mode eq =>
    have hold : (s.co.trucks.get g).airFault = false := by
      rw [eq, sampleCylinder_frame] at ha
      exact ha
    have hcause := (outputModeOf_pneumatic_iff _ _ _ _).mp mode
    simp [hm, hb, hv, hold] at hcause
  | faulted _ eq => rw [eq] at ha; cases ha
  | ep _ eq => rw [eq]

theorem of_pneumatic (h : Composed s moved r g o) (hm : o.mode = .pneumatic) :
    o.pCmd = none ∧ o.deviation = 0 ∧
      (o.dump = true ↔ (s.sp.trucks.get g).state = .relieve ∨ (s.sp.trucks.get g).state = .hold) := by
  cases h with
  | pneumatic _ eq | faulted _ eq => rw [eq]; simp
  | ep _ eq => rw [eq] at hm; cases hm

theorem of_ep (h : Composed s moved r g o) (hm : o.mode = .ep) :
    o.dump = false ∧ o.pCmd = some (composeCommand s g) ∧
      o.deviation = (if o.measuredValid = false ∨
          composeCommand s g + s.pm.params.supervision.airFaultTolerance < o.measured ∨
          o.measured + s.pm.params.supervision.airFaultTolerance < composeCommand s g then
        (s.co.trucks.get g).deviation + 10 else 0) := by
  cases h with
  | pneumatic _ eq | faulted _ eq => rw [eq] at hm; cases hm
  | ep _ eq =>
    rw [eq]
    simp only [deviates_iff, and_self]

end Composed

/-! ## The command (R105 to R107) -/

theorem usedDemand_independent (s : State) : (usedDemand s).independent = s.demand.independent := by
  unfold usedDemand
  split <;> rfl

/-- The base command in the state of the window close (R105, R106). -/
def baseOf (s : State) (g : Truck) : Nat :=
  if s.bpm.emergency then s.pm.params.blend.pEm
  else min s.pm.params.blend.pFs (max (if s.cx.mode = .run then (s.bc.trucks.get g).pBlend else s.bc.pAuto)
    s.demand.independent)

theorem composeCommand_eq (s : State) (g : Truck) :
    composeCommand s g = overrideCommand s.pm.params.blend (s.cx.mode == .run) (s.sp.trucks.get g)
      ((usedDemand s).groups.get g).achieved (baseOf s g) := by
  simp only [composeCommand, baseCommand, baseOf, usedDemand_independent, beq_iff_eq]

theorem composeCommand_relieved {s : State} {g : Truck} (hr : s.cx.mode = .run)
    (h : (s.sp.trucks.get g).state = .relieve ∨ (s.sp.trucks.get g).state = .hold) : composeCommand s g = 0 := by
  rw [composeCommand_eq, hr]
  rcases h with h | h <;> simp [overrideCommand, h]

theorem composeCommand_base {s : State} {g : Truck}
    (h : s.cx.mode = .run → (s.sp.trucks.get g).state = .idle ∨ (s.sp.trucks.get g).state = .lockout) :
    composeCommand s g = baseOf s g := by
  rw [composeCommand_eq]
  by_cases hr : s.cx.mode = .run
  · rcases h hr with h | h <;> simp [overrideCommand, hr, h]
  · simp [overrideCommand, hr]

theorem composeCommand_restore {s : State} {g : Truck} {l : Nat} (hr : s.cx.mode = .run)
    (h : (s.sp.trucks.get g).state = .restore) (hl : (s.sp.trucks.get g).limit = some l) :
    composeCommand s g = if ((usedDemand s).groups.get g).achieved < l then
      min (baseOf s g) (restoreLimit s.pm.params.blend l ((usedDemand s).groups.get g).achieved) else 0 := by
  rw [composeCommand_eq, hr]
  simp [overrideCommand, h, hl]

/-! ## The window close -/

/-- The moved-in-setup latch after its test (R112). -/
def movedAfter (s : State) : Bool := s.co.movedInSetup || (s.cx.mode == .setup && !(amWindow s).standstill)

/-- The reading taken of a truck's cylinder. -/
def readingOf (a b : Reading) (g : Truck) : Reading :=
  match g with
  | .a => a
  | .b => b

/-- The state the composition of a window close finds. -/
def beforeCompose (s : State) : State := spEvaluate (afterAm s)

theorem beforeCompose_keeps (s : State) :
    (beforeCompose s).co = s.co ∧ (beforeCompose s).bpm = s.bpm ∧ (beforeCompose s).bc = s.bc ∧
      (beforeCompose s).demand = s.demand ∧ (beforeCompose s).pm = s.pm ∧ (beforeCompose s).cx.mode = s.cx.mode := by
  rw [beforeCompose, spEvaluate_frame]
  exact ⟨rfl, rfl, rfl, rfl, rfl, rfl⟩

theorem beforeCompose_am (s : State) : (beforeCompose s).am.standstill = (amWindow s).standstill := by
  rw [beforeCompose, spEvaluate_frame]
  rfl

theorem windowClose_moved (a b : Reading) {s : State} (ht : s.timersRunning = true) :
    (windowClose a b s).co.movedInSetup = movedAfter s := by
  obtain ⟨hco, _, _, _, _, hmode⟩ := beforeCompose_keeps s
  rw [windowClose_chain a b ht]
  simp only [compose, raiseIf_co]
  rw [← beforeCompose, hco, hmode, beforeCompose_am]
  rfl

/-- The truck output a window close leaves. -/
theorem windowClose_output (a b : Reading) {s : State} (ht : s.timersRunning = true) (g : Truck) :
    (windowClose a b s).co.trucks.get g = composeTruck (beforeCompose s) (movedAfter s) (readingOf a b g) g := by
  have hmoved := windowClose_moved a b ht
  rw [windowClose_chain a b ht] at hmoved ⊢
  simp only [compose, raiseIf_co] at hmoved ⊢
  rw [hmoved]
  cases g <;> rfl

theorem windowClose_movedNotice (a b : Reading) {s : State} (ht : s.timersRunning = true)
    (hb : s.co.movedInSetup = false) (h : (windowClose a b s).co.movedInSetup = true) :
    (windowClose a b s).cx.notices.getLsbD 11 = true := by
  obtain ⟨hco, _, _, _, _, hmode⟩ := beforeCompose_keeps s
  rw [windowClose_moved a b ht, movedAfter, hb, Bool.false_or] at h
  rw [windowClose_chain a b ht]
  change (compose a b (beforeCompose s)).cx.notices.getLsbD (noticeNumber .movedInSetup) = true
  simp only [compose, raiseIf_notice]
  rw [hco, hb, hmode, beforeCompose_am, h]
  simp

/-- An air fault found raises AIR_FAULT (R111). -/
theorem windowClose_airFaultNotice (a b : Reading) {s : State} (ht : s.timersRunning = true) {g : Truck}
    (hb : (s.co.trucks.get g).airFault = false) (h : ((windowClose a b s).co.trucks.get g).airFault = true) :
    (windowClose a b s).cx.notices.getLsbD 3 = true := by
  obtain ⟨hco, _⟩ := beforeCompose_keeps s
  rw [windowClose_chain a b ht] at h ⊢
  change (compose a b (beforeCompose s)).cx.notices.getLsbD (noticeNumber .airFault) = true
  change ((compose a b (beforeCompose s)).co.trucks.get g).airFault = true at h
  simp only [compose, raiseIf_notice, raiseIf_co, hco] at h ⊢
  cases g
  · simp [show s.co.trucks.a.airFault = false from hb, show (composeTruck _ _ _ Truck.a).airFault = true from h]
  · simp [show s.co.trucks.b.airFault = false from hb, show (composeTruck _ _ _ Truck.b).airFault = true from h]

theorem windowClose_composed (a b : Reading) {s : State} (ht : s.timersRunning = true) (g : Truck) :
    Composed (beforeCompose s) (movedAfter s) (readingOf a b g) g ((windowClose a b s).co.trucks.get g) := by
  rw [windowClose_output a b ht]
  exact composeTruck_composed _ _ _ _

theorem beforeCompose_base (s : State) (g : Truck) : baseOf (beforeCompose s) g = baseOf s g := by
  obtain ⟨_, hbpm, hbc, hdemand, hpm, hmode⟩ := beforeCompose_keeps s
  simp only [baseOf, hbpm, hbc, hdemand, hpm, hmode]

theorem beforeCompose_demand (s : State) : usedDemand (beforeCompose s) = usedDemand s := by
  obtain ⟨_, _, hbc, hdemand, _, _⟩ := beforeCompose_keeps s
  rw [usedDemand, hbc, hdemand]
  rfl

/-- Settles O17: the composition's result on a truck, by the output mode it leaves. -/
theorem compositionDrivesTheCylinders : Obligations.CompositionDrivesTheCylinders := by
  intro a b s hp ht
  have hstand : (windowClose a b s).am.standstill = (amWindow s).standstill := by rw [windowClose_am a b ht]
  have hmoved := windowClose_moved a b ht
  refine ⟨_, exec_windowClose a b hp, by rw [hmoved, hstand]; rfl, windowClose_movedNotice a b ht, fun g => ?_⟩
  obtain ⟨hco, hbpm, hbc, hdemand, hpm, hmode⟩ := beforeCompose_keeps s
  have hcomp := windowClose_composed a b ht g
  have hsp : (windowClose a b s).sp = (beforeCompose s).sp := windowClose_sp a b ht
  have hsampled := hcomp.sampled
  rw [hco] at hsampled
  obtain ⟨hmeasured, hvalid⟩ := hsampled
  dsimp only
  refine ⟨fun x hx => ⟨fun hin => ?_, fun hout => ?_⟩, fun hopen => ?_, fun hcause => ?_, fun hm hb ha hv => ?_,
    fun hpneu => ?_, fun hep => ?_⟩
  · rw [hmeasured, hvalid, show readingOf a b g = .kPa x from hx, sampleCylinder_valid _ hin]
    exact ⟨rfl, rfl⟩
  · rw [hmeasured, hvalid, show readingOf a b g = .kPa x from hx, sampleCylinder_invalid _ hout]
    exact ⟨rfl, rfl⟩
  · rw [hmeasured, hvalid, show readingOf a b g = .openCircuit from hopen, sampleCylinder_open]
    exact ⟨rfl, rfl⟩
  · exact hcomp.turnsPneumatic (by rwa [hmode, hbpm, hco, ← hmoved])
  · exact hcomp.staysEp (hmode ▸ hm) (hbpm ▸ hb) ha (hmoved ▸ hv)
  · rw [hsp]
    exact hcomp.of_pneumatic hpneu
  · obtain ⟨hdump, hcmd, hdev⟩ := hcomp.of_ep hep
    rw [hco, hpm] at hdev
    rw [hsp, hcmd]
    refine ⟨hdump, fun hr hs => ?_, fun hr hs => ?_, fun l hr hs hl => ?_, fun hset => ?_, fun c hc => ?_⟩
    · rw [composeCommand_relieved (hmode.trans hr) hs]
    · rw [composeCommand_base (fun _ => hs), beforeCompose_base]
      rfl
    · rw [composeCommand_restore (hmode.trans hr) hs hl, beforeCompose_base, beforeCompose_demand, hpm]
      rfl
    · rw [composeCommand_base (fun hr => absurd (hmode.symm.trans hr) (by rw [hset]; exact Mode.noConfusion)),
        beforeCompose_base]
      rfl
    · rw [← Option.some.inj hc]
      exact hdev

/-- AIR FAULT happens where the composition sets the latch (R111). -/
theorem exec_airFault {g : Truck} (a b : Reading) {s : State} (hp : s.powered = true)
    (hb : (s.co.trucks.get g).airFault = false) (h : ((windowClose a b s).co.trucks.get g).airFault = true) :
    exec (.airFault g a b) s = .next (windowClose a b s) := by
  refine row_met (harm := rfl) ?_ hp
  simp [hb, h]

/-- Settles O18: the truck was EP by step 2, and step 4 turns it PNEUMATIC. -/
theorem airFaultTurnsPneumatic : Obligations.AirFaultTurnsPneumatic := by
  intro g a b s hp ht hm hb ha hv hset hdev htime
  obtain ⟨hco, hbpm, _, _, hpm, hmode⟩ := beforeCompose_keeps s
  have hmoved : movedAfter s = false := by
    rw [movedAfter, hv, Bool.false_or]
    by_cases hs : s.cx.mode = .setup
    · rw [hset hs]
      simp
    · rw [beq_false_of_ne hs, Bool.false_and]
  have hep : outputModeOf s.cx.mode s.bpm.sensorFault false (s.co.trucks.get g).airFault = .ep := by
    rw [← OutputMode.ne_pneumatic_iff, ne_eq, outputModeOf_pneumatic_iff, hb, ha]
    simp [hm]
  have hsampled : sampledTruck (beforeCompose s) false (readingOf a b g) g =
      { sampleCylinder (readingOf a b g) (s.co.trucks.get g) with mode := .ep } := by
    rw [sampledTruck, hco, hbpm, hmode, hep]
  have hout : (windowClose a b s).co.trucks.get g = driveOutputs ((beforeCompose s).sp.trucks.get g)
      (composeCommand (beforeCompose s) g) { sampleCylinder (readingOf a b g) (s.co.trucks.get g) with
        deviation := 0, airFault := true, mode := .pneumatic } := by
    rw [windowClose_output a b ht, hmoved, composeTruck_eq, hsampled, hpm,
      supervise_fault rfl (by exact hdev) (by simpa only [sampleCylinder_deviation] using htime)]
  have hair : ((windowClose a b s).co.trucks.get g).airFault = true := by rw [hout]; rfl
  refine ⟨_, exec_airFault a b hp ha hair, exec_windowClose a b hp, hair, ?_, ?_, ?_,
    windowClose_airFaultNotice a b ht ha hair⟩
  · rw [hout]; rfl
  · rw [hout]; rfl
  · rw [hout]; rfl

end Sys2Proof.Machine
end


section
/-! PROOFS. BPM (Chapter 3): what a sample leaves of the brake pipe record and of the notice set. -/

namespace Sys2Proof.Machine

/-! ## The steps of a sample -/

theorem takeReading_valid {r : Reading} {q : Nat} (b : BrakePipe) (h : validReading r = some q) :
    takeReading r b = { b with history := pushHistory b.history b.pressure, pressure := q, invalidCount := 0 } := by
  simp [takeReading, h]

theorem takeReading_invalid {r : Reading} (b : BrakePipe) (h : validReading r = none) :
    takeReading r b = { b with
      history := pushHistory b.history b.pressure
      invalidCount := min 5 (b.invalidCount + 1), sensorFault := b.sensorFault || decide (4 ≤ b.invalidCount) } := by
  have hfive : (satInc 5 b.invalidCount == 5) = decide (4 ≤ b.invalidCount) := by
    rw [satInc, Bool.eq_iff_iff, beq_iff_eq, decide_eq_true_eq]
    omega
  simp only [takeReading, h, hfive]
  rfl

/-- The sample before its latch (R43 to R47). -/
def pipeReading (p : PipeParams) (r : Reading) (b : BrakePipe) : BrakePipe :=
  deriveFall p (validReading r).isSome (takeReading r b)

/-- An invalid sample shows no fall (R47). -/
theorem pipeReading_invalid (p : PipeParams) {r : Reading} (b : BrakePipe) (h : validReading r = none) :
    pipeReading p r b = { b with
      history := pushHistory b.history b.pressure
      invalidCount := min 5 (b.invalidCount + 1), sensorFault := b.sensorFault || decide (4 ≤ b.invalidCount)
      reduction := reductionOf p b.pressure, rateHits := 0 } := by
  rw [pipeReading, takeReading_invalid b h, h]
  rfl

theorem pipeReading_valid (p : PipeParams) {r : Reading} {q : Nat} (b : BrakePipe) (h : validReading r = some q) :
    pipeReading p r b = { b with
      history := pushHistory b.history b.pressure, pressure := q, invalidCount := 0, reduction := reductionOf p q
      rateHits := if (pushHistory b.history b.pressure).length = 10 ∧
          q + p.emFall ≤ (pushHistory b.history b.pressure).headD 0 then min 2 (b.rateHits + 1) else 0 } := by
  rw [pipeReading, takeReading_valid b h, h, deriveFall]
  simp only [rateHitsAfter, Option.isSome_some, Bool.true_and, Bool.and_eq_true, beq_iff_eq, decide_eq_true_eq]
  rfl

theorem triggersHold_iff (p : PipeParams) (host : Bool) (b : BrakePipe) :
    triggersHold p host b = true ↔ b.pressure < p.emThreshold ∨ host = true ∨ b.rateHits = 2 := by
  simp [triggersHold, or_assoc]

/-- Where no trigger holds, the recovery condition is the rest of R49. -/
theorem recoveryHolds_iff {p : PipeParams} {host : Bool} {b : BrakePipe} (standstill : Bool)
    (h : ¬triggersHold p host b = true) :
    recoveryHolds p standstill host b = true ↔
      p.pRecover ≤ b.pressure ∧ standstill = true ∧ b.sensorFault = false := by
  have hhost : host = false := by
    rw [triggersHold_iff, not_or, not_or, Bool.not_eq_true] at h
    exact h.2.1
  subst hhost
  simp [recoveryHolds, Bool.not_eq_true _ ▸ h, and_assoc]

theorem latchEmergency_triggered {p : PipeParams} (standstill : Bool) {host : Bool} {b : BrakePipe}
    (h : triggersHold p host b = true) :
    latchEmergency p standstill host b = { b with emergency := true, recovery := 0 } := if_pos h

theorem latchEmergency_clear {p : PipeParams} (standstill : Bool) {host : Bool} {b : BrakePipe}
    (h : ¬triggersHold p host b = true) (he : b.emergency = false) : latchEmergency p standstill host b = b := by
  rw [latchEmergency, if_neg h, he, if_neg Bool.false_ne_true]

/-- The recovery timer runs on its condition and clears the latch at 10000 (R49). -/
theorem latchEmergency_recovering {p : PipeParams} {standstill host : Bool} {b : BrakePipe}
    (h : ¬triggersHold p host b = true) (he : b.emergency = true)
    (hr : p.pRecover ≤ b.pressure ∧ standstill = true ∧ b.sensorFault = false) :
    latchEmergency p standstill host b = if 10000 ≤ b.recovery + 10 then { b with emergency := false, recovery := 0 }
      else { b with recovery := b.recovery + 10 } := by
  rw [latchEmergency, if_neg h, if_pos he, if_pos ((recoveryHolds_iff standstill h).mpr hr)]

theorem latchEmergency_held {p : PipeParams} {standstill host : Bool} {b : BrakePipe}
    (h : ¬triggersHold p host b = true) (he : b.emergency = true)
    (hr : ¬(p.pRecover ≤ b.pressure ∧ standstill = true ∧ b.sensorFault = false)) :
    latchEmergency p standstill host b = { b with recovery := 0 } := by
  rw [latchEmergency, if_neg h, if_pos he, if_neg (mt (recoveryHolds_iff standstill h).mp hr)]

/-- The latch moves nothing but itself and the recovery timer. -/
theorem latchEmergency_frame (p : PipeParams) (standstill host : Bool) (b : BrakePipe) :
    latchEmergency p standstill host b = { b with
      emergency := (latchEmergency p standstill host b).emergency
      recovery := (latchEmergency p standstill host b).recovery } := by
  unfold latchEmergency
  split
  · rfl
  · split
    · split
      · split <;> rfl
      · rfl
    · rfl

/-! ## The whole sample -/

/-- The record a sample finds before its latch. -/
def readPipe (r : Reading) (s : State) : BrakePipe := pipeReading s.pm.params.pipe r s.bpm

/-- The record a sample leaves. -/
def sampledPipe (r : Reading) (s : State) : BrakePipe :=
  latchEmergency s.pm.params.pipe s.am.standstill s.demand.hostEmergency (readPipe r s)

theorem exec_bpSample (r : Reading) {s : State} (hp : s.powered = true) :
    exec (.bpSample r) s = .next (bpmSample r s) := by
  have harm : exec (.bpSample r) s = done s (bpmSample r s) := rfl
  rw [harm, done_powered _ hp]

/-- The notice set a sample leaves, `faulted` and `latched` the onsets of its two latches (R44, R48). -/
def sampleNotices (faulted latched : Bool) (w : Word16) : Word16 :=
  let w := if faulted then w ||| 0x0010 else w
  if latched then w ||| 0x0040 else w

theorem sampleNotices_eq (faulted latched : Bool) (w : Word16) :
    sampleNotices faulted latched w =
      (let v := if latched then w ||| noticeBit .emergency else w
       if faulted then v ||| noticeBit .bpSensorFault else v) := by
  cases faulted <;> cases latched
  · rfl
  · rfl
  · rfl
  · simp only [sampleNotices, if_true, BitVec.or_assoc]
    rfl

theorem bpmSample_eq (r : Reading) {s : State} (ht : s.timersRunning = true) :
    bpmSample r s = { s with bpm := sampledPipe r s, cx := { s.cx with
      notices := sampleNotices (!s.bpm.sensorFault && (sampledPipe r s).sensorFault)
        (!s.bpm.emergency && (sampledPipe r s).emergency) s.cx.notices } } := by
  have hb : samplePipe s.pm.params.pipe s.am.standstill s.demand.hostEmergency r s.bpm = sampledPipe r s := rfl
  rw [bpmSample, if_pos ht, hb, raiseIf_eq, raiseIf_eq, sampleNotices_eq]

theorem bpmSample_bpm (r : Reading) {s : State} (ht : s.timersRunning = true) :
    (bpmSample r s).bpm = sampledPipe r s := by
  rw [bpmSample_eq r ht]

/-- What a sample at which no trigger holds leaves of the latch and its timer. -/
theorem sampledPipe_untriggered {r : Reading} {s : State}
    (h : ¬triggersHold s.pm.params.pipe s.demand.hostEmergency (readPipe r s) = true) :
    ((readPipe r s).emergency = false →
      (sampledPipe r s).emergency = false ∧ (sampledPipe r s).recovery = (readPipe r s).recovery) ∧
    ((readPipe r s).emergency = true →
      (s.pm.params.pipe.pRecover ≤ (readPipe r s).pressure ∧ s.am.standstill = true ∧
          (readPipe r s).sensorFault = false →
        if 10000 ≤ (readPipe r s).recovery + 10 then (sampledPipe r s).emergency = false ∧ (sampledPipe r s).recovery = 0
        else (sampledPipe r s).emergency = true ∧ (sampledPipe r s).recovery = (readPipe r s).recovery + 10) ∧
      (¬(s.pm.params.pipe.pRecover ≤ (readPipe r s).pressure ∧ s.am.standstill = true ∧
          (readPipe r s).sensorFault = false) →
        (sampledPipe r s).emergency = true ∧ (sampledPipe r s).recovery = 0)) := by
  refine ⟨fun he => ?_, fun he => ⟨fun hr => ?_, fun hr => ?_⟩⟩
  · rw [sampledPipe, latchEmergency_clear _ h he]
    exact ⟨he, rfl⟩
  · rw [sampledPipe, latchEmergency_recovering h he hr]
    split
    · exact ⟨rfl, rfl⟩
    · exact ⟨he, rfl⟩
  · rw [sampledPipe, latchEmergency_held h he hr]
    exact ⟨he, rfl⟩

theorem sampledPipe_triggered {r : Reading} {s : State}
    (h : triggersHold s.pm.params.pipe s.demand.hostEmergency (readPipe r s) = true) :
    (sampledPipe r s).emergency = true ∧ (sampledPipe r s).recovery = 0 := by
  rw [sampledPipe, latchEmergency_triggered _ h]
  exact ⟨rfl, rfl⟩

/-- A sample leaves the record it read but for the latch and its timer. -/
theorem sampledPipe_frame (r : Reading) (s : State) :
    sampledPipe r s = { readPipe r s with
      emergency := (sampledPipe r s).emergency, recovery := (sampledPipe r s).recovery } :=
  latchEmergency_frame _ _ _ _

/-- What the latch leaves as the sample read it. -/
theorem sampledPipe_read (r : Reading) (s : State) :
    (sampledPipe r s).pressure = (readPipe r s).pressure ∧ (sampledPipe r s).invalidCount = (readPipe r s).invalidCount ∧
      (sampledPipe r s).sensorFault = (readPipe r s).sensorFault ∧
      (sampledPipe r s).history = (readPipe r s).history ∧ (sampledPipe r s).reduction = (readPipe r s).reduction ∧
      (sampledPipe r s).rateHits = (readPipe r s).rateHits := by
  rw [sampledPipe_frame]
  exact ⟨rfl, rfl, rfl, rfl, rfl, rfl⟩

/-- A reading moves neither the latch nor its timer. -/
theorem readPipe_latch (r : Reading) (s : State) :
    (readPipe r s).emergency = s.bpm.emergency ∧ (readPipe r s).recovery = s.bpm.recovery :=
  takeReading_keeps r s.bpm

theorem invalid_iff (r : Reading) :
    (r = .openCircuit ∨ ∃ p : Int, r = .kPa p ∧ (p < 0 ∨ 1050 < p)) ↔ validReading r = none := by
  cases r with
  | openCircuit => exact iff_of_true (.inl rfl) rfl
  | kPa p =>
    have hout : (Reading.kPa p = .openCircuit ∨ ∃ q : Int, Reading.kPa p = .kPa q ∧ (q < 0 ∨ 1050 < q)) ↔
        p < 0 ∨ 1050 < p :=
      ⟨fun h => h.elim Reading.noConfusion fun ⟨q, e, hq⟩ => Reading.kPa.inj e ▸ hq, fun h => .inr ⟨p, rfl, h⟩⟩
    rw [hout, validReading]
    split
    · next h => exact iff_of_false (by omega) (Option.some_ne_none _)
    · next h => exact iff_of_true (by omega) rfl

/-- Settles O20: the sample by its validity, its latch by whether a trigger holds. -/
theorem pipeSampleFollowsTheRules : Obligations.PipeSampleFollowsTheRules := by
  refine ⟨fun p s hp ht h0 h1 => ?valid, fun r s hp ht hr => ?invalid⟩
  case valid =>
    have hv : validReading (.kPa p) = some (min 1000 p.toNat) := if_pos ⟨h0, h1⟩
    have hread := pipeReading_valid s.pm.params.pipe s.bpm hv
    obtain ⟨hpress, hcount, hfault, hhist, hred, hhits⟩ := sampledPipe_read (.kPa p) s
    obtain ⟨hemerg, hrec⟩ := readPipe_latch (.kPa p) s
    rw [readPipe, hread] at hpress hcount hfault hhist hred hhits
    dsimp only at hpress hcount hfault hhist hred hhits
    have htrig : min 1000 p.toNat < s.pm.params.pipe.emThreshold ∨ s.demand.hostEmergency = true ∨
        (sampledPipe (.kPa p) s).rateHits = 2 ↔
          triggersHold s.pm.params.pipe s.demand.hostEmergency (readPipe (.kPa p) s) = true := by
      rw [triggersHold_iff, readPipe, hread, hhits]
    refine ⟨_, exec_bpSample _ hp, ?_⟩
    rw [bpmSample_eq _ ht, hfault, Bool.not_and_self]
    dsimp only
    rw [htrig, hhist]
    refine ⟨rfl, hpress, hcount, rfl, rfl, hred, hhits, fun htr => ?_, fun htr => ?_⟩
    · obtain ⟨hon, hzero⟩ := sampledPipe_triggered htr
      refine ⟨hon, hzero, ?_⟩
      rw [hon]
      cases s.bpm.emergency <;> rfl
    · have hcase := sampledPipe_untriggered htr
      have hoff : (!s.bpm.emergency && (sampledPipe (.kPa p) s).emergency) = false := by
        cases he : s.bpm.emergency
        · rw [(hcase.1 (hemerg.trans he)).1]; rfl
        · rfl
      rw [hoff]
      rw [hemerg, hrec, readPipe, hread] at hcase
      exact ⟨rfl, hcase⟩
  case invalid =>
    have hv := (invalid_iff r).mp hr
    have hread := pipeReading_invalid s.pm.params.pipe s.bpm hv
    obtain ⟨hpress, hcount, hfault, hhist, hred, hhits⟩ := sampledPipe_read r s
    obtain ⟨hemerg, hrec⟩ := readPipe_latch r s
    rw [readPipe, hread] at hpress hcount hfault hhist hred hhits
    dsimp only at hpress hcount hfault hhist hred hhits
    have htrig : s.bpm.pressure < s.pm.params.pipe.emThreshold ∨ s.demand.hostEmergency = true ↔
          triggersHold s.pm.params.pipe s.demand.hostEmergency (readPipe r s) = true := by
      rw [triggersHold_iff, readPipe, hread]
      simp
    refine ⟨_, exec_bpSample _ hp, ?_⟩
    rw [bpmSample_eq _ ht]
    have honset : (!s.bpm.sensorFault && (sampledPipe r s).sensorFault) = true ↔
        s.bpm.sensorFault = false ∧ 4 ≤ s.bpm.invalidCount := by
      rw [hfault]
      cases s.bpm.sensorFault <;> simp
    have hlatch : (!s.bpm.emergency && (sampledPipe r s).emergency) = true ↔ s.bpm.emergency = false ∧
        triggersHold s.pm.params.pipe s.demand.hostEmergency (readPipe r s) = true := by
      by_cases htr : triggersHold s.pm.params.pipe s.demand.hostEmergency (readPipe r s) = true
      · simp [(sampledPipe_triggered htr).1, htr]
      · cases he : s.bpm.emergency
        · simp [((sampledPipe_untriggered htr).1 (hemerg.trans he)).1, htr]
        · simp
    refine ⟨rfl, hpress, hcount, hred, hhits, hhist, hfault, ?_, fun htr => sampledPipe_triggered (htrig.mp htr),
      fun htr => ?_⟩
    · simp only [sampleNotices, honset, hlatch, ← htrig]
    · have hcase := sampledPipe_untriggered (mt htrig.mpr htr)
      dsimp only
      rw [hfault]
      rw [hemerg, hrec, readPipe, hread] at hcase
      exact hcase

/-- Settles O21: each bound as the sample reaches it. -/
theorem pipeTriggerRows : Obligations.PipeTriggerRows := by
  refine ⟨⟨fun r s hp ht hv hcount hf => ?fault, fun r q s hp ht hv hlen hfall hhits => ?rate⟩,
    fun r q s hp ht hv hrec hthr hstand hhost hf hhits hem htime => ?recovery⟩
  case fault =>
    have hread := pipeReading_invalid s.pm.params.pipe s.bpm hv
    obtain ⟨hpress, hc, hfault, _, _, hrate⟩ := sampledPipe_read r s
    rw [readPipe, hread] at hpress hc hfault hrate
    dsimp only at hpress hc hfault hrate
    rw [hcount] at hfault hc
    have hset : (sampledPipe r s).sensorFault = true := by rw [hfault]; simp
    have hbpm := bpmSample_bpm r ht
    refine ⟨_, row_met (harm := rfl) (by rw [hbpm, hset, hf]; rfl) hp, exec_bpSample r hp, ?_⟩
    rw [hbpm]
    refine ⟨hset, hc, hpress, hrate, ?_⟩
    rw [bpmSample_eq r ht, hset, hf]
    cases (!s.bpm.emergency && (sampledPipe r s).emergency) <;> simp [sampleNotices]
  case rate =>
    have hread := pipeReading_valid s.pm.params.pipe s.bpm hv
    obtain ⟨_, _, _, _, _, hrate⟩ := sampledPipe_read r s
    have hten : (pushHistory s.bpm.history s.bpm.pressure).length = 10 := by
      rw [pushHistory, List.length_drop, List.length_append, List.length_singleton]
      omega
    have htwo : (readPipe r s).rateHits = 2 := by
      rw [readPipe, hread]
      dsimp only
      rw [if_pos ⟨hten, hfall⟩]
      omega
    rw [htwo] at hrate
    have hbpm := bpmSample_bpm r ht
    obtain ⟨hon, hzero⟩ := sampledPipe_triggered ((triggersHold_iff s.pm.params.pipe _ _).mpr (.inr (.inr htwo)))
    refine ⟨_, row_met (harm := rfl) (by rw [hbpm, hrate, ht]; rfl) hp, exec_bpSample r hp, ?_⟩
    rw [hbpm]
    refine ⟨hrate, hon, hzero, fun he => ?_⟩
    rw [bpmSample_eq r ht, hon, he]
    cases (!s.bpm.sensorFault && (sampledPipe r s).sensorFault) <;> simp [sampleNotices]
  case recovery =>
    have hread := pipeReading_valid s.pm.params.pipe s.bpm hv
    obtain ⟨hpress, _, hfault, _, _, hrate⟩ := sampledPipe_read r s
    obtain ⟨hemerg, hrecov⟩ := readPipe_latch r s
    have hq : (readPipe r s).pressure = q := by rw [readPipe, hread]
    have hsf : (readPipe r s).sensorFault = false := by rw [readPipe, hread]; exact hf
    have hfew : (readPipe r s).rateHits ≠ 2 := by
      rw [readPipe, hread, hhits]
      dsimp only
      split <;> omega
    have hnot : ¬triggersHold s.pm.params.pipe s.demand.hostEmergency (readPipe r s) = true := by
      rw [triggersHold_iff, hq, hhost]
      simp only [Bool.false_eq_true, hfew, or_false]
      omega
    have hcase := (sampledPipe_untriggered hnot).2 (hemerg.trans hem)
    have hend := hcase.1 ⟨hq ▸ hrec, hstand, hsf⟩
    rw [if_pos (by rw [hrecov]; omega)] at hend
    obtain ⟨hoff, hzero⟩ := hend
    have hbpm := bpmSample_bpm r ht
    refine ⟨_, row_met (harm := rfl) (by rw [hbpm, hoff, hem]; rfl) hp, exec_bpSample r hp, ?_⟩
    rw [hbpm]
    refine ⟨hoff, hzero, hpress.trans hq, ?_⟩
    rw [bpmSample_eq r ht, hoff, hfault, hsf]
    simp [sampleNotices]

end Sys2Proof.Machine
end


section
/-! PROOFS. The dynamic-brake curve and GT (Chapter 5). -/

namespace Sys2Proof.Machine

/-! ## The curve (R85) -/

theorem speedsRise_cons {a b : Breakpoint} {l : List Breakpoint} :
    speedsRise (a :: b :: l) = true ↔ a.speed < b.speed ∧ speedsRise (b :: l) = true := by
  simp [speedsRise]

/-- On a rising curve the first breakpoint has the least speed. -/
theorem speed_le_of_speedsRise {a : Breakpoint} {l : List Breakpoint} (h : speedsRise (a :: l) = true) (n : Nat)
    (hn : n < (a :: l).length) : a.speed ≤ ((a :: l)[n]).speed := by
  induction l generalizing a n with
  | nil =>
    obtain rfl : n = 0 := Nat.lt_one_iff.mp hn
    exact Nat.le_refl _
  | cons b l ih =>
    obtain ⟨hab, hrest⟩ := speedsRise_cons.mp h
    cases n with
    | zero => exact Nat.le_refl _
    | succ n => exact Nat.le_trans (Nat.le_of_lt hab) (ih hrest n (Nat.succ_lt_succ_iff.mp hn))

/-- Between a breakpoint and the next the effort is that of their segment. -/
theorem effortAlong_segment (v : Nat) {a : Breakpoint} {l : List Breakpoint} (h : speedsRise (a :: l) = true) (n : Nat)
    (hn : n < l.length) (hlo : ((a :: l)[n]'(Nat.lt_succ_of_lt hn)).speed ≤ v) (hhi : v < l[n].speed) :
    effortAlong v a l = segmentEffort ((a :: l)[n]'(Nat.lt_succ_of_lt hn)) l[n] v := by
  induction l generalizing a n with
  | nil => exact absurd hn (Nat.not_lt_zero n)
  | cons b l ih =>
    obtain ⟨_, hrest⟩ := speedsRise_cons.mp h
    cases n with
    | zero => exact if_pos hhi
    | succ n =>
      have hb : b.speed ≤ v := Nat.le_trans (speed_le_of_speedsRise hrest n _) hlo
      exact (if_neg (Nat.not_lt.mpr hb)).trans (ih hrest n (Nat.succ_lt_succ_iff.mp hn) hlo hhi)

/-- From the last breakpoint on the effort is the last effort. -/
theorem effortAlong_last {v : Nat} {a : Breakpoint} {l : List Breakpoint} (h : speedsRise (a :: l) = true)
    (hv : ((a :: l).getLast (List.cons_ne_nil a l)).speed ≤ v) :
    effortAlong v a l = ((a :: l).getLast (List.cons_ne_nil a l)).effort := by
  induction l generalizing a with
  | nil => rfl
  | cons b l ih =>
    obtain ⟨_, hrest⟩ := speedsRise_cons.mp h
    rw [List.getLast_cons_cons] at hv ⊢
    have hb : b.speed ≤ v := by
      refine Nat.le_trans (speed_le_of_speedsRise hrest l.length (Nat.lt_succ_self _)) ?_
      rw [List.getLast_eq_getElem] at hv
      exact hv
    exact (if_neg (Nat.not_lt.mpr hb)).trans (ih hrest hv)

/-- A share x / m of a difference, toward zero, lies between 0 and the difference. -/
theorem tdiv_share_between (d : Int) {x m : Int} (hx : 0 ≤ x) (hm : x < m) :
    min 0 d ≤ (d * x).tdiv m ∧ (d * x).tdiv m ≤ max 0 d := by
  have key (e : Int) (he : 0 ≤ e) : 0 ≤ (e * x).tdiv m ∧ (e * x).tdiv m ≤ e := by
    rw [Int.tdiv_eq_ediv_of_nonneg (Int.mul_nonneg he hx)]
    exact ⟨Int.ediv_nonneg (Int.mul_nonneg he hx) (by omega),
      Int.ediv_le_of_le_mul (by omega) (Int.mul_le_mul_of_nonneg_left (Int.le_of_lt hm) he)⟩
  rcases Int.le_total 0 d with hd | hd
  · obtain ⟨h0, h1⟩ := key d hd
    omega
  · obtain ⟨h0, h1⟩ := key (-d) (by omega)
    rw [Int.neg_mul, Int.neg_tdiv] at h0 h1
    omega

/-- The effort of a segment in integers, and its bounds. -/
theorem segmentEffort_spec {a b : Breakpoint} {v : Nat} (hlo : a.speed ≤ v) (hhi : v < b.speed) :
    (segmentEffort a b v : Int) = a.effort +
        (((b.effort : Int) - a.effort) * ((v : Int) - a.speed)).tdiv ((b.speed : Int) - a.speed) ∧
      min a.effort b.effort ≤ segmentEffort a b v ∧ segmentEffort a b v ≤ max a.effort b.effort := by
  have hb := tdiv_share_between ((b.effort : Int) - a.effort) (x := (v : Int) - a.speed)
    (m := (b.speed : Int) - a.speed) (by omega) (by omega)
  rw [segmentEffort]
  omega

theorem curvePoint_castSucc (t : ThermalParams) (n : Fin 7) :
    t.point n.castSucc = (t.c1 :: [t.c2, t.c3, t.c4, t.c5, t.c6, t.c7, t.c8])[n.val]'(by simp; omega) := by
  match n with
  | 0 | 1 | 2 | 3 | 4 | 5 | 6 => rfl

theorem curvePoint_succ (t : ThermalParams) (n : Fin 7) :
    t.point n.succ = [t.c2, t.c3, t.c4, t.c5, t.c6, t.c7, t.c8][n.val] := by
  match n with
  | 0 | 1 | 2 | 3 | 4 | 5 | 6 => rfl

/-- Settles O28. -/
theorem curveEffortInterpolates : Obligations.CurveEffortInterpolates := by
  intro t v _ hrise
  refine ⟨fun hlast => effortAlong_last hrise hlast, fun n hlo hhi => ?_⟩
  · rw [curvePoint_castSucc] at hlo ⊢
    rw [curvePoint_succ] at hhi ⊢
    rw [curveEffort, effortAlong_segment v hrise n.val n.isLt hlo hhi]
    exact segmentEffort_spec hlo hhi

/-! ## The thermal update (R88 to R95) -/

/-- The group records an update leaves. -/
def thermalGroups (s : State) : PerTruck ThermalGroup :=
  PerTruck.ofFn fun g =>
    thermalStep s.pm.params (ambientOf s) (reportedRef s.am) ((usedDemand s).groups.get g) (s.gt.get g)

theorem exec_thermalUpdate {s : State} (hp : s.powered = true) (ht : s.timersRunning = true) :
    exec .thermalUpdate s = .next (raiseIf ((!s.gt.a.cutout && (thermalGroups s).a.cutout) ||
      (!s.gt.b.cutout && (thermalGroups s).b.cutout)) .gridCutout { s with gt := thermalGroups s }) := by
  have harm : exec .thermalUpdate s = done s (thermalUpdate s) := rfl
  rw [harm, done_powered _ hp, thermalUpdate, if_pos ht]
  rfl

theorem noticeBit_gridCutout : noticeBit .gridCutout = 0x0004 := by decide

theorem nextTheta_eq (t : ThermalParams) (ambient : Int) (v : Nat) (r : GroupReport) (theta : Nat) :
    (nextTheta t ambient v r theta : Int) = max 0 (min 9000 ((theta : Int) +
      (r.achieved * v / 3600 * t.hg / 1000 : Nat) -
        (((theta : Int) - ambient) * (if r.blowers then t.blowerOn else t.blowerOff : Nat)).tdiv 1000)) :=
  Int.toNat_of_nonneg (Int.le_max_left _ _)

/-- Settles O27. -/
theorem thermalUpdateFollowsTheRules : Obligations.ThermalUpdateFollowsTheRules := by
  intro s hp ht
  refine ⟨_, exec_thermalUpdate hp ht, ?_⟩
  rw [raiseIf_eq, noticeBit_gridCutout]
  refine ⟨rfl, fun g => ?_, ?_⟩
  · dsimp only
    rw [thermalGroups, PerTruck.get_ofFn]
    exact ⟨nextTheta_eq _ _ _ _ _, rfl, rfl⟩
  · simp only [Bool.or_eq_true, Bool.and_eq_true, Bool.not_eq_true']

end Sys2Proof.Machine
end


section
/-! PROOFS. A blend run in RUN (Chapter 4): each truck's figures by the regime, and the row LINK LOSS. -/

namespace Sys2Proof.Machine

/-! ## What the run reads -/

/-- The demand age a run counts to (R55). -/
def runAge (s : State) : Nat := min 255 (s.bc.demandAge + 1)

/-- The demand record as the run uses it (R57). -/
def runDemand (s : State) : Demand := usedDemand { s with bc := { s.bc with demandAge := runAge s } }

/-- The inputs of a truck in the run (R59). -/
def runInputs (s : State) (g : Truck) : TruckInputs := truckInputs s (runDemand s) (runAge s) g

/-- The request the run ramps a truck's from (R72, R84). -/
def rampFrom (s : State) (g : Truck) : Nat := if s.bc.freshRun then 0 else (s.bc.trucks.get g).dbRequest

/-- The truck's figures of a run in RUN. -/
def runTruck (s : State) (g : Truck) : BlendTruck :=
  (runTrucks s.pm.params.blend s.bpm.emergency (airEffort s.pm.params.blend (pAutoOf s.pm.params.blend s.bpm.reduction))
    (handleDemand s.pm.params.blend (runDemand s).handle) (runDemand s).bailOff (rampStart s.bc)
    (runInputs s .a) (runInputs s .b)).get g

/-- A run in RUN (R59 to R71). -/
theorem blendResult_in_run {s : State} (hm : s.cx.mode = .run) :
    blendResult s = {
      pAuto := pAutoOf s.pm.params.blend s.bpm.reduction
      fAuto := airEffort s.pm.params.blend (pAutoOf s.pm.params.blend s.bpm.reduction)
      trucks := ⟨runTruck s .a, runTruck s .b⟩
      shortfall := (runTruck s .a).unmet + (runTruck s .b).unmet
      shortfallCond := decide (s.pm.params.blend.shortfallThreshold < (runTruck s .a).unmet + (runTruck s .b).unmet)
      demandAge := runAge s, freshRun := false } :=
  if_pos (by rw [hm]; rfl)

theorem blendResult_truck {s : State} (hm : s.cx.mode = .run) (g : Truck) :
    (blendResult s).trucks.get g = runTruck s g := by
  rw [blendResult_in_run hm]
  cases g <;> rfl

theorem rampStart_get (s : State) (g : Truck) : (rampStart s.bc).get g = rampFrom s g := by
  unfold rampStart rampFrom
  split <;> cases g <;> rfl

/-! ## A truck's figures by the regime (R61) -/

theorem runTruck_emergency {s : State} (he : s.bpm.emergency = true) (g : Truck) :
    runTruck s g = plainTruck s.pm.params.blend s.pm.params.blend.pEm (rampFrom s g) (runInputs s g)
      (emergencyOwn s.pm.params.blend (runInputs s g)) := by
  rw [runTruck, runTrucks, if_pos he, ← rampStart_get]
  cases g <;> rfl

/-- F_air of the non-blended regime (R76). -/
def runAirDemand (s : State) : Nat :=
  if (runDemand s).bailOff then 0 else airEffort s.pm.params.blend (pAutoOf s.pm.params.blend s.bpm.reduction)

theorem runTruck_nonBlended {s : State} (he : s.bpm.emergency = false) (hn : s.pm.params.blend.nonBlended = true)
    (g : Truck) :
    runTruck s g = plainTruck s.pm.params.blend s.pm.params.blend.pFs (rampFrom s g) (runInputs s g)
      (nonBlendedOwn (handleDemand s.pm.params.blend (runDemand s).handle) (runAirDemand s) (runInputs s g)) := by
  rw [runTruck, runTrucks, he, if_neg Bool.false_ne_true, if_pos hn, ← rampStart_get]
  cases g <;> rfl

/-- What a truck receives of the other's residual (R69). -/
def received (s : State) (g : Truck) : Nat × Nat :=
  transferTo s.pm.params.blend (blendedOwn s.pm.params.blend (runInputs s (otherTruck g))).residual (runInputs s g)
    (blendedOwn s.pm.params.blend (runInputs s g))

theorem runTruck_blended {s : State} (he : s.bpm.emergency = false) (hn : s.pm.params.blend.nonBlended = false)
    (g : Truck) :
    runTruck s g = blendedTruck s.pm.params.blend (rampFrom s g) (runInputs s g)
      (blendedOwn s.pm.params.blend (runInputs s g)) (received s g) (received s (otherTruck g)) := by
  rw [runTruck, runTrucks, he, if_neg Bool.false_ne_true, hn, if_neg Bool.false_ne_true, ← rampStart_get]
  cases g <;> rfl

/-! ## Capability and request -/

theorem totalLimit_eq (t : TruckRecord) : totalLimit t = min t.cap (t.limit.getD t.cap) := by
  unfold totalLimit
  split
  · next h => rw [h]; rfl
  · next h => rw [h]; exact (Nat.min_self _).symm

theorem runInputs_capability (s : State) (g : Truck) :
    (runInputs s g).capability =
      if ((runDemand s).groups.get g).available = true ∧ runAge s ≤ 3 ∧ s.am.refValid = true then
        min (curveEffort s.pm.params.thermal (reportedRef s.am))
          (min (s.gt.get g).cap (totalLimit (s.sp.trucks.get g))) else 0 := rfl

theorem runInputs_capability_le (s : State) (g : Truck) :
    (runInputs s g).capability ≤ totalLimit (s.sp.trucks.get g) ∧ (runInputs s g).capability ≤ (s.gt.get g).cap ∧
      (runInputs s g).capability ≤ curveEffort s.pm.params.thermal (reportedRef s.am) := by
  rw [runInputs_capability]
  split
  · omega
  · exact ⟨Nat.zero_le _, Nat.zero_le _, Nat.zero_le _⟩

/-- With the group unavailable, the link or the reference lost or the cap 0 there is no capability (R66, R57, R72). -/
theorem runInputs_capability_zero {s : State} {g : Truck}
    (h : (s.demand.groups.get g).available = false ∨ 3 ≤ s.bc.demandAge ∨ s.am.refValid = false ∨
      (s.gt.get g).cap = 0) : (runInputs s g).capability = 0 := by
  rcases h with h | h | h | h
  · rw [runInputs_capability, if_neg]
    rintro ⟨hav, _⟩
    revert hav
    rw [runDemand, usedDemand]
    split
    · cases g <;> simp [PerTruck.both, PerTruck.get]
    · simp [h]
  · rw [runInputs_capability, if_neg]
    rintro ⟨_, hage, _⟩
    rw [runAge] at hage
    omega
  · rw [runInputs_capability, if_neg]
    rintro ⟨_, _, hv⟩
    exact Bool.false_ne_true (h.symm.trans hv)
  · have := (runInputs_capability_le s g).2.1
    omega

/-- The capability a run stores is that of its inputs, in every regime. -/
theorem runTruck_capability (s : State) (g : Truck) : (runTruck s g).capability = (runInputs s g).capability := by
  cases he : s.bpm.emergency
  · cases hn : s.pm.params.blend.nonBlended
    · rw [runTruck_blended he hn]; rfl
    · rw [runTruck_nonBlended he hn]; rfl
  · rw [runTruck_emergency he]; rfl

theorem runTruck_share (s : State) (g : Truck) : (runTruck s g).share = (runInputs s g).share := by
  cases he : s.bpm.emergency
  · cases hn : s.pm.params.blend.nonBlended
    · rw [runTruck_blended he hn]; rfl
    · rw [runTruck_nonBlended he hn]; rfl
  · rw [runTruck_emergency he]; rfl

/-- The request ramps toward the planned DB in every regime (R72). -/
theorem runTruck_dbRequest (s : State) (g : Truck) :
    (runTruck s g).dbRequest = dbRequestAfter s.pm.params.blend (s.sp.trucks.get g).state (runInputs s g).capability
      ((runTruck s g).ownDb + (runTruck s g).extraDb) (rampFrom s g) := by
  cases he : s.bpm.emergency
  · cases hn : s.pm.params.blend.nonBlended
    · rw [runTruck_blended he hn]; rfl
    · rw [runTruck_nonBlended he hn]; rfl
  · rw [runTruck_emergency he]; rfl

theorem releasing_iff (st : CorrState) : releasing st = true ↔ st = .relieve ∨ st = .hold := by
  simp [releasing]

/-- Settles O24. -/
theorem requestRampsAndFalls : Obligations.RequestRampsAndFalls := by
  intro s hp ht hm
  refine ⟨_, exec_blendRun hp ht, fun g => ?_⟩
  rw [raiseIf_bc]
  dsimp only
  rw [blendResult_truck hm, runTruck_capability]
  have hreq := runTruck_dbRequest s g
  obtain ⟨hlim, hcap, hcurve⟩ := runInputs_capability_le s g
  refine ⟨?_, hlim, hcap, hcurve, fun h => ?_⟩
  · simp only [hreq, dbRequestAfter, releasing_iff]
    rfl
  · rw [hreq, runInputs_capability_zero h]
    exact Nat.zero_min _

/-! ## LINK LOSS -/

/-- A run with no capability requests nothing (R73). -/
theorem blendResult_lost {s : State} (h : s.bc.demandAge = 3) (g : Truck) :
    ((blendResult s).trucks.get g).dbRequest = 0 ∧ ((blendResult s).trucks.get g).capability = 0 := by
  have hle := blendResult_within s g
  suffices hcap : ((blendResult s).trucks.get g).capability = 0 from ⟨Nat.le_zero.mp (hcap ▸ hle), hcap⟩
  by_cases hm : s.cx.mode = .run
  · rw [blendResult_truck hm, runTruck_capability, runInputs_capability_zero (.inr (.inl (Nat.le_of_eq h.symm)))]
  · rw [blendResult_outside_run hm]
    cases g <;> rfl

/-- Settles O26: the row is the whole run, and from demand age 4 on the demand is read as R57 says. -/
theorem linkLossTakesDynamicBrakeOut : Obligations.LinkLossTakesDynamicBrakeOut := by
  intro s hp ht h
  have hrun := exec_blendRun hp ht
  have hrow : exec .linkLoss s = .next (blendRun s) := row_met (harm := rfl) (by rw [ht, h]; rfl) hp
  rw [blendRun, if_pos ht] at hrow
  have hage : (blendResult s).demandAge = 4 := by
    rw [blendResult_age, h]
    rfl
  refine ⟨_, hrow, hrun, ?_⟩
  rw [h, raiseIf_eq, noticeBit_linkLoss]
  have hlost : linkLost (blendResult s) = true := by rw [linkLost, hage]; rfl
  refine ⟨hage, rfl, rfl, ?_, ?_, ?_, ?_, fun g => ?_⟩
  · simp only [usedDemand, hlost, if_true]
  · simp only [usedDemand, hlost, if_true]
  · simp only [usedDemand, hlost, if_true]
  · simp only [usedDemand, hlost, if_true]
  · obtain ⟨hreq, hcap⟩ := blendResult_lost h g
    refine ⟨hreq, hcap, ?_⟩
    simp only [usedDemand, hlost, if_true]
    cases g <;> rfl

/-! ## The plan (R67 to R70, R76 to R78) -/

/-- A plan within a truck's total limit. -/
def planWithin (lim : Nat) (f : BlendTruck) : Prop := (f.ownDb + f.extraDb) + (f.ownAir + f.extraAir) ≤ lim

theorem transferTo_le (p : BlendParams) (offered : Nat) (i : TruckInputs) (own : OwnPlan) :
    (transferTo p offered i own).1 + (transferTo p offered i own).2 ≤ offered := by
  unfold transferTo
  split
  · dsimp only; omega
  · exact Nat.zero_le _

theorem blendedTruck_within (p : BlendParams) (dbr : Nat) {i : TruckInputs} (gave : Nat × Nat) (offered : Nat)
    (hc : i.capability ≤ i.lim) :
    planWithin i.lim (blendedTruck p dbr i (blendedOwn p i) (transferTo p offered i (blendedOwn p i)) gave) := by
  have hown : (blendedOwn p i).db + (blendedOwn p i).air ≤ i.lim := by
    unfold blendedOwn
    dsimp only
    split
    · split <;> dsimp only <;> omega
    · dsimp only; omega
  unfold planWithin blendedTruck transferTo
  split
  · dsimp only; omega
  · dsimp only; omega

theorem plainTruck_within (p : BlendParams) (ceiling dbr : Nat) {i : TruckInputs} {own : OwnPlan}
    (h : own.db + own.air ≤ i.lim) : planWithin i.lim (plainTruck p ceiling dbr i own) := by
  unfold planWithin plainTruck
  dsimp only
  omega

theorem nonBlendedOwn_le (fHnd fAir : Nat) {i : TruckInputs} (hc : i.capability ≤ i.lim) :
    (nonBlendedOwn fHnd fAir i).db + (nonBlendedOwn fHnd fAir i).air ≤ i.lim := by
  unfold nonBlendedOwn
  dsimp only
  split
  · split <;> dsimp only <;> omega
  · dsimp only; omega

theorem emergencyOwn_le (p : BlendParams) {i : TruckInputs} (hc : i.capability ≤ i.lim) :
    (emergencyOwn p i).db + (emergencyOwn p i).air ≤ i.lim := by
  unfold emergencyOwn
  dsimp only
  generalize hdb : (if p.dbRetained = true then min i.capability (i.lim - airEffort p p.pEm) else 0) = db
  have hle : db ≤ i.lim := by
    subst hdb
    split <;> omega
  split
  · split <;> dsimp only <;> omega
  · exact hle

/-- Every run in RUN plans within the total limit (R65, R67 to R78). -/
theorem runTruck_within (s : State) (g : Truck) : planWithin (totalLimit (s.sp.trucks.get g)) (runTruck s g) := by
  have hc : (runInputs s g).capability ≤ (runInputs s g).lim := (runInputs_capability_le s g).1
  cases he : s.bpm.emergency
  · cases hn : s.pm.params.blend.nonBlended
    · rw [runTruck_blended he hn]
      exact blendedTruck_within _ _ _ _ hc
    · rw [runTruck_nonBlended he hn]
      exact plainTruck_within _ _ _ (nonBlendedOwn_le _ _ hc)
  · rw [runTruck_emergency he]
    exact plainTruck_within _ _ _ (emergencyOwn_le _ hc)

theorem otherTruck_otherTruck (g : Truck) : otherTruck (otherTruck g) = g := by cases g <;> rfl

/-- The other truck takes no more than the residual, and what it leaves is unmet (R69, R70). -/
theorem runTruck_residual (s : State) (g : Truck) :
    (runTruck s (otherTruck g)).extraDb + (runTruck s (otherTruck g)).extraAir ≤ (runTruck s g).residual ∧
      (runTruck s g).unmet = (runTruck s g).residual - (runTruck s (otherTruck g)).extraDb -
        (runTruck s (otherTruck g)).extraAir := by
  cases he : s.bpm.emergency
  · cases hn : s.pm.params.blend.nonBlended
    · have hle : (received s (otherTruck g)).1 + (received s (otherTruck g)).2 ≤
          (blendedOwn s.pm.params.blend (runInputs s g)).residual := by
        rw [received, otherTruck_otherTruck]
        exact transferTo_le _ _ _ _
      rw [runTruck_blended he hn g, runTruck_blended he hn (otherTruck g)]
      exact ⟨hle, rfl⟩
    · rw [runTruck_nonBlended he hn g, runTruck_nonBlended he hn (otherTruck g)]
      exact ⟨Nat.zero_le _, rfl⟩
  · rw [runTruck_emergency he g, runTruck_emergency he (otherTruck g)]
    exact ⟨Nat.zero_le _, rfl⟩

/-! ## The regimes, truck by truck -/

theorem blendedOwn_ep (p : BlendParams) {i : TruckInputs} (h : i.ep = true) :
    blendedOwn p i =
      (let db := min i.share i.capability
       let air := if i.state = .relieve ∨ i.state = .hold then 0
         else min (i.share - db) (min (airEffortMax p) (i.lim - db))
       ⟨db, air, i.share - db - air⟩) := by
  simp only [blendedOwn, if_pos h, releasing_iff]

theorem blendedOwn_pneumatic (p : BlendParams) {i : TruckInputs} (h : ¬i.ep = true) :
    blendedOwn p i =
      (let db := min i.capability (min (i.share - i.airMeas) (i.lim - i.airMeas))
       ⟨db, 0, i.share - db - i.airMeas⟩) := if_neg h

theorem blendedAirCmd_ep (p : BlendParams) {i : TruckInputs} (own : OwnPlan) (x y : Nat) (h : i.ep = true) :
    blendedAirCmd p i own x y = if i.state = .relieve ∨ i.state = .hold then 0
      else min (own.air + y + (own.db + x - i.achieved)) (min (airEffortMax p) (i.lim - i.achieved)) := by
  simp only [blendedAirCmd, h, Bool.not_true, Bool.false_or, releasing_iff]

theorem blendedAirCmd_pneumatic (p : BlendParams) {i : TruckInputs} (own : OwnPlan) (x y : Nat) (h : ¬i.ep = true) :
    blendedAirCmd p i own x y = 0 :=
  if_pos (by rw [Bool.not_eq_true] at h; rw [h]; rfl)

/-- Whether a truck may take the other's residual (R69). -/
theorem transferTo_taken {p : BlendParams} (offered : Nat) {i : TruckInputs} (own : OwnPlan)
    (h : p.transfer = true ∧ i.ep = true ∧ i.state = .idle ∧ i.isProtected = true) :
    transferTo p offered i own =
      (let x := min offered (min (i.capability - own.db) (i.lim - own.db - own.air))
       (x, min (offered - x) (min (airEffortMax p - own.air) (i.lim - own.db - own.air - x)))) := by
  obtain ⟨htr, hep, hs, hk⟩ := h
  exact if_pos (by rw [htr, hep, hs, hk]; rfl)

theorem transferTo_none {p : BlendParams} (offered : Nat) {i : TruckInputs} (own : OwnPlan)
    (h : ¬(p.transfer = true ∧ i.ep = true ∧ i.state = .idle ∧ i.isProtected = true)) :
    transferTo p offered i own = (0, 0) :=
  if_neg (by simpa [and_assoc] using h)

theorem nonBlendedOwn_eq (fHnd fAir : Nat) (i : TruckInputs) :
    nonBlendedOwn fHnd fAir i =
      (let db := if i.ep = true then min fHnd i.capability else min fHnd (min i.capability (i.lim - i.airMeas))
       let air := if i.ep = true ∧ ¬(i.state = .relieve ∨ i.state = .hold) then min fAir (i.lim - db) else 0
       ⟨db, air, if i.ep = true then (fHnd - db) + (fAir - air) else fHnd - db⟩) := by
  unfold nonBlendedOwn
  by_cases hep : i.ep = true
  · by_cases hr : i.state = .relieve ∨ i.state = .hold
    · simp [hep, (releasing_iff _).mpr hr, hr]
    · simp [hep, Bool.eq_false_iff.mpr (mt (releasing_iff _).mp hr), hr]
  · simp [hep]

theorem emergencyOwn_eq (p : BlendParams) (i : TruckInputs) :
    emergencyOwn p i =
      (let db := if p.dbRetained = true then min i.capability (i.lim - airEffort p p.pEm) else 0
       let air := if i.ep = true ∧ ¬(i.state = .relieve ∨ i.state = .hold) then min (airEffort p p.pEm) (i.lim - db) else 0
       ⟨db, air, i.share - db - (if i.ep = true then air else i.airMeas)⟩) := by
  unfold emergencyOwn
  by_cases hep : i.ep = true
  · by_cases hr : i.state = .relieve ∨ i.state = .hold
    · simp [hep, (releasing_iff _).mpr hr, hr]
    · simp [hep, Bool.eq_false_iff.mpr (mt (releasing_iff _).mp hr), hr]
  · simp [hep]

theorem runInputs_ep (s : State) (g : Truck) : (runInputs s g).ep = true ↔ (s.co.trucks.get g).mode = .ep :=
  beq_iff_eq

theorem runInputs_lim (s : State) (g : Truck) :
    (runInputs s g).lim = min (s.sp.trucks.get g).cap ((s.sp.trucks.get g).limit.getD (s.sp.trucks.get g).cap) :=
  totalLimit_eq _

/-- Settles O23: the frame and the sums of the run, then each truck's figures by the regime of R61. -/
theorem planKeepsWithinTotalLimit : Obligations.PlanKeepsWithinTotalLimit := by
  intro s hp ht hm p age d effort pressureOf fHnd
  refine ⟨_, exec_blendRun hp ht, ?_⟩
  rw [raiseIf_eq, noticeBit_linkLoss]
  dsimp only
  rw [blendResult_in_run hm]
  refine ⟨rfl, by simp only [beq_iff_eq], rfl, rfl, rfl, decide_eq_true_iff, rfl, rfl, fun g => ?_⟩
  have hget (g : Truck) : (⟨runTruck s .a, runTruck s .b⟩ : PerTruck BlendTruck).get g = runTruck s g := by
    cases g <;> rfl
  dsimp only
  rw [hget g, hget (otherTruck g), ← runInputs_lim]
  obtain ⟨hres, hunmet⟩ := runTruck_residual s g
  refine ⟨runTruck_within s g, hres, hunmet, runTruck_share s g, ?_, fun he hn => ?blended, fun he hn => ?nonBlended,
    fun he => ?emergency⟩
  · rw [runTruck_capability]
    rfl
  case blended =>
    rw [runTruck_blended he hn g, runTruck_blended he hn (otherTruck g)]
    refine ⟨fun hep => ?_, fun hep => ?_, fun htr => ?_, fun htr => ?_, rfl⟩
    · have hi := (runInputs_ep s g).mpr hep
      simp only [blendedTruck, blendedOwn_ep _ hi, blendedAirCmd_ep _ _ _ _ hi, true_and]
      exact ⟨rfl, rfl⟩
    · have hi := mt (runInputs_ep s g).mp hep
      simp only [blendedTruck, blendedOwn_pneumatic _ hi, blendedAirCmd_pneumatic _ _ _ _ hi, true_and, and_true]
      exact ⟨rfl, rfl⟩
    · obtain ⟨hto, hep, hrest⟩ := htr
      have hgot := transferTo_taken (p := s.pm.params.blend)
        (blendedOwn s.pm.params.blend (runInputs s (otherTruck g))).residual
        (blendedOwn s.pm.params.blend (runInputs s g)) ⟨hto, (runInputs_ep s g).mpr hep, hrest⟩
      simp only [blendedTruck, received, hgot, true_and]
      rfl
    · have hgot := transferTo_none (p := s.pm.params.blend)
        (blendedOwn s.pm.params.blend (runInputs s (otherTruck g))).residual
        (blendedOwn s.pm.params.blend (runInputs s g)) (fun ⟨hto, hi, hrest⟩ =>
          htr ⟨hto, (runInputs_ep s g).mp hi, hrest⟩)
      simp only [blendedTruck, received, hgot, and_self]
  case nonBlended =>
    rw [runTruck_nonBlended he hn g, nonBlendedOwn_eq]
    simp only [runInputs_ep]
    exact ⟨rfl, rfl, rfl, rfl, rfl, rfl, rfl⟩
  case emergency =>
    rw [runTruck_emergency he g, emergencyOwn_eq]
    simp only [runInputs_ep]
    exact ⟨rfl, rfl, rfl, rfl, rfl, rfl, rfl⟩

end Sys2Proof.Machine
end


section
/-! PROOFS. CU's capture (Chapter 7): the condition word, the frame and its place, the ring, and the evaluation of the
trigger table as it bears on them. -/

namespace Sys2Proof.Machine

/-! ## The condition word (R119) -/

theorem condBit_getLsbD (n : Nat) (b : Bool) (k : Nat) :
    (condBit n b).getLsbD k = (b && decide (k = n ∧ k < 32)) := by
  cases b
  · simp [condBit]
  · have hword : condBit n true = (1 : Word32) <<< n := rfl
    rw [hword, BitVec.getLsbD_shiftLeft, Bool.true_and, Bool.eq_iff_iff]
    simp only [Bool.and_eq_true, decide_eq_true_eq, Bool.not_eq_true', decide_eq_false_iff_not]
    change (k < 32 ∧ ¬k < n) ∧ (1#32).getLsbD (k - n) = true ↔ _
    rw [BitVec.getLsbD_one, Bool.and_eq_true, decide_eq_true_eq, decide_eq_true_eq]
    omega

theorem conditionWord_getLsbD (s : State) (mark : Bool) (k : Nat) :
    (conditionWord s mark).getLsbD k =
      ([s.bpm.emergency, s.bpm.sensorFault, s.sp.relieveCond.a, s.sp.relieveCond.b, s.sp.lockoutCond.a,
         s.sp.lockoutCond.b, s.sp.sanding, s.am.axleFault, s.am.lockedAxle, s.am.standstill,
         linkLost s.bc, s.bc.shortfallCond, s.gt.a.cutout, s.gt.b.cutout,
         s.co.trucks.a.airFault, s.co.trucks.b.airFault, s.co.trucks.any (·.mode == .pneumatic), mark][k]?).getD false := by
  simp only [conditionWord, BitVec.getLsbD_or, condBit_getLsbD]
  rcases Nat.lt_or_ge k 18 with h | h
  · match k, h with
    | 0, _ | 1, _ | 2, _ | 3, _ | 4, _ | 5, _ | 6, _ | 7, _ | 8, _ | 9, _ | 10, _ | 11, _ | 12, _ | 13, _ | 14, _
    | 15, _ | 16, _ | 17, _ => simp
    | k + 18, h => omega
  · have hne (j : Nat) (hj : j < 18) : ¬(k = j ∧ k < 32) := by omega
    simp [hne, h]

/-- No condition has a number from 18 up. -/
theorem conditionWord_lt (s : State) (mark : Bool) : (conditionWord s mark).toNat < 262144 := by
  refine Nat.lt_pow_two_of_testBit (n := 18) _ fun k hk => ?_
  rw [BitVec.testBit_toNat, conditionWord_getLsbD, List.getElem?_eq_none hk]
  rfl

/-! ## The table's evaluation -/

/-- What holds of a state and is kept by a firing holds after the table's evaluation. -/
theorem evalEntries_keeps {P : State → Prop} {w : Word32} (h : ∀ n e u, P u → P (fireEntry n e w u))
    (n : Nat) (es : List TriggerEntry) (ps : List Bool) {s : State} (hs : P s) : P (evalEntries w n es ps s).1 := by
  induction es generalizing n ps s with
  | nil => exact hs
  | cons e es ih =>
    cases ps with
    | nil => exact hs
    | cons p ps =>
      refine ih (n + 1) ps (?_ : P (evalEntry n e p w s).1)
      unfold evalEntry
      split
      · exact hs
      · dsimp only
        split
        · exact h n e s hs
        · exact hs

/-- Where no entry's match begins, the evaluation changes nothing but the flags. -/
theorem evalEntries_none {w : Word32} (n : Nat) (es : List TriggerEntry) (ps : List Bool) (s : State)
    (h : ∀ (i : Nat) e p, es[i]? = some e → ps[i]? = some p → e.enabled = true → entryMatches e w = true → p = true) :
    (evalEntries w n es ps s).1 = s := by
  induction es generalizing n ps with
  | nil => rfl
  | cons e es ih =>
    cases ps with
    | nil => rfl
    | cons p ps =>
      have hstep : (evalEntry n e p w s).1 = s := by
        unfold evalEntry
        split
        · rfl
        · next he =>
          refine if_neg fun hm => ?_
          obtain ⟨hm, hp⟩ := Bool.and_eq_true_iff.mp hm
          have := h 0 e p rfl rfl (by simpa using he) hm
          simp [this] at hp
      refine Eq.trans (congrArg (fun u => (evalEntries w (n + 1) es ps u).1) hstep) ?_
      exact ih (n + 1) ps fun i e p he hp => h (i + 1) e p he hp

/-! ## The ring -/

theorem takeIntoRecord_frames (p : Nat) (ring : List RingFrame) :
    (takeIntoRecord p ring).map (·.frame) = ring.map (·.frame) := by
  refine List.ext_getElem (by simp [takeIntoRecord]) fun i h1 h2 => ?_
  simp only [takeIntoRecord, List.getElem_map, List.getElem_mapIdx]
  split <;> rfl

/-- The state of a capture before the table's evaluation. -/
def frameTaken (s : State) : State :=
  withCu (fun cu => { takeFrame (frameNow s (conditionWord s s.cu.markPending)) cu with
    markPending := false, interval := s.pm.params.capturePeriod }) s

/-- The state after the table's evaluation. -/
def tableEvaluated (s : State) : State :=
  (evalEntries (conditionWord s s.cu.markPending) 1 s.pm.params.triggers
    (heldBack s.pm.params.triggers (frameTaken s).cu) (frameTaken s)).1

/-- The previous match flags after the table's evaluation. -/
def flagsEvaluated (s : State) : List Bool :=
  (evalEntries (conditionWord s s.cu.markPending) 1 s.pm.params.triggers
    (heldBack s.pm.params.triggers (frameTaken s).cu) (frameTaken s)).2

theorem capture_eq {s : State} (hc : capturesNow s = true) :
    capture s = withCu (fun cu => endRecord { cu with
      prevMatch := flagsEvaluated s
      armed := armAfter s.pm.params.triggers (conditionWord s s.cu.markPending) cu.armed }) (tableEvaluated s) :=
  if_pos hc

theorem exec_capture {s : State} (hp : s.powered = true) : exec .capture s = .next (capture s) := by
  have harm : exec .capture s = done s (capture s) := rfl
  rw [harm, done_powered _ hp]

theorem takeFrame_ring (f : Frame) (cu : CaptureUnit) :
    (dropsFrame cu.ring = true → (takeFrame f cu).ring = cu.ring) ∧
    (dropsFrame cu.ring = false → ∃ st, (takeFrame f cu).ring = joinRing ⟨f, st⟩ cu.ring) := by
  constructor
  · intro hd
    simp only [takeFrame, hd, if_true]
    split
    · split <;> rfl
    · rfl
  · intro hd
    simp only [takeFrame, hd, Bool.false_eq_true, if_false]
    split
    · split <;> exact ⟨_, rfl⟩
    · exact ⟨_, rfl⟩

theorem takeFrame_isSome (f : Frame) (cu : CaptureUnit) : (takeFrame f cu).opened.isSome = cu.opened.isSome := by
  unfold takeFrame
  dsimp only
  split
  · next h => split <;> simp [h]
  · next h => simp [h]

theorem endRecord_frame (cu : CaptureUnit) : endRecord cu = { cu with opened := (endRecord cu).opened } := by
  unfold endRecord
  split
  · split <;> rfl
  · rfl

/-- What firings leave beside CU, the notice set and SC's part of an opening, and that the ring holds the same
frames (R122, R124 to R127, R132). -/
structure FiredFrom (s t : State) : Prop where
  frame : t = { s with
    cu := t.cu, cx := { s.cx with notices := t.cx.notices }
    sc := { s.sc with
      directory := t.sc.directory, pendingMarks := t.sc.pendingMarks, nextNumber := t.sc.nextNumber
      nextSequence := t.sc.nextSequence } }
  frames : t.cu.ring.map (·.frame) = s.cu.ring.map (·.frame)
  mark : t.cu.markPending = s.cu.markPending
  interval : t.cu.interval = s.cu.interval

theorem FiredFrom.refl (s : State) : FiredFrom s s := ⟨rfl, rfl, rfl, rfl⟩

theorem FiredFrom.trans {s t u : State} (h : FiredFrom s t) (k : FiredFrom t u) : FiredFrom s u :=
  ⟨by rw [k.frame, h.frame], k.frames.trans h.frames, k.mark.trans h.mark, k.interval.trans h.interval⟩

theorem openEntry_fields (protect : Bool) (sc : StoreController) : openEntry protect sc = { sc with
    directory := (openEntry protect sc).directory, pendingMarks := (openEntry protect sc).pendingMarks
    nextNumber := (openEntry protect sc).nextNumber, nextSequence := (openEntry protect sc).nextSequence } := by
  unfold openEntry
  rw [makeRoom_fields]

theorem fireEntry_fired (n : Nat) (e : TriggerEntry) (w : Word32) (s : State) : FiredFrom s (fireEntry n e w s) := by
  have hmiss : FiredFrom s (missIncident s) := ⟨rfl, rfl, rfl, rfl⟩
  unfold fireEntry
  split
  · unfold openRecord
    split
    · exact ⟨congrArg (fun sc => withCu _ { s with sc := sc }) (openEntry_fields e.protect s.sc),
        takeIntoRecord_frames _ _, rfl, rfl⟩
    · exact hmiss
  · split
    · exact ⟨rfl, rfl, rfl, rfl⟩
    · exact hmiss

theorem tableEvaluated_fired (s : State) : FiredFrom (frameTaken s) (tableEvaluated s) :=
  evalEntries_keeps (P := FiredFrom (frameTaken s)) (fun n e u h => h.trans (fireEntry_fired n e _ u)) _ _ _ (.refl _)

/-- With a record open no firing touches the ring. -/
theorem fireEntry_ring_of_open {n : Nat} {e : TriggerEntry} {w : Word32} {s : State} (h : s.cu.opened.isSome = true) :
    (fireEntry n e w s).cu.ring = s.cu.ring ∧ (fireEntry n e w s).cu.opened.isSome = true := by
  obtain ⟨r, hr⟩ := Option.isSome_iff_exists.mp h
  unfold fireEntry
  rw [hr]
  dsimp only
  split
  · exact ⟨rfl, rfl⟩
  · exact ⟨rfl, h⟩

theorem capture_ring_of_open {s : State} (hc : capturesNow s = true) (h : s.cu.opened.isSome = true) :
    (capture s).cu.ring = (takeFrame (frameNow s (conditionWord s s.cu.markPending)) s.cu).ring := by
  have htaken : (frameTaken s).cu.opened.isSome = true := (takeFrame_isSome _ _).trans h
  have hkeep := evalEntries_keeps (P := fun u => u.cu.ring = (frameTaken s).cu.ring ∧ u.cu.opened.isSome = true)
    (w := conditionWord s s.cu.markPending) (fun n e u ⟨hr, ho⟩ =>
      let ⟨hr', ho'⟩ := fireEntry_ring_of_open (n := n) (e := e) (w := conditionWord s s.cu.markPending) ho
      ⟨hr'.trans hr, ho'⟩)
    1 s.pm.params.triggers (heldBack s.pm.params.triggers (frameTaken s).cu) ⟨rfl, htaken⟩
  rw [capture_eq hc, withCu_cu, endRecord_frame]
  exact hkeep.1

/-- What an undrained frame of the ring does at a capture: it stays (R121). -/
theorem mem_takeFrame_ring (g : Frame) {cu : CaptureUnit} {f : RingFrame} {i : Nat} (hl : cu.ring.length ≤ 512)
    (hf : f ∈ cu.ring) (hu : f.standing = .undrained i) : f ∈ (takeFrame g cu).ring := by
  obtain ⟨hdrop, hjoin⟩ := takeFrame_ring g cu
  cases hd : dropsFrame cu.ring
  · obtain ⟨st, hring⟩ := hjoin hd
    rw [hring]
    refine List.mem_cons_of_mem _ ?_
    by_cases hfull : cu.ring.length ≤ 511
    · rwa [List.take_of_length_le (show cu.ring.length ≤ ringSize - 1 from hfull)]
    · have hlen : cu.ring.length = 512 := by omega
      have hne : cu.ring ≠ [] := List.ne_nil_of_mem hf
      have hlast : undrainedIndex (cu.ring.getLast hne) = none := by
        rw [dropsFrame, hlen, List.getLast?_eq_some_getLast hne] at hd
        simpa [ringSize] using hd
      rw [← List.dropLast_concat_getLast hne, List.mem_append, List.mem_singleton] at hf
      have htake : cu.ring.dropLast = cu.ring.take 511 := by rw [List.dropLast_eq_take, hlen]
      rcases hf with hf | rfl
      · exact htake ▸ hf
      · rw [undrainedIndex, hu] at hlast
        cases hlast
  · rwa [hdrop hd]

theorem capture_keeps_undrained {s : State} (ho : s.cu.opened.isSome = true) (hl : s.cu.ring.length ≤ 512)
    {f : RingFrame} {i : Nat} (hf : f ∈ s.cu.ring) (hu : f.standing = .undrained i) : f ∈ (capture s).cu.ring := by
  by_cases hc : capturesNow s = true
  · rw [capture_ring_of_open hc ho]
    exact mem_takeFrame_ring _ hl hf hu
  · rw [capture, if_neg hc]
    exact hf

/-- Settles O31. -/
theorem undrainedFramesAreKept : Obligations.UndrainedFramesAreKept := by
  intro c s t hc ho hl he f i hf hu
  have hkept := capture_keeps_undrained ho hl hf hu
  have hcases : t = capture s ∨ t = s := by
    rcases hc with rfl | rfl
    · exact done_cases he
    · exact onOccasion_cases he
  rcases hcases with rfl | rfl
  · exact hkept
  · exact hf

/-! ## RECORD END (R131) -/

theorem heldBack_getElem? {es : List TriggerEntry} {cu : CaptureUnit} {i : Nat} {e : TriggerEntry} {p : Bool}
    (he : es[i]? = some e) (hp : (heldBack es cu)[i]? = some p) :
    ∃ q, cu.prevMatch[i]? = some q ∧ p = (q && !(onHostMark e && cu.armed.getD i false)) := by
  rw [heldBack, List.getElem?_mapIdx] at hp
  obtain ⟨q, hq, rfl⟩ := Option.map_eq_some_iff.mp hp
  exact ⟨q, hq, by rw [he]; rfl⟩

theorem takeFrame_flags (f : Frame) (cu : CaptureUnit) :
    (takeFrame f cu).prevMatch = cu.prevMatch ∧ (takeFrame f cu).armed = cu.armed ∧
      (takeFrame f cu).missed = cu.missed := by
  unfold takeFrame
  dsimp only
  split
  · split <;> exact ⟨rfl, rfl, rfl⟩
  · exact ⟨rfl, rfl, rfl⟩

/-- A frame that a CAPTURING record takes. -/
def frameCounted (s : State) (r : OpenRecord) : OpenRecord :=
  { r with
    nextIndex := r.nextIndex + 1
    captureCount := r.captureCount + 1
    lostCount := if dropsFrame s.cu.ring then r.lostCount + 1 else r.lostCount }

theorem frameTaken_capturing {s : State} {r : OpenRecord} (ho : s.cu.opened = some r) (hph : r.phase = .capturing) :
    (frameTaken s).cu.opened = some (frameCounted s r) := by
  simp only [frameTaken, withCu_cu, takeFrame, ho, hph, if_true, frameCounted]

/-- Settles O33: no entry fires, and the end test finds the frame that has the end index. -/
theorem recordEndsComplete : Obligations.RecordEndsComplete := by
  intro r s hp hc ho hph hend hnone
  have hflags := takeFrame_flags (frameNow s (conditionWord s s.cu.markPending)) s.cu
  have heval : tableEvaluated s = frameTaken s := by
    refine evalEntries_none _ _ _ _ fun i e p he hb hen hm => ?_
    obtain ⟨q, hq, rfl⟩ := heldBack_getElem? he hb
    refine Decidable.byContradiction fun hfree => ?_
    refine hnone i e q he (hflags.1 ▸ hq) hen ?_ (by simpa [entryMatches] using hm)
    have harmed : (frameTaken s).cu.armed = s.cu.armed := hflags.2.1
    rw [harmed] at hfree
    cases q
    · exact .inl rfl
    · simp only [Bool.true_and, Bool.not_eq_true', Bool.not_eq_false, Bool.and_eq_true] at hfree
      obtain ⟨hmark, harm⟩ := hfree
      refine .inr ⟨hmark, ?_⟩
      rw [List.getD_eq_getElem?_getD] at harm
      cases ha : s.cu.armed[i]? with
      | none => rw [ha] at harm; cases harm
      | some a => rw [ha] at harm; exact congrArg some harm
  have hopen : (capture s).cu.opened =
      some { frameCounted s r with phase := .closing, endReason := some .complete } := by
    rw [capture_eq hc, heval, withCu_cu, endRecord]
    dsimp only
    rw [frameTaken_capturing ho hph]
    exact congrArg CaptureUnit.opened (if_pos ⟨hph, congrArg (· + 1) hend⟩)
  have hrow : exec .recordEnd s = .next (capture s) := by
    refine row_met (harm := rfl) ?_ hp
    simp [isClosing, ho, hph, hopen]
  refine ⟨_, hrow, exec_capture hp, ?_, hopen⟩
  rw [capture_eq hc, heval]
  rfl

end Sys2Proof.Machine
end


section
/-! PROOFS. The frame of a capture (R117 to R120) and its place in a FRAME section (8.2.5). -/

namespace Sys2Proof.Machine

/-- The fields of a frame's place. -/
theorem framePlace_fields (f : Frame) (i : Nat) :
    fieldsAt (framePlace f i)
       [(0, 2), (2, 2), (4, 1), (5, 1), (6, 2), (8, 2), (10, 2), (12, 2), (14, 2), (16, 2), (18, 2), (20, 2),
        (22, 2), (24, 2), (26, 1), (27, 2), (29, 2), (31, 2), (33, 2), (35, 2), (37, 1), (38, 2), (40, 2),
        (42, 2), (44, 2), (46, 4), (50, 1), (51, 1), (52, 1), (53, 2), (55, 1)] =
       [i % 65536, f.vRef % 65536, f.refValid.toNat, f.period % 256, f.speeds.a1 % 65536, f.speeds.a2 % 65536,
        f.speeds.a3 % 65536, f.speeds.a4 % 65536, f.speeds.a5 % 65536, f.speeds.a6 % 65536,
        f.dbRequest.a % 65536, f.achieved.a % 65536, f.pCmd.a % 65536, f.measured.a % 65536,
        corrCode f.corr.a, f.cap.a % 65536, f.dbRequest.b % 65536, f.achieved.b % 65536, f.pCmd.b % 65536,
        f.measured.b % 65536, corrCode f.corr.b, f.cap.b % 65536, f.pipe % 65536, f.handle % 65536,
        f.independent % 65536, f.conditions.toNat, f.sandForward.toNat, f.sandReverse.toNat, modeCode f.mode,
        f.shortfall % 65536, 0] := by
  rw [framePlace]
  simp only [PerAxle.toList, List.flatMap_cons, List.flatMap_nil, List.append_assoc, fieldsAt_cons, fieldsAt_nil]
  simp [fieldAt_append_left, fieldAt_append_right]

theorem usedDemand_handle (s : State) :
    (usedDemand s).handle = if 4 ≤ s.bc.demandAge then 0 else s.demand.handle := by
  unfold usedDemand linkLost
  by_cases h : 4 ≤ s.bc.demandAge <;> simp [h]

theorem reportedRef_eq (am : AxleMonitor) :
    reportedRef am = if am.refValid = true then (2 * am.refInternal + 10) / 20 else 0 := rfl

/-- A capture keeps the ring within its size (R120). -/
theorem takeFrame_length (f : Frame) {cu : CaptureUnit} (h : cu.ring.length ≤ 512) :
    (takeFrame f cu).ring.length ≤ 512 := by
  obtain ⟨hdrop, hjoin⟩ := takeFrame_ring f cu
  cases hd : dropsFrame cu.ring
  · obtain ⟨st, hring⟩ := hjoin hd
    rw [hring, joinRing, List.length_cons, List.length_take, ringSize]
    omega
  · rwa [hdrop hd]

/-- Settles O30. -/
theorem captureTakesTheFrame : Obligations.CaptureTakesTheFrame := by
  refine ⟨fun s mark => ⟨conditionWord_lt s mark, ?word⟩, fun s hp hc hl => ?capture, fun s w => ?owners,
    ⟨rfl, rfl⟩, fun f i => ⟨length_framePlace f i, framePlace_fields f i⟩⟩
  case word =>
    simp only [conditionWord_getLsbD]
    rfl
  case capture =>
    refine ⟨_, exec_capture hp, ?_⟩
    obtain ⟨hframe, hframes, hmark, hinterval⟩ := tableEvaluated_fired s
    have hring : (capture s).cu.ring.map (·.frame) =
        (takeFrame (frameNow s (conditionWord s s.cu.markPending)) s.cu).ring.map (·.frame) := by
      rw [capture_eq hc, withCu_cu, endRecord_frame]
      exact hframes
    obtain ⟨hdrop, hjoin⟩ := takeFrame_ring (frameNow s (conditionWord s s.cu.markPending)) s.cu
    refine ⟨?_, ?_, ?_, ?_, fun hd => ?_, fun hd _ => ?_⟩
    · rw [capture_eq hc, hframe]
      rfl
    · rw [capture_eq hc, withCu_cu, endRecord_frame]
      exact hmark
    · rw [capture_eq hc, withCu_cu, endRecord_frame]
      exact hinterval
    · have hlen := congrArg List.length hring
      rw [List.length_map, List.length_map] at hlen
      exact Nat.le_trans (Nat.le_of_eq hlen) (takeFrame_length _ hl)
    · obtain ⟨st, hst⟩ := hjoin hd
      rw [hring, hst, joinRing, List.map_cons, List.map_take]
      rfl
    · rw [hring, hdrop hd]
  case owners =>
    refine ⟨reportedRef_eq s.am, rfl, rfl, fun i => PerAxle.get_map _ _ i, fun g => ?_, rfl, usedDemand_handle s,
      usedDemand_independent s, rfl, beq_iff_eq, beq_iff_eq, rfl, rfl⟩
    simp only [frameNow, PerTruck.get_map, usedDemand_achieved, and_self]

end Sys2Proof.Machine
end


section
/-! PROOFS. The opening of a record (R124 to R126, R144) and the firings of a capture (R122, R127, R132). -/

namespace Sys2Proof.Machine

/-! ## An opening -/

/-- The room an opening finds (R125). -/
def RoomMade (sc : StoreController) (dir : List DirEntry) (marks : List Nat) : Prop :=
  (sc.directory.length < 32 → dir = sc.directory ∧ marks = sc.pendingMarks) ∧
  (32 ≤ sc.directory.length → ∃ pre v post, sc.directory = pre ++ v :: post ∧ dir = pre ++ post ∧
    marks = sc.pendingMarks.filter (fun n => n != v.number) ∧
    ((v.state = .released ∧ ∀ x ∈ pre, x.state ≠ .released) ∨
     (v.state = .held ∧ v.protect = false ∧ (∀ x ∈ sc.directory, x.state ≠ .released) ∧
       ∀ x ∈ pre, ¬(x.state = .held ∧ x.protect = false))))

/-- What R125 grants on: a place, or a record to drop. -/
theorem room_of_grants {s : State} (h : grantsOpening s = true) :
    s.sc.directory.length < 32 ∨ (victim s.sc.directory).isSome = true :=
  ((grantsOpening_iff s).mp h).2.2.imp_right (victim_isSome_iff _).mpr

theorem makeRoom_room {sc : StoreController} (hok : directoryOk sc)
    (hg : sc.directory.length < 32 ∨ (victim sc.directory).isSome = true) :
    RoomMade sc (makeRoom sc).directory (makeRoom sc).pendingMarks := by
  obtain ⟨hl, e⟩ | ⟨hl, pre, v, post, hd, -, e, hold⟩ := makeRoom_cases hok hg
  · rw [e]
    exact ⟨fun _ => ⟨rfl, rfl⟩, fun h => absurd hl (Nat.not_lt.mpr h)⟩
  · refine ⟨fun h => absurd h (Nat.not_lt.mpr hl), fun _ => ⟨pre, v, post, hd, ?_, ?_, hold⟩⟩
    · rw [e]
    · rw [e]

/-- The entry an opening makes (R144). -/
def openingEntry (protect : Bool) (sc : StoreController) : DirEntry where
  number := openingNumber (makeRoom sc)
  sequence := sc.nextSequence
  state := .filling
  protect := protect
  first := sc.position
  sectionCount := 0
  frameCount := 0
  endReason := none
  trailer := none

/-- SC's part of a granted opening (R125, R144). -/
theorem openEntry_eq (protect : Bool) (sc : StoreController) : openEntry protect sc = { sc with
    directory := (makeRoom sc).directory ++ [openingEntry protect sc], pendingMarks := (makeRoom sc).pendingMarks
    nextNumber := followNumber (openingNumber (makeRoom sc)), nextSequence := sc.nextSequence + 1 } := by
  obtain ⟨dir, marks, h⟩ : ∃ dir marks, makeRoom sc = { sc with directory := dir, pendingMarks := marks } :=
    ⟨_, _, makeRoom_fields sc⟩
  simp only [openEntry, openingEntry, h]

/-- How many frames before the trigger frame an opening takes (R124). -/
def preFrames (e : TriggerEntry) (s : State) : Nat := min e.preCount (s.cu.ring.length - 1)

theorem openRecord_granted (n : Nat) (e : TriggerEntry) (w : Word32) {s : State} (h : grantsOpening s = true) :
    openRecord n e w s = { s with
      sc := openEntry e.protect s.sc
      cu := { s.cu with
        ring := takeIntoRecord (preFrames e s) s.cu.ring
        opened := some (newRecord (openingNumber (makeRoom s.sc)) (preFrames e s) n e w s.cu.missed
          (usedDemand s).hostTime)
        missed := 0 } } := if_pos h

theorem openRecord_refused (n : Nat) (e : TriggerEntry) (w : Word32) {s : State} (h : grantsOpening s = false) :
    openRecord n e w s = missIncident s := if_neg (by rw [h]; exact Bool.false_ne_true)

theorem noticeBit_incidentMissed : noticeBit .incidentMissed = 0x0200 := by decide

theorem missIncident_eq (s : State) : missIncident s = { s with
    cu := { s.cu with missed := min 65535 (s.cu.missed + 1) }
    cx := { s.cx with notices := s.cx.notices ||| 0x0200 } } := by
  rw [missIncident, raise, noticeBit_incidentMissed]
  rfl

theorem takeIntoRecord_standing {p j : Nat} {ring : List RingFrame} (hj : j ≤ p) (hp : p < ring.length) :
    ((takeIntoRecord p ring)[j]?).map (·.standing) = some (.undrained (p - j)) := by
  have hlt : j < ring.length := by omega
  simp [takeIntoRecord, List.getElem?_mapIdx, List.getElem?_eq_getElem hlt, hj]

/-! ## Firings -/

/-- A trigger entry with its previous match flag and whether it has been seen not to match. -/
abbrev TableRow := TriggerEntry × Bool × Bool

/-- Whether an entry fires on a condition word (R122, R119, R123). -/
def firesOn (w : Word32) (e : TriggerEntry) (prev armed : Bool) : Bool :=
  e.enabled && (w &&& e.mask) == e.value && (!prev || (e.value.getLsbD 17 && armed))

/-- The previous match flag as the firing test reads it. -/
def heldFlag (q : TableRow) : Bool := q.2.1 && !(onHostMark q.1 && q.2.2)

/-- The rows that fire, each with its place in the table. -/
def firedRows (w : Word32) (k : Nat) (l : List TableRow) : List (TableRow × Nat) :=
  (l.zipIdx k).filter (fun q => firesOn w q.1.1 q.1.2.1 q.1.2.2)

/-- The firing of one row. -/
def fireRow (w : Word32) (s : State) (q : TableRow × Nat) : State := fireEntry (q.2 + 1) q.1.1 w s

theorem evalEntry_row (n : Nat) (w : Word32) (q : TableRow) (s : State) :
    evalEntry n q.1 (heldFlag q) w s =
      (if firesOn w q.1 q.2.1 q.2.2 then fireEntry n q.1 w s else s, !q.1.enabled || (w &&& q.1.mask) == q.1.value) := by
  obtain ⟨e, prev, armed⟩ := q
  cases hen : e.enabled
  · simp [evalEntry, firesOn, hen]
  · have hfire : (entryMatches e w && !(heldFlag (e, prev, armed))) = firesOn w e prev armed := by
      simp [entryMatches, heldFlag, onHostMark, firesOn, hen]
    simp only [evalEntry, hen, Bool.not_true, Bool.false_eq_true, if_false, hfire, Bool.false_or]
    rfl

/-- The table's evaluation fires the rows that fire, in order of entry number (R122). -/
theorem evalEntries_rows (w : Word32) (l : List TableRow) (k : Nat) (s : State) :
    evalEntries w (k + 1) (l.map (·.1)) (l.map heldFlag) s =
      ((firedRows w k l).foldl (fireRow w) s, l.map (fun q => !q.1.enabled || (w &&& q.1.mask) == q.1.value)) := by
  induction l generalizing k s with
  | nil => rfl
  | cons q l ih =>
    rw [List.map_cons, List.map_cons, evalEntries, evalEntry_row]
    dsimp only
    rw [ih]
    refine Prod.ext ?_ rfl
    rw [firedRows, firedRows, List.zipIdx_cons, List.filter_cons]
    split
    · next h => rw [List.foldl_cons]; rfl
    · next h => rfl

/-! ## Firings that miss (R126, R132) -/

/-- Every firing is a missed incident: no record is open and no opening granted, or the record is CLOSING. -/
def Misses (s : State) : Prop :=
  (s.cu.opened = none ∧ grantsOpening s = false) ∨ ∃ r, s.cu.opened = some r ∧ r.phase = .closing

theorem fireEntry_misses (n : Nat) (e : TriggerEntry) (w : Word32) {s : State} (h : Misses s) :
    fireEntry n e w s = missIncident s := by
  rcases h with ⟨ho, hg⟩ | ⟨r, ho, hph⟩
  · simp only [fireEntry, ho, openRecord_refused n e w hg]
  · simp only [fireEntry, ho, hph]

theorem Misses.miss {s : State} (h : Misses s) : Misses (missIncident s) := h

/-- The state after `k` missed incidents. -/
def missedTimes (k : Nat) (s : State) : State :=
  { s with
    cu := { s.cu with missed := min 65535 (s.cu.missed + k) }
    cx := { s.cx with notices := if k = 0 then s.cx.notices else s.cx.notices ||| 0x0200 } }

theorem foldl_misses (w : Word32) (l : List (TableRow × Nat)) {s : State} (h : Misses s) (hm : s.cu.missed ≤ 65535) :
    l.foldl (fireRow w) s = missedTimes l.length s := by
  induction l generalizing s with
  | nil => simp [missedTimes, Nat.min_eq_right hm]
  | cons q l ih =>
    have hstep : fireRow w s q = missIncident s := fireEntry_misses _ _ _ h
    have hle : (missIncident s).cu.missed ≤ 65535 := Nat.min_le_left _ _
    rw [List.foldl_cons, hstep, ih h.miss hle, missIncident_eq, missedTimes, missedTimes, List.length_cons]
    have hcount : min 65535 (min 65535 (s.cu.missed + 1) + l.length) = min 65535 (s.cu.missed + (l.length + 1)) := by
      omega
    have hnotice : (if l.length = 0 then s.cx.notices ||| (0x0200 : Word16) else s.cx.notices ||| 0x0200 ||| 0x0200) =
        s.cx.notices ||| 0x0200 := by
      rw [BitVec.or_assoc, BitVec.or_self, ite_self]
    simp only [hcount, hnotice, Nat.succ_ne_zero, if_false]

/-! ## Firings that join (R127) -/

/-- A row's trigger item at frame index `f`. -/
def itemAt (w : Word32) (f : Nat) (q : TableRow × Nat) : TriggerItem := ⟨q.2 + 1, f, w⟩

/-- The end index after the rows' firings. -/
def endAfter (f : Nat) (l : List (TableRow × Nat)) (first : Nat) : Nat :=
  l.foldl (fun n q => max n (min (f + q.1.1.postCount) 1199)) first

/-- The open record after the rows' firings at frame index `f`. -/
def joinedBy (w : Word32) (f : Nat) (l : List (TableRow × Nat)) (r : OpenRecord) : OpenRecord :=
  { r with
    triggers := r.triggers ++ (l.map (itemAt w f)).take (8 - r.triggers.length)
    extraTriggers := min 65535 (r.extraTriggers + (l.length - (8 - r.triggers.length)))
    endIndex := endAfter f l r.endIndex
    protect := r.protect || l.any (fun q => q.1.1.protect) }

theorem joinedBy_cons (w : Word32) (f : Nat) (q : TableRow × Nat) (l : List (TableRow × Nat)) (r : OpenRecord) :
    joinedBy w f l (joinRecord (q.2 + 1) f q.1.1 w r) = joinedBy w f (q :: l) r := by
  by_cases h : r.triggers.length < 8
  · obtain ⟨k, hk⟩ : ∃ k, 8 - r.triggers.length = k + 1 := ⟨7 - r.triggers.length, by omega⟩
    have hk' : 8 - (r.triggers.length + 1) = k := by omega
    simp [joinedBy, joinRecord, h, hk, hk', endAfter, itemAt, Bool.or_assoc]
  · have hk : 8 - r.triggers.length = 0 := by omega
    have hextra : min 65535 (satInc 65535 r.extraTriggers + l.length) =
        min 65535 (r.extraTriggers + (l.length + 1)) := by
      rw [satInc]
      omega
    simp [joinedBy, joinRecord, h, hk, hextra, endAfter, Bool.or_assoc]

/-- The FILLING entry's protect flag joined by another (R127). -/
def protectFilling (b : Bool) (dir : List DirEntry) : List DirEntry :=
  dir.map (fun d => if d.state = .filling then { d with protect := d.protect || b } else d)

theorem protectFilling_false (dir : List DirEntry) : protectFilling false dir = dir := by
  simp [protectFilling]

theorem protectFilling_append (b : Bool) (dir dir' : List DirEntry) :
    protectFilling b (dir ++ dir') = protectFilling b dir ++ protectFilling b dir' := List.map_append

theorem protectFilling_none (b : Bool) {dir : List DirEntry} (h : ∀ x ∈ dir, x.state ≠ .filling) :
    protectFilling b dir = dir :=
  (List.map_congr_left (g := id) fun x hx => if_neg (h x hx)).trans (List.map_id dir)

theorem protectFilling_twice (b c : Bool) (dir : List DirEntry) :
    protectFilling c (protectFilling b dir) = protectFilling (b || c) dir := by
  rw [protectFilling, protectFilling, protectFilling, List.map_map]
  refine List.map_congr_left fun d _ => ?_
  by_cases h : d.state = .filling
  · simp [h, Bool.or_assoc]
  · simp [h]

theorem fireEntry_joins (n : Nat) (e : TriggerEntry) (w : Word32) {s : State} {r : OpenRecord}
    (ho : s.cu.opened = some r) (hph : r.phase = .capturing) :
    fireEntry n e w s = { s with
      cu := { s.cu with opened := some (joinRecord n (r.nextIndex - 1) e w r) }
      sc := { s.sc with directory := protectFilling e.protect s.sc.directory } } := by
  simp only [fireEntry, ho, hph, protectFilling, withSc, withCu, onFilling, beq_iff_eq]

theorem foldl_joins (w : Word32) (l : List (TableRow × Nat)) {s : State} {r : OpenRecord}
    (ho : s.cu.opened = some r) (hph : r.phase = .capturing) (he : r.extraTriggers ≤ 65535) :
    l.foldl (fireRow w) s = { s with
      cu := { s.cu with opened := some (joinedBy w (r.nextIndex - 1) l r) }
      sc := { s.sc with directory := protectFilling (l.any (fun q => q.1.1.protect)) s.sc.directory } } := by
  induction l generalizing s r with
  | nil =>
    have hr : joinedBy w (r.nextIndex - 1) [] r = r := by
      simp [joinedBy, endAfter, Nat.min_eq_right he]
    rw [List.foldl_nil, hr, List.any_nil, protectFilling_false, ← ho]
  | cons q l ih =>
    have hextra : (joinRecord (q.2 + 1) (r.nextIndex - 1) q.1.1 w r).extraTriggers ≤ 65535 := by
      unfold joinRecord
      dsimp only
      split
      · exact he
      · exact Nat.min_le_left _ _
    rw [List.foldl_cons, fireRow, fireEntry_joins _ _ _ ho hph,
      ih (r := joinRecord (q.2 + 1) (r.nextIndex - 1) q.1.1 w r) rfl hph hextra,
      ← joinedBy_cons]
    dsimp only
    rw [protectFilling_twice, List.any_cons]
    rfl

/-! ## The capture's evaluation by rows -/

/-- The table's rows as a capture finds them. -/
def tableRows (s : State) : List TableRow := s.pm.params.triggers.zip (s.cu.prevMatch.zip s.cu.armed)

/-- The condition word of a capture. -/
def captureWord (s : State) : Word32 := conditionWord s s.cu.markPending

section
variable {s : State} (hprev : s.cu.prevMatch.length = s.pm.params.triggers.length)
  (harm : s.cu.armed.length = s.pm.params.triggers.length)
include hprev harm

theorem tableRows_entries : (tableRows s).map (·.1) = s.pm.params.triggers :=
  List.map_fst_zip (by rw [List.length_zip]; omega)

theorem tableRows_held : (tableRows s).map heldFlag = heldBack s.pm.params.triggers (frameTaken s).cu := by
  obtain ⟨hp, ha, _⟩ := takeFrame_flags (frameNow s (captureWord s)) s.cu
  have hp' : (frameTaken s).cu.prevMatch = s.cu.prevMatch := hp
  have ha' : (frameTaken s).cu.armed = s.cu.armed := ha
  rw [heldBack, hp', ha']
  refine List.ext_getElem (by simp [tableRows, hprev, harm]) fun i h1 h2 => ?_
  have hi : i < s.pm.params.triggers.length := by simpa [hprev] using h2
  simp [tableRows, heldFlag, List.getElem?_eq_getElem hi, List.getElem?_eq_getElem (harm ▸ hi : i < s.cu.armed.length)]

theorem tableEvaluated_rows :
    tableEvaluated s = (firedRows (captureWord s) 0 (tableRows s)).foldl (fireRow (captureWord s)) (frameTaken s) := by
  have h := evalEntries_rows (captureWord s) (tableRows s) 0 (frameTaken s)
  rw [tableRows_entries hprev harm, tableRows_held hprev harm] at h
  exact congrArg Prod.fst h

theorem flagsEvaluated_rows :
    flagsEvaluated s = s.pm.params.triggers.map (fun e => !e.enabled || (captureWord s &&& e.mask) == e.value) := by
  have h := evalEntries_rows (captureWord s) (tableRows s) 0 (frameTaken s)
  rw [tableRows_held hprev harm] at h
  have hmap := tableRows_entries hprev harm
  rw [hmap] at h
  refine (congrArg Prod.snd h).trans ?_
  rw [← hmap, List.map_map]
  rfl

end

theorem armAfter_rows {s : State} (harm : s.cu.armed.length = s.pm.params.triggers.length) :
    armAfter s.pm.params.triggers (captureWord s) s.cu.armed =
      (s.pm.params.triggers.zip s.cu.armed).map (fun q =>
        q.1.enabled && (q.2 || !((captureWord s &&& q.1.mask) == q.1.value))) := by
  refine List.ext_getElem (by simp [armAfter, harm]) fun i h1 h2 => ?_
  have hi : i < s.pm.params.triggers.length := by simpa [armAfter, harm] using h1
  simp [armAfter, List.getElem?_eq_getElem hi, entryMatches]

theorem tableEvaluated_armed (s : State) : (tableEvaluated s).cu.armed = s.cu.armed := by
  refine evalEntries_keeps (P := fun u => u.cu.armed = s.cu.armed) (fun n e u hu => ?_) _ _ _
    (takeFrame_flags (frameNow s (captureWord s)) s.cu).2.1
  unfold fireEntry
  split
  · unfold openRecord
    split <;> exact hu
  · split <;> exact hu

/-- The record after the end test (R131). -/
def endTested (r : OpenRecord) : OpenRecord :=
  if r.nextIndex = r.endIndex + 1 then { r with phase := .closing, endReason := some .complete } else r

theorem endTested_eq (r : OpenRecord) : endTested r = { r with
    phase := if r.nextIndex = r.endIndex + 1 then .closing else r.phase
    endReason := if r.nextIndex = r.endIndex + 1 then some .complete else r.endReason } := by
  unfold endTested
  split <;> rfl

theorem endRecord_none {cu : CaptureUnit} (h : cu.opened = none) : (endRecord cu).opened = none := by
  simp [endRecord, h]

theorem endRecord_closing {cu : CaptureUnit} {r : OpenRecord} (h : cu.opened = some r) (hph : r.phase = .closing) :
    (endRecord cu).opened = some r := by
  simp [endRecord, h, hph]

theorem endRecord_capturing {cu : CaptureUnit} {r : OpenRecord} (h : cu.opened = some r) (hph : r.phase = .capturing) :
    (endRecord cu).opened = some (endTested r) := by
  simp only [endRecord, h, hph, true_and, endTested]
  split
  · rfl
  · exact h

theorem capture_opened {s : State} (hc : capturesNow s = true) :
    (capture s).cu.opened = (endRecord (tableEvaluated s).cu).opened := by
  rw [capture_eq hc, withCu_cu]
  unfold endRecord
  dsimp only
  split
  · split <;> rfl
  · rfl

/-- What a capture takes over from the table's evaluation. -/
theorem capture_kept {s : State} (hc : capturesNow s = true) :
    (capture s).sc = (tableEvaluated s).sc ∧ (capture s).cx = (tableEvaluated s).cx ∧
      (capture s).cu.missed = (tableEvaluated s).cu.missed ∧ (capture s).cu.ring = (tableEvaluated s).cu.ring := by
  rw [capture_eq hc, withCu_cu, endRecord_frame]
  exact ⟨rfl, rfl, rfl, rfl⟩

theorem frameTaken_kept (s : State) :
    (frameTaken s).sc = s.sc ∧ (frameTaken s).cx = s.cx ∧ (frameTaken s).cu.missed = s.cu.missed :=
  ⟨rfl, rfl, (takeFrame_flags (frameNow s (captureWord s)) s.cu).2.2⟩

theorem frameTaken_none {s : State} (h : s.cu.opened = none) : (frameTaken s).cu.opened = none := by
  have := takeFrame_isSome (frameNow s (captureWord s)) s.cu
  rw [h] at this
  exact Option.not_isSome_iff_eq_none.mp (by rw [show (frameTaken s).cu.opened.isSome = false from this]; simp)

theorem frameTaken_closing {s : State} {r : OpenRecord} (ho : s.cu.opened = some r) (hph : r.phase = .closing) :
    (frameTaken s).cu.opened = some r := by
  simp only [frameTaken, withCu_cu, takeFrame, ho, hph, reduceCtorEq, if_false]

/-! ## The capture by the state of the record -/

/-- The rows that fire on a capture. -/
def captureFired (s : State) : List (TableRow × Nat) := firedRows (captureWord s) 0 (tableRows s)

/-- The state a capture's evaluation leaves where every firing is missed. -/
theorem tableEvaluated_misses {s : State} (hprev : s.cu.prevMatch.length = s.pm.params.triggers.length)
    (harm : s.cu.armed.length = s.pm.params.triggers.length) (hm : s.cu.missed ≤ 65535) (h : Misses (frameTaken s)) :
    tableEvaluated s = missedTimes (captureFired s).length (frameTaken s) := by
  rw [tableEvaluated_rows hprev harm]
  exact foldl_misses _ _ h ((frameTaken_kept s).2.2 ▸ hm)

/-- Whether any row that fires asks for protection. -/
def firedProtect (l : List (TableRow × Nat)) : Bool := l.any (fun q => q.1.1.protect)

/-- The opening that the first row to fire is granted, joined by the rest. -/
theorem foldl_opens (w : Word32) (q : TableRow × Nat) (rest : List (TableRow × Nat)) {s : State}
    (ho : s.cu.opened = none) (hg : grantsOpening s = true) :
    (q :: rest).foldl (fireRow w) s = { s with
      sc := { openEntry q.1.1.protect s.sc with
        directory := protectFilling (firedProtect rest) (openEntry q.1.1.protect s.sc).directory }
      cu := { s.cu with
        ring := takeIntoRecord (preFrames q.1.1 s) s.cu.ring
        opened := some (joinedBy w (preFrames q.1.1 s) rest (newRecord (openingNumber (makeRoom s.sc))
          (preFrames q.1.1 s) (q.2 + 1) q.1.1 w s.cu.missed (usedDemand s).hostTime))
        missed := 0 } } := by
  have hstep : fireRow w s q = openRecord (q.2 + 1) q.1.1 w s := by simp only [fireRow, fireEntry, ho]
  rw [List.foldl_cons, hstep, openRecord_granted _ _ _ hg, foldl_joins w rest (r := newRecord _ _ _ _ _ _ _) rfl rfl
    (Nat.zero_le _)]
  rfl

/-- The record of an opening joined by the rest of the rows. -/
theorem joinedBy_newRecord (w : Word32) (number p missed : Nat) (q : TableRow × Nat) (rest : List (TableRow × Nat))
    (time : Option Nat) :
    joinedBy w p rest (newRecord number p (q.2 + 1) q.1.1 w missed time) =
      { newRecord number p (q.2 + 1) q.1.1 w missed time with
        triggers := ((q :: rest).map (itemAt w p)).take 8
        extraTriggers := min 65535 ((q :: rest).length - 8)
        endIndex := endAfter p (q :: rest) 0, protect := firedProtect (q :: rest) } := by
  have hextra : 0 + (rest.length - 7) = (q :: rest).length - 8 := by rw [List.length_cons]; omega
  simp only [joinedBy, newRecord, List.length_singleton, Nat.reduceSub, hextra, endAfter, List.foldl_cons,
    Nat.zero_max, firedProtect, List.any_cons, List.map_cons, List.singleton_append, List.take_succ_cons, itemAt]

theorem RoomMade.mem {sc : StoreController} {dir : List DirEntry} {marks : List Nat} (h : RoomMade sc dir marks)
    {x : DirEntry} (hx : x ∈ dir) : x ∈ sc.directory := by
  rcases Nat.lt_or_ge sc.directory.length 32 with hl | hl
  · rwa [← (h.1 hl).1]
  · obtain ⟨pre, v, post, hd, hdir, -⟩ := h.2 hl
    rw [hdir, List.mem_append] at hx
    rw [hd, List.mem_append]
    exact hx.imp_right (List.mem_cons_of_mem v)

/-- What a capture leaves where every firing is missed. -/
theorem capture_misses {s : State} (hc : capturesNow s = true)
    (hprev : s.cu.prevMatch.length = s.pm.params.triggers.length)
    (harm : s.cu.armed.length = s.pm.params.triggers.length) (hm : s.cu.missed ≤ 65535)
    (h : captureFired s = [] ∨ Misses (frameTaken s)) :
    (capture s).cu.opened = (endRecord (frameTaken s).cu).opened ∧ (capture s).sc = s.sc ∧
      (capture s).cu.missed = min 65535 (s.cu.missed + (captureFired s).length) ∧
      (capture s).cx.notices = (if captureFired s = [] then s.cx.notices else s.cx.notices ||| 0x0200) := by
  have heval : tableEvaluated s = missedTimes (captureFired s).length (frameTaken s) := by
    rcases h with h | h
    · have hm' : (frameTaken s).cu.missed ≤ 65535 := (frameTaken_kept s).2.2 ▸ hm
      rw [tableEvaluated_rows hprev harm, ← captureFired, h]
      simp [missedTimes, Nat.min_eq_right hm']
    · exact tableEvaluated_misses hprev harm hm h
  obtain ⟨hsc, hcx, hmissed, -⟩ := capture_kept hc
  rw [capture_opened hc, hsc, hcx, hmissed, heval, missedTimes]
  refine ⟨?_, rfl, congrArg (fun n => min 65535 (n + _)) (frameTaken_kept s).2.2, ?_⟩
  · unfold endRecord
    dsimp only
    split
    · split <;> rfl
    · rfl
  · simp only [List.length_eq_zero_iff]
    rfl

/-- Settles O32: the opening's test, the opening itself, and the firings of a capture by the state of the record. -/
theorem openingFormsTheRecord : Obligations.OpeningFormsTheRecord := by
  refine ⟨grantsOpening_iff, fun n e w s hring hok => ⟨fun hg => ?granted, fun hg => ?refused⟩,
    fun s hp hc hprev harm hm => ?capture⟩
  case granted =>
    have hlen : preFrames e s < s.cu.ring.length := by
      have := List.length_pos_iff.mpr hring
      rw [preFrames]
      omega
    have hroom := room_of_grants hg
    obtain ⟨hroomlt, -, -⟩ := makeRoom_keeps hok hroom
    rw [openRecord_granted n e w hg, openEntry_eq]
    refine ⟨_, rfl, rfl, rfl, rfl, rfl, rfl, rfl, rfl, rfl, rfl, rfl, rfl,
      fun j hj => takeIntoRecord_standing hj hlen, rfl, ⟨(makeRoom s.sc).directory, openingEntry e.protect s.sc, rfl, rfl,
        rfl, rfl, rfl, rfl, rfl, rfl, openingNumber_fresh hroomlt, makeRoom_room hok hroom, fun hfree => ?_, rfl, rfl⟩, ?_⟩
    · have hnext : (makeRoom s.sc).nextNumber = s.sc.nextNumber := by rw [makeRoom_fields]
      exact (openingNumber_next (fun x hx => hnext ▸ hfree x hx)).trans hnext
    · simp only [List.length_append, List.length_singleton]
      omega
  case refused =>
    rw [openRecord_refused n e w hg, missIncident_eq]
    exact ⟨rfl, rfl, rfl, rfl⟩
  case capture =>
    obtain ⟨hsc, hcx, hmissed, hring⟩ := capture_kept hc
    obtain ⟨hsc', hcx', hmissed'⟩ := frameTaken_kept s
    have hgrants : grantsOpening (frameTaken s) = grantsOpening s := rfl
    refine ⟨_, exec_capture hp, ?_, ?_, fun ho hcase => ?missed, fun q rest ho hfired hg hok hfill => ?opens,
      fun r ho hph hextra => ?joins, fun r ho hph => ?closing⟩
    · rw [capture_eq hc, withCu_cu, endRecord_frame]
      exact flagsEvaluated_rows hprev harm
    · rw [capture_eq hc, withCu_cu, endRecord_frame]
      dsimp only
      rw [tableEvaluated_armed]
      exact armAfter_rows harm
    case missed =>
      have hnone := frameTaken_none ho
      obtain ⟨hopen, hsc, hmissed, hnotice⟩ := capture_misses hc hprev harm hm
        (hcase.imp_right fun hg => .inl ⟨hnone, hg⟩)
      exact ⟨hopen.trans (endRecord_none hnone), hsc, hmissed, hnotice⟩
    case opens =>
      have heval := tableEvaluated_rows hprev harm
      rw [show firedRows (captureWord s) 0 (tableRows s) = q :: rest from hfired,
        foldl_opens _ q rest (frameTaken_none ho) hg] at heval
      have hroom := makeRoom_room hok (room_of_grants hg)
      have hdir : (capture s).sc.directory = (makeRoom s.sc).directory ++
          [openingEntry (firedProtect (q :: rest)) s.sc] := by
        rw [hsc, heval]
        dsimp only
        rw [openEntry_eq, hsc', protectFilling_append,
          protectFilling_none _ fun x hx => hfill x (hroom.mem hx)]
        rfl
      have hlen : (capture s).cu.ring.length = (frameTaken s).cu.ring.length := by
        rw [hring, heval]
        simp [takeIntoRecord]
      have hopen : (capture s).cu.opened = some (endTested (joinedBy (captureWord s) (preFrames q.1.1 (frameTaken s)) rest
          (newRecord (openingNumber (makeRoom s.sc)) (preFrames q.1.1 (frameTaken s)) (q.2 + 1) q.1.1 (captureWord s)
            s.cu.missed (usedDemand s).hostTime))) := by
        rw [capture_opened hc, heval, endRecord_capturing rfl rfl, hmissed']
        rfl
      rw [joinedBy_newRecord, endTested_eq] at hopen
      obtain ⟨hstill, hzero⟩ : (capture s).cx = s.cx ∧ (capture s).cu.missed = 0 := by
        rw [hcx, hmissed, heval]
        exact ⟨rfl, rfl⟩
      have hmarks : (capture s).sc.pendingMarks = (makeRoom s.sc).pendingMarks := by
        rw [hsc, heval, openEntry_eq]
        rfl
      refine ⟨_, _, _, hopen, by rw [hlen]; rfl, ?_, ?_, ?_, ?_, rfl, rfl, rfl, rfl, rfl, ?_, ?_, hzero, hstill, hdir,
        rfl, rfl, rfl, ?_, hmarks ▸ hroom⟩
      · rw [hfired]; rfl
      · rw [hfired]
      · rw [hfired]; rfl
      · rw [hfired]; rfl
      · exact ite_congr (propext Nat.add_right_cancel_iff) (fun _ => rfl) fun _ => rfl
      · exact ite_congr (propext Nat.add_right_cancel_iff) (fun _ => rfl) fun _ => rfl
      · rw [hfired]; rfl
    case joins =>
      have heval := tableEvaluated_rows hprev harm
      rw [foldl_joins _ _ (frameTaken_capturing ho hph) hph hextra] at heval
      refine ⟨?_, ?_, ?_, ?_⟩
      · rw [capture_opened hc, heval, endRecord_capturing rfl (by exact hph)]
        simp only [endTested, joinedBy, frameCounted, Nat.add_right_cancel_iff, Nat.add_sub_cancel]
        rfl
      · rw [hmissed, heval]
        exact hmissed'
      · rw [hcx, heval]
        rfl
      · rw [hsc, heval]
        rfl
    case closing =>
      have htaken := frameTaken_closing ho hph
      obtain ⟨hopen, hsc, hmissed, hnotice⟩ := capture_misses hc hprev harm hm (.inr (.inr ⟨r, htaken, hph⟩))
      exact ⟨hopen.trans (endRecord_closing htaken hph), hsc, hmissed, hnotice⟩

end Sys2Proof.Machine
end


section
/-! PROOFS. SC's completions (Chapter 8): what each leaves, by the operation that holds the port, and the relocator's
start. -/

namespace Sys2Proof.Machine

/-! ## The commands of the port -/

theorem exec_programComplete (ok : Bool) {s : State} (hp : s.powered = true) :
    exec (.programComplete ok) s = .next (programComplete ok s) := by
  have harm : exec (.programComplete ok) s = done s (programComplete ok s) := rfl
  rw [harm, done_powered _ hp]

theorem exec_markProgramComplete (ok : Bool) {s : State} (hp : s.powered = true) :
    exec (.markProgramComplete ok) s = .next (markComplete ok s) := by
  have harm : exec (.markProgramComplete ok) s = done s (markComplete ok s) := rfl
  rw [harm, done_powered _ hp]

theorem exec_eraseComplete (ok : Bool) {s : State} (hp : s.powered = true) :
    exec (.eraseComplete ok) s = .next (eraseComplete ok s) := by
  have harm : exec (.eraseComplete ok) s = done s (eraseComplete ok s) := rfl
  rw [harm, done_powered _ hp]

theorem exec_copyComplete (o : MediumOutcome) (ok : Bool) {s : State} (hp : s.powered = true) :
    exec (.copyComplete o ok) s = .next (copyComplete o ok s) := by
  have harm : exec (.copyComplete o ok) s = done s (copyComplete o ok s) := rfl
  rw [harm, done_powered _ hp]

theorem exec_mapWriteComplete (ok : Bool) {s : State} (hp : s.powered = true) :
    exec (.mapWriteComplete ok) s = .next (mapWriteComplete ok s) := by
  have harm : exec (.mapWriteComplete ok) s = done s (mapWriteComplete ok s) := rfl
  rw [harm, done_powered _ hp]

theorem exec_relocationStart {s : State} (hp : s.powered = true) :
    exec .relocationStart s = .next (relocationStart s) := by
  have harm : exec .relocationStart s = done s (relocationStart s) := rfl
  rw [harm, done_powered _ hp]

/-! ## RELOCATION START (R153) -/

theorem restartRelocation_spare {s : State} {target : Nat} (block : Nat) (h : LowestSpare s.sc.map target) :
    restartRelocation block s = withSc (fun sc =>
      { sc with map := setBlockState target .target sc.map, relocation := some ⟨block, target, .erase⟩ }) s := by
  unfold restartRelocation
  rw [LowestSpare.found.1 h]

theorem restartRelocation_none {s : State} (block : Nat) (h : NoSpare s.sc.map) :
    restartRelocation block s = raise .storeWear (withSc (fun sc => { sc with relocation := none }) s) := by
  unfold restartRelocation
  rw [NoSpare.found.1 h]

/-- What is found in a list is its first element that passes, and does pass. -/
theorem find?_first {α : Type} {p : α → Bool} {l : List α} {b : α} (h : l.find? p = some b) :
    p b = true ∧ ∃ pre post, l = pre ++ b :: post ∧ ∀ x ∈ pre, p x = false := by
  obtain ⟨hb, pre, post, hl, hpre⟩ := List.find?_eq_some_iff_append.mp h
  exact ⟨hb, pre, post, hl, fun x hx => by simpa using hpre x hx⟩

/-- Settles O42: the idle relocator's start, with a spare and with none. -/
theorem relocationTakesOldestEntry : Obligations.RelocationTakesOldestEntry := by
  intro b s hp hr hc hn he
  obtain ⟨hb, pre, post, hl, hpre⟩ := find?_first he
  have hstart : relocationStart s = restartRelocation b
      (withSc (fun sc => { sc with relocQueue := sc.relocQueue.filter (fun x => !(x == b)) }) s) := by
    unfold relocationStart
    rw [if_pos (by simp [hr, hc, hn]), he]
  rw [exec_relocationStart hp, hstart]
  refine ⟨by simpa [blockOf] using hb, ⟨pre, post, hl, fun x hx => by simpa [blockOf] using hpre x hx⟩,
    fun target ht => ?_, fun hns => ?_⟩
  · rw [restartRelocation_spare b (by exact ht)]
    exact ⟨_, rfl, rfl, rfl, rfl, rfl⟩
  · rw [restartRelocation_none b (by exact hns)]
    exact ⟨_, rfl, rfl, rfl, rfl, rfl⟩

/-! ## MARK PROGRAM COMPLETE (R149) -/

/-- A mark that succeeds leaves 00h in byte 510 of every section it was granted for. -/
theorem markStore_zero {sections : List Nat} (hs : ∀ p ∈ sections, p < 136 * 16) {free : Nat} {m : Medium}
    (h : m.wf = true) {p : Nat} (hp : p ∈ sections) :
    readByte (markStore true free m sections).cells (p * 512 + 510) = 0 := by
  induction sections generalizing free m with
  | nil => cases hp
  | cons q qs ih =>
    have hw := writeStoreByte_wf (q * sectionSize + 510) (if true then 0 else Config.freeByte free) h
    by_cases hq : p ∈ qs
    · exact ih (fun x hx => hs x (List.mem_cons_of_mem _ hx)) hw hq
    · obtain rfl : p = q := (List.mem_cons.mp hp).resolve_right hq
      have hne : ∀ x ∈ qs, p * 512 + 510 ≠ x * 512 + 510 := fun x hx e => hq ((show p = x by omega) ▸ hx)
      have hlt := hs p List.mem_cons_self
      rw [markStore, (markStore_spec true qs hw).2 _ hne]
      exact (writeStoreByte_spec h _ _).2.2 (by simp only [sectionSize, storeBytes]; omega)

/-- Settles O38: byte 510 of the mark's sections and no other byte. -/
theorem releaseMarkIsWritten : Obligations.ReleaseMarkIsWritten := by
  intro number sections d ok s hp hw hport hs
  have hmark : markComplete ok s = withSc (fun sc =>
      { sc with port := none, pendingMarks := sc.pendingMarks.filter (fun n => !(n == number)) })
      { s with medium := markStore ok s.freeCount s.medium sections, freeCount := s.freeCount + sections.length } := by
    unfold markComplete
    rw [hport]
    rfl
  rw [exec_markProgramComplete ok hp, hmark]
  refine ⟨_, rfl, rfl, rfl, by simp [withSc], rfl, fun hok p hpm => ?_, (markStore_spec ok sections hw).2⟩
  subst hok
  exact markStore_zero hs hw hpm

end Sys2Proof.Machine
end


section
/-! PROOFS. PROGRAM COMPLETE (R138, R140, R145, R150, R151): the section on the medium, the position that advances, and
the recovery that begins. -/

namespace Sys2Proof.Machine

/-! ## What the steps between two operations leave alone -/

/-- `t` differs from `s` in SC, CU and the notice set at most. -/
structure StoreStep (s t : State) : Prop where
  eq : t = { s with sc := t.sc, cu := t.cu, cx := { s.cx with notices := t.cx.notices } }

theorem StoreFrame.step {s t : State} (h : StoreFrame s t) (hm : t.medium = s.medium) (hf : t.freeCount = s.freeCount) :
    StoreStep s t := by
  obtain ⟨h1, h2, h3, h4, h5, h6, h7, h8, h9, h10, h11, h12, h13, h14, h15, h16⟩ := h
  constructor
  dsimp only
  rw [← h1, ← h2, ← h3, ← h4, ← h5, ← h6, ← h7, ← h8, ← h9, ← h10, ← h11, ← h12, ← hm, ← hf, ← h13, ← h14, ← h15, ← h16]

theorem StoreStep.trans {s t u : State} (h : StoreStep s t) (k : StoreStep t u) : StoreStep s u where
  eq := calc
    u = { t with sc := u.sc, cu := u.cu, cx := { t.cx with notices := u.cx.notices } } := k.eq
    _ = { s with sc := u.sc, cu := u.cu, cx := { s.cx with notices := u.cx.notices } } := by rw [h.eq]

theorem StoreStep.medium {s t : State} (h : StoreStep s t) : t.medium = s.medium := (congrArg State.medium h.eq).trans rfl

theorem StoreStep.li {s t : State} (h : StoreStep s t) : t.li = s.li := (congrArg State.li h.eq).trans rfl

theorem StoreStep.rebuildEnded {s t : State} (h : StoreStep s t) : t.cx.rebuildEnded = s.cx.rebuildEnded :=
  (congrArg (fun u : State => u.cx.rebuildEnded) h.eq).trans rfl

theorem truncateOpen_freeCount (e : EndReason) (keep : List Nat) (s : State) :
    (truncateOpen e keep s).freeCount = s.freeCount := by
  unfold truncateOpen
  split <;> rfl

theorem closeWithoutTrailer_freeCount (s : State) : (closeWithoutTrailer s).freeCount = s.freeCount := by
  unfold closeWithoutTrailer
  split <;> rfl

theorem truncateStoreFull_freeCount (s : State) : (truncateStoreFull s).freeCount = s.freeCount := by
  unfold truncateStoreFull
  dsimp only
  split
  · exact truncateOpen_freeCount _ _ s
  · exact (closeWithoutTrailer_freeCount _).trans (truncateOpen_freeCount _ _ s)

theorem beginStoreFull_freeCount (s : State) : (beginStoreFull s).freeCount = s.freeCount := by
  unfold beginStoreFull
  split
  · rfl
  · exact truncateStoreFull_freeCount _

theorem examine_freeCount (s : State) : (examine s).freeCount = s.freeCount := by
  unfold examine
  dsimp only
  split
  · rfl
  · exact beginStoreFull_freeCount _

theorem enterBlock_freeCount (s : State) : (enterBlock s).freeCount = s.freeCount := by
  unfold enterBlock
  dsimp only
  split
  · exact examine_freeCount _
  · rfl

theorem advancePosition_freeCount (s : State) : (advancePosition s).freeCount = s.freeCount := by
  unfold advancePosition
  dsimp only
  split
  · rfl
  · split
    · exact enterBlock_freeCount _
    · split
      · exact closeWithoutTrailer_freeCount _
      · rfl

theorem advancePosition_step (s : State) : StoreStep s (advancePosition s) :=
  (advancePosition_frame s).step (advancePosition_tidy s).medium (advancePosition_freeCount s)

/-! ## The open record through the examination -/

theorem TruncatedAt.of_cu {r : OpenRecord} {n : Nat} {s t : State} (h : TruncatedAt r n s) (hc : t.cu = s.cu) :
    TruncatedAt r n t := by
  unfold TruncatedAt
  rw [hc]
  exact h

theorem closeWithoutTrailer_none {s : State} (h : s.cu.opened = none) : closeWithoutTrailer s = s := by
  unfold closeWithoutTrailer
  rw [h]

theorem truncateStoreFull_none {s : State} (h : s.cu.opened = none) : truncateStoreFull s = s := by
  unfold truncateStoreFull
  dsimp only
  rw [truncateOpen_none _ _ h, closeWithoutTrailer_none h, ite_self]

/-- An examination leaves the store-full state as it was, or begins it. -/
theorem ExaminedAt.storeFull {block : Nat} {dir : List DirEntry} {full : Bool} {s t : State}
    (h : ExaminedAt block dir full s t) : t.sc.storeFull = full ∨ t.sc.storeFull = true := by
  obtain ⟨hfree, hheld⟩ := h
  refine (Classical.em _).elim (fun hall => .inl (hfree hall).2.1) (fun hn => .inr (hheld ?_).2.1)
  simpa only [Classical.not_forall, exists_prop] using hn

/-- The entry of a block leaves the open record as it is, or truncates it (R133). -/
theorem enterBlock_record (s : State) :
    (enterBlock s).cu = s.cu ∨
    ∃ r, s.cu.opened = some r ∧ TruncatedAt r (programmedFrames s.sc) (enterBlock s) := by
  by_cases hx : examinesOnEntry s = true
  · obtain ⟨hexam, hsame, honset⟩ := enterBlock_spec (s := s) (by simpa [examinesOnEntry] using hx)
    by_cases hf : (enterBlock s).sc.storeFull = s.sc.storeFull
    · exact .inl (hsame hf).1
    · have hfull := hexam.storeFull.resolve_left hf
      have hwas : s.sc.storeFull = false := by
        rw [hfull] at hf
        simpa using Ne.symm hf
      obtain ⟨hopen, hnone⟩ := honset hwas hfull
      cases ho : s.cu.opened with
      | none => exact .inl (hnone ho)
      | some r => exact .inr ⟨r, rfl, hopen r ho⟩
  · left
    unfold enterBlock
    dsimp only
    rw [if_neg hx]
    rfl

theorem enterBlock_noRecord {s : State} (h : s.cu.opened = none) : (enterBlock s).cu = s.cu := by
  obtain h' | ⟨r, hr, -⟩ := enterBlock_record s
  · exact h'
  · rw [h] at hr
    cases hr

/-- A truncated record stays so as a block is entered: a second truncation sets the same count. -/
theorem enterBlock_truncated {s : State} {r : OpenRecord} (h : TruncatedAt r (programmedFrames s.sc) s) :
    TruncatedAt r (programmedFrames s.sc) (enterBlock s) := by
  obtain h' | ⟨r', hr', ht⟩ := enterBlock_record s
  · exact h.of_cu h'
  · rw [h.1] at hr'
    cases hr'
    exact ht

/-- The examination's end depends on the state before it by its pending marks alone. -/
theorem ExaminedAt.of_marks {block : Nat} {dir : List DirEntry} {full : Bool} {u s t : State}
    (h : ExaminedAt block dir full u t) (hm : u.sc.pendingMarks = s.sc.pendingMarks) :
    ExaminedAt block dir full s t := by
  unfold ExaminedAt at h ⊢
  rw [hm] at h
  exact h

/-! ## The position (R140) -/

theorem advancePosition_within {s : State} (h : (s.sc.position + 1) % 2048 % 16 ≠ 0) :
    advancePosition s = withSc (fun sc => { sc with position := (s.sc.position + 1) % 2048 }) s := if_pos h

theorem advancePosition_enters {s : State} (h : (s.sc.position + 1) % 2048 % 16 = 0) (hd : s.sc.eraseAhead = .done) :
    advancePosition s = enterBlock (withSc (fun sc => { sc with position := (s.sc.position + 1) % 2048 }) s) := by
  unfold advancePosition
  dsimp only
  rw [if_neg (Decidable.not_not.mpr h), if_pos hd]

/-- The position waits at the slot 0 of a block that is not erased. -/
def waiting (s : State) : State :=
  withSc (fun sc => { sc with position := (s.sc.position + 1) % 2048, seat := .unerased }) s

theorem advancePosition_waits {s : State} (h : (s.sc.position + 1) % 2048 % 16 = 0) (hd : s.sc.eraseAhead ≠ .done) :
    advancePosition s =
      if s.sc.storeFull = true ∨ s.li.closing = true then closeWithoutTrailer (waiting s) else waiting s := by
  unfold advancePosition
  dsimp only
  rw [if_neg (Decidable.not_not.mpr h), if_neg hd]
  simp only [Bool.or_eq_true]
  rfl

/-- What the position's advance leaves of SC. -/
theorem advancePosition_keeps (s : State) :
    (advancePosition s).sc.position = (s.sc.position + 1) % 2048 ∧
    (advancePosition s).sc.recovery = s.sc.recovery ∧
    (s.sc.port = none → (advancePosition s).sc.port = none) := by
  by_cases h : (s.sc.position + 1) % 2048 % 16 = 0
  · by_cases hd : s.sc.eraseAhead = .done
    · rw [advancePosition_enters h hd]
      obtain ⟨-, hk⟩ := enterBlock_keeps (withSc (fun sc => { sc with position := (s.sc.position + 1) % 2048 }) s)
      exact ⟨hk.position, hk.recovery, hk.port⟩
    · rw [advancePosition_waits h hd]
      obtain ⟨-, -, -, -, hsc⟩ := closeWithoutTrailer_keeps (waiting s)
      split
      · rw [hsc]
        exact ⟨rfl, rfl, id⟩
      · exact ⟨rfl, rfl, id⟩
  · rw [advancePosition_within h]
    exact ⟨rfl, rfl, id⟩

/-! ## The section programmed (R145) -/

/-- What a programmed section leaves of SC beside the directory and the owed TRAILER. -/
theorem sectionDone_sc (job : SectionJob) (logical : Nat) (s : State) :
    (sectionDone job logical s).sc = { s.sc with
      directory := (sectionDone job logical s).sc.directory
      rebuildTrailer := (sectionDone job logical s).sc.rebuildTrailer } := by
  cases job with
  | rebuildTrailer =>
    unfold sectionDone
    dsimp only
    split <;> rfl
  | header => rfl
  | frames indices => rfl
  | trailer => rfl

theorem sectionDone_position (job : SectionJob) (logical : Nat) (s : State) :
    (sectionDone job logical s).sc.position = s.sc.position := by rw [sectionDone_sc]

theorem sectionDone_eraseAhead (job : SectionJob) (logical : Nat) (s : State) :
    (sectionDone job logical s).sc.eraseAhead = s.sc.eraseAhead := by rw [sectionDone_sc]

theorem sectionDone_storeFull (job : SectionJob) (logical : Nat) (s : State) :
    (sectionDone job logical s).sc.storeFull = s.sc.storeFull := by rw [sectionDone_sc]

theorem sectionDone_recovery (job : SectionJob) (logical : Nat) (s : State) :
    (sectionDone job logical s).sc.recovery = s.sc.recovery := by rw [sectionDone_sc]

theorem sectionDone_pendingMarks (job : SectionJob) (logical : Nat) (s : State) :
    (sectionDone job logical s).sc.pendingMarks = s.sc.pendingMarks := by rw [sectionDone_sc]

theorem sectionDone_step (job : SectionJob) (logical : Nat) (s : State) : StoreStep s (sectionDone job logical s) := by
  cases job with
  | rebuildTrailer =>
    unfold sectionDone
    dsimp only
    split <;> exact ⟨rfl⟩
  | header => exact ⟨rfl⟩
  | frames indices => exact ⟨rfl⟩
  | trailer => exact ⟨rfl⟩

/-- The FILLING entry as a section of the open record programmed at `logical` leaves it (R145, R134). -/
def entryProgrammed (job : SectionJob) (logical : Nat) (reason : Option EndReason) (e : DirEntry) : DirEntry :=
  match job with
  | .header => { e with sectionCount := offsetOf e.first logical + 1 }
  | .frames indices =>
    { e with sectionCount := offsetOf e.first logical + 1, frameCount := e.frameCount + indices.length }
  | .trailer =>
    { e with sectionCount := offsetOf e.first logical + 1, state := .held, endReason := reason, trailer := some logical }
  | .rebuildTrailer => e

theorem sectionDone_directory {job : SectionJob} (hj : job ≠ .rebuildTrailer) (logical : Nat) (s : State) :
    (sectionDone job logical s).sc.directory = s.sc.directory.map (fun e =>
      if e.state = .filling then entryProgrammed job logical (s.cu.opened.bind (·.endReason)) e else e) := by
  have hb : ∀ (e : DirEntry) (x : DirEntry), (if e.state == .filling then x else e) = if e.state = .filling then x else e :=
    fun e x => by simp only [beq_iff_eq]
  cases job with
  | rebuildTrailer => exact absurd rfl hj
  | header => exact List.map_congr_left fun e _ => hb e _
  | frames indices => exact List.map_congr_left fun e _ => hb e _
  | trailer => exact List.map_congr_left fun e _ => hb e _

/-- A section that is not the TRAILER leaves the open record and the notices. -/
theorem sectionDone_opened {job : SectionJob} (hj : job ≠ .trailer) (logical : Nat) (s : State) :
    (sectionDone job logical s).cu.opened = s.cu.opened ∧ (sectionDone job logical s).cx = s.cx := by
  cases job with
  | rebuildTrailer =>
    unfold sectionDone
    dsimp only
    split <;> exact ⟨rfl, rfl⟩
  | header => exact ⟨rfl, rfl⟩
  | frames indices => exact ⟨rfl, rfl⟩
  | trailer => exact absurd rfl hj

/-- The TRAILER closes the record, with its notice (R134). -/
theorem sectionDone_trailer (logical : Nat) (s : State) :
    (sectionDone .trailer logical s).cu.opened = none ∧
    (sectionDone .trailer logical s).cx = { s.cx with notices := s.cx.notices ||| 0x4000 } := ⟨rfl, rfl⟩

/-- A program of bytes 0 to 509, of whatever number of bytes (R138). -/
theorem programSection_bytes {m : Medium} (h : m.wf = true) {phys : Nat} (hp : phys < 136 * 16) (bs : List Byte) :
    programSection m phys bs = { m with cells := (programSection m phys bs).cells } ∧
    (∀ i, i < 510 → i < bs.length → readByte (programSection m phys bs).cells (phys * 512 + i) = bs.getD i 0) ∧
    ∀ a, ¬inRun (phys * 512) (min 510 bs.length) a →
      readByte (programSection m phys bs).cells a = readByte m.cells a := by
  have hc := ((medium_wf_iff m).1 h).1
  have hlen : (bs.take 510).length = min 510 bs.length := List.length_take
  unfold programSection
  rw [if_pos hp]
  refine ⟨rfl, fun i hi hb => ?_, fun a ha => ?_⟩
  · refine (readByte_writeRun_inside hc (phys * sectionSize) (bs.take 510) (i := i) (by omega)).trans ?_
    rw [List.getElem_take, List.getD_eq_getElem?_getD, List.getElem?_eq_getElem hb]
    rfl
  · refine readByte_writeRun_outside hc _ _ ?_
    rw [hlen]
    simp only [inRun, sectionSize] at ha ⊢
    omega

/-- The state with the section on the medium, the port free and no recovery. -/
def programmed (phys : Nat) (bytes : List Byte) (s : State) : State :=
  { s with medium := programSection s.medium phys bytes, sc := { s.sc with port := none, recovery := none } }

theorem programComplete_programmed {job : SectionJob} {logical phys : Nat} {bytes : List Byte} {d : Bool} {s : State}
    (h : s.sc.port = some ⟨.writer, .program job logical phys bytes, d⟩) :
    programComplete true s = advancePosition (sectionDone job logical (programmed phys bytes s)) := by
  unfold programComplete
  rw [h]
  rfl

end Sys2Proof.Machine
end


section
/-! PROOFS. PROGRAM COMPLETE with success: the claim's three parts, anywhere in a block, a TRAILER's, and slot 15. -/

namespace Sys2Proof.Machine

/-- Wherever in its block the section lies: its bytes, the free port, and the position. -/
theorem programComplete_stores {job : SectionJob} {logical phys : Nat} {bytes : List Byte} {d : Bool} {s : State}
    (hport : s.sc.port = some ⟨.writer, .program job logical phys bytes, d⟩) :
    let t := programComplete true s
    StoreStep (programmed phys bytes s) t ∧ t.sc.port = none ∧ t.sc.recovery = none ∧
    t.sc.position = (s.sc.position + 1) % 2048 ∧
    ∀ indices, job = .frames indices → (s.sc.position + 1) % 2048 % 16 ≠ 0 →
      t.cu.ring = s.cu.ring.map (drainFrame indices) ∧
      t.sc.directory = s.sc.directory.map (fun e =>
        if e.state = .filling then
          { e with sectionCount := offsetOf e.first logical + 1, frameCount := e.frameCount + indices.length }
        else e) := by
  dsimp only
  rw [programComplete_programmed hport]
  generalize hv : sectionDone job logical (programmed phys bytes s) = v
  have hpos : v.sc.position = s.sc.position := by rw [← hv]; exact sectionDone_position _ _ _
  have hrec : v.sc.recovery = none := by rw [← hv]; exact sectionDone_recovery _ _ _
  have hfree : v.sc.port = none := by rw [← hv]; exact sectionDone_port _ _ _
  have hstep : StoreStep (programmed phys bytes s) v := hv ▸ sectionDone_step _ _ _
  obtain ⟨kpos, krec, kport⟩ := advancePosition_keeps v
  refine ⟨hstep.trans (advancePosition_step v), kport hfree, krec.trans hrec, hpos ▸ kpos, ?_⟩
  rintro indices rfl hm
  rw [advancePosition_within (by rw [hpos]; exact hm), ← hv]
  exact ⟨rfl, sectionDone_directory (job := .frames indices) nofun _ _⟩

/-- Below slot 15 a TRAILER closes its record (R134). -/
theorem programComplete_closes {logical phys : Nat} {bytes : List Byte} {d : Bool} {r : OpenRecord} {e : DirEntry}
    {s : State} (hport : s.sc.port = some ⟨.writer, .program .trailer logical phys bytes, d⟩)
    (hr : s.cu.opened = some r) (hm : (s.sc.position + 1) % 2048 % 16 ≠ 0) (he : e ∈ s.sc.directory)
    (hf : e.state = .filling) :
    let t := programComplete true s
    t.cu.opened = none ∧ t.cx.notices.getLsbD 14 = true ∧
    { e with
      state := .held, endReason := r.endReason, trailer := some logical
      sectionCount := offsetOf e.first logical + 1 } ∈ t.sc.directory ∧
    ∀ x ∈ t.sc.directory, x.state ≠ .filling := by
  dsimp only
  rw [programComplete_programmed hport]
  have hdir := sectionDone_directory (job := .trailer) (by decide) logical (programmed phys bytes s)
  obtain ⟨hopen, hcx⟩ := sectionDone_trailer logical (programmed phys bytes s)
  rw [show (programmed phys bytes s).cu.opened = some r from hr] at hdir
  rw [advancePosition_within (by rw [sectionDone_position]; exact hm)]
  refine ⟨hopen, ?_, ?_, ?_⟩
  · rw [withSc_cx, hcx]
    simp
  · rw [withSc_sc, hdir]
    exact List.mem_map.mpr ⟨e, he, by rw [if_pos hf]; rfl⟩
  · rw [withSc_sc, hdir]
    intro x hx
    obtain ⟨y, -, rfl⟩ := List.mem_map.mp hx
    split
    · exact nofun
    · assumption

/-- A section at slot 15 where the ahead block is erased: the position enters it (R140, R147, R148, R133). -/
theorem enterBlock_afterSection {v s : State} {dir : List DirEntry} {next : Nat}
    (hx : v.cx.rebuildEnded = true ∨ v.li.closing = true) (hdir : v.sc.directory = dir)
    (hfull : v.sc.storeFull = s.sc.storeFull) (hmarks : v.sc.pendingMarks = s.sc.pendingMarks) :
    let t := enterBlock (withSc (fun sc => { sc with position := next }) v)
    t.sc.seat = .normal ∧ ExaminedAt ((next / 16 + 1) % 128) dir s.sc.storeFull s t ∧
    (s.sc.storeFull = false → ∀ r, v.cu.opened = some r →
      (t.sc.storeFull = false → t.cu.opened = some r) ∧
      (t.sc.storeFull = true → ∀ e, dir.find? (fun x => x.state == .filling) = some e →
        TruncatedAt r e.frameCount t)) := by
  obtain ⟨hexam, hsame, honset⟩ := enterBlock_spec
    (s := withSc (fun sc => { sc with position := next }) v) hx
  obtain ⟨hseat, -⟩ := enterBlock_keeps (withSc (fun sc => { sc with position := next }) v)
  simp only [withSc_sc, withSc_cu] at hexam hsame honset
  rw [hfull, hdir] at hexam
  rw [hfull] at hsame honset
  refine ⟨hseat, hexam.of_marks hmarks, fun hf r hr => ⟨fun ht => ?_, fun ht e he => ?_⟩⟩
  · rw [(hsame (ht.trans hf.symm)).1]
    exact hr
  · have := (honset hf ht).1 r hr
    simpa only [programmedFrames, fillingEntry, hdir, he] using this

/-- A position that waits: nothing is due, and a record closed there has no TRAILER (R151, R204). -/
theorem waiting_closed {v s : State} (hli : v.li = s.li) (hfull : v.sc.storeFull = s.sc.storeFull) :
    let t := if v.sc.storeFull = true ∨ v.li.closing = true then closeWithoutTrailer (waiting v) else waiting v
    t.sc.seat = .unerased ∧ t.sc.eraseAhead = v.sc.eraseAhead ∧ t.sc.storeFull = s.sc.storeFull ∧
    sectionDue t = none ∧ t.cx = v.cx ∧ (v.cu.opened = none → t.cu.opened = none) ∧
    (s.sc.storeFull = false → s.li.closing = false →
      t.sc.directory = v.sc.directory ∧ t.cu.opened = v.cu.opened) ∧
    (s.sc.storeFull = true ∨ s.li.closing = true → ∀ r, v.cu.opened = some r →
      t.cu.opened = none ∧ t.sc.directory = v.sc.directory.map (fun e => if e.state = .filling then
        { e with state := .held, protect := r.protect, endReason := r.endReason, trailer := none } else e)) := by
  dsimp only
  rw [hli, hfull]
  by_cases hc : s.sc.storeFull = true ∨ s.li.closing = true
  · rw [if_pos hc]
    obtain ⟨hopen, hcx, -, -, hsc⟩ := closeWithoutTrailer_keeps (waiting v)
    refine ⟨by rw [hsc]; rfl, by rw [hsc]; rfl, by rw [hsc]; exact hfull, ?_, hcx, fun _ => hopen, fun hf hl => ?_,
      fun _ r hr => ⟨hopen, closeWithoutTrailer_directory (s := waiting v) hr⟩⟩
    · exact if_neg (by rw [hsc]; exact nofun)
    · exact absurd hc (by simp [hf, hl])
  · rw [if_neg hc]
    exact ⟨rfl, rfl, hfull, rfl, rfl, id, fun _ _ => ⟨rfl, rfl⟩, fun h => absurd h hc⟩

/-- Settles O36: the section stored, the record closed at its TRAILER, and the block entered or waited for past
slot 15. -/
theorem programCompleteStoresTheSection : Obligations.ProgramCompleteStoresTheSection := by
  refine ⟨fun job logical phys bytes d s hp hw hphys hport => ?_,
    fun logical phys bytes d r e s hp hport hr hm he hf => ?_, fun job logical phys bytes d s hp hport hj hz => ?_⟩
  · obtain ⟨hstep, hfree, hrec, hpos, hframes⟩ := programComplete_stores hport
    obtain ⟨hmed, hin, hout⟩ := programSection_bytes hw hphys bytes
    have hm : (programComplete true s).medium = programSection s.medium phys bytes := hstep.medium
    refine ⟨_, exec_programComplete true hp, ?_, hfree, hrec, hpos, ?_⟩
    · refine hstep.eq.trans ?_
      rw [hm]
      rfl
    · rw [hm]
      refine ⟨hin, hout, ?_, ?_, ?_, hframes⟩ <;> rw [hmed]
  · exact ⟨_, exec_programComplete true hp, programComplete_closes hport hr hm he hf⟩
  · intro next dir
    generalize hv : sectionDone job logical (programmed phys bytes s) = v
    have hdir : v.sc.directory = dir := by rw [← hv]; exact sectionDone_directory hj logical (programmed phys bytes s)
    have hpos : v.sc.position = s.sc.position := by rw [← hv]; exact sectionDone_position _ _ _
    have hrec : v.sc.recovery = none := by rw [← hv]; exact sectionDone_recovery _ _ _
    have hfull : v.sc.storeFull = s.sc.storeFull := by rw [← hv]; exact sectionDone_storeFull _ _ _
    have hahead : v.sc.eraseAhead = s.sc.eraseAhead := by rw [← hv]; exact sectionDone_eraseAhead _ _ _
    have hmarks : v.sc.pendingMarks = s.sc.pendingMarks := by rw [← hv]; exact sectionDone_pendingMarks _ _ _
    have hstep : StoreStep (programmed phys bytes s) v := hv ▸ sectionDone_step _ _ _
    have hopen : job ≠ .trailer → v.cu.opened = s.cu.opened ∧ v.cx = s.cx := fun hn => hv ▸ sectionDone_opened hn _ _
    have htrailer : job = .trailer → v.cu.opened = none ∧ v.cx.notices.getLsbD 14 = true := by
      rintro rfl
      obtain ⟨ho, hcx⟩ := sectionDone_trailer logical (programmed phys bytes s)
      rw [← hv, hcx]
      exact ⟨ho, by simp⟩
    have hz' : (v.sc.position + 1) % 2048 % 16 = 0 := by rw [hpos]; exact hz
    have hcomplete : programComplete true s = advancePosition v := by rw [programComplete_programmed hport, hv]
    obtain ⟨kpos, krec, -⟩ := advancePosition_keeps v
    refine ⟨advancePosition v, by rw [exec_programComplete true hp, hcomplete], kpos.trans (by rw [hpos]),
      krec.trans hrec, ?_⟩
    clear hv hcomplete
    by_cases hd : s.sc.eraseAhead = .done
    · rw [advancePosition_enters hz' (hahead.trans hd), hpos]
      refine ⟨fun ht => ?_, fun _ hx => ?_, fun hn => absurd hd hn⟩
      · obtain ⟨-, hk⟩ := enterBlock_keeps (withSc (fun sc => { sc with position := next }) v)
        exact ⟨(congrArg CaptureUnit.opened (enterBlock_noRecord (by exact (htrailer ht).1))).trans (htrailer ht).1,
          (hk.notices 14 (by decide)).trans (htrailer ht).2⟩
      · obtain ⟨hseat, hexam, hopened⟩ := enterBlock_afterSection (next := next)
          (by rw [hstep.rebuildEnded, hstep.li]; exact hx) hdir hfull hmarks
        exact ⟨hseat, hexam, fun hf hj r hr => hopened hf r ((hopen hj).1.trans hr)⟩
    · rw [advancePosition_waits hz' (by rw [hahead]; exact hd)]
      obtain ⟨kseat, kahead, kfull, kdue, kcx, knone, kplain, kclosed⟩ := waiting_closed hstep.li hfull
      refine ⟨fun ht => ⟨knone (htrailer ht).1, by rw [kcx]; exact (htrailer ht).2⟩, fun h => absurd h hd, fun _ =>
        ⟨kseat, kahead.trans hahead, kfull, kdue, fun hf hl => ?_, fun hc hj r hr => ?_⟩⟩
      · obtain ⟨hd', ho'⟩ := kplain hf hl
        exact ⟨hd'.trans hdir, fun hj => ho'.trans (hopen hj).1⟩
      · obtain ⟨ho', hd'⟩ := kclosed hc r ((hopen hj).1.trans hr)
        exact ⟨ho', kcx.trans (hopen hj).2, by rw [hd', hdir]⟩

end Sys2Proof.Machine
end


section
/-! PROOFS. The writer's recovery (R150, R151): the block that it takes, and what is done where there is none. -/

namespace Sys2Proof.Machine

/-! ## The target (R150) -/

theorem beginRecovery_spare {job : Option SectionJob} {logical slot failed b : Nat} {s : State}
    (h : LowestSpare s.sc.map b) :
    beginRecovery job logical slot failed s = { s with sc := { s.sc with
      map := setBlockState b .target s.sc.map, recovery := some ⟨job, logical, slot, failed, b, .erase⟩ } } := by
  unfold beginRecovery takeTarget
  rw [LowestSpare.found.1 h]

theorem beginRecovery_relocator {job : Option SectionJob} {logical slot failed : Nat} {q : Relocation} {s : State}
    (h : NoSpare s.sc.map) (hq : s.sc.relocation = some q) :
    beginRecovery job logical slot failed s = { s with sc := { s.sc with
      relocation := none, recovery := some ⟨job, logical, slot, failed, q.target, .erase⟩ } } := by
  unfold beginRecovery takeTarget
  rw [NoSpare.found.1 h, hq]
  rfl

theorem beginRecovery_worn {logical slot failed : Nat} {s : State} (h : NoSpare s.sc.map)
    (hq : s.sc.relocation = none) :
    (∀ job, beginRecovery (some job) logical slot failed s = wearOut job s) ∧
    beginRecovery none logical slot failed s = eraseWornOut s := by
  unfold beginRecovery takeTarget
  rw [NoSpare.found.1 h, hq]
  exact ⟨fun _ => rfl, rfl⟩

/-! ## The store-full state (R148) -/

theorem truncateStoreFull_keeps (s : State) :
    (truncateStoreFull s).sc = { s.sc with directory := (truncateStoreFull s).sc.directory } ∧
    (truncateStoreFull s).cx = s.cx ∧ (truncateStoreFull s).medium = s.medium ∧ (truncateStoreFull s).li = s.li := by
  unfold truncateStoreFull
  dsimp only
  split
  · exact ⟨by rw [truncateOpen_sc], by simp, by simp, by simp⟩
  · obtain ⟨-, hcx, hm, hli, hsc⟩ := closeWithoutTrailer_keeps (truncateOpen .truncatedStoreFull [] s)
    refine ⟨?_, hcx.trans (by simp), hm.trans (by simp), hli.trans (by simp)⟩
    rw [hsc, truncateOpen_sc]

/-- The store-full state holds after its beginning, with its notice at the onset. -/
theorem beginStoreFull_keeps (s : State) :
    (beginStoreFull s).sc = { s.sc with storeFull := true, directory := (beginStoreFull s).sc.directory } ∧
    (beginStoreFull s).medium = s.medium ∧ (beginStoreFull s).li = s.li ∧
    (∀ n, n ≠ 7 → (beginStoreFull s).cx.notices.getLsbD n = s.cx.notices.getLsbD n) ∧
    (s.sc.storeFull = false → (beginStoreFull s).cx.notices.getLsbD 7 = true) := by
  by_cases hf : s.sc.storeFull = true
  · rw [beginStoreFull_again hf]
    exact ⟨by rw [← hf], rfl, rfl, fun _ _ => rfl, fun h => absurd hf (by simp [h])⟩
  · have he : beginStoreFull s = truncateStoreFull
        (raise .storeFull (withSc (fun sc => { sc with storeFull := true }) s)) := if_neg hf
    obtain ⟨hsc, hcx, hm, hli⟩ := truncateStoreFull_keeps
      (raise .storeFull (withSc (fun sc => { sc with storeFull := true }) s))
    rw [he]
    refine ⟨by rw [hsc]; rfl, hm, hli, fun n hn => ?_, fun _ => ?_⟩ <;> rw [hcx]
    · exact storeFullNotice_other hn
    · show (s.cx.notices ||| 0x0080).getLsbD 7 = true
      simp

/-- With no record open the beginning changes SC and the notices alone. -/
theorem beginStoreFull_none {s : State} (h : s.cu.opened = none) :
    (beginStoreFull s).sc.directory = s.sc.directory ∧ (beginStoreFull s).cu = s.cu := by
  unfold beginStoreFull
  split
  · exact ⟨rfl, rfl⟩
  · rw [truncateStoreFull_none (by exact h)]
    exact ⟨rfl, rfl⟩

/-! ## A program failure with no block to recover with (R151) -/

/-- The state with STORE_WEAR raised and the recovery and the rebuild's TRAILER given up. -/
def worn (s : State) : State :=
  raise .storeWear (withSc (fun sc => { sc with recovery := none, rebuildTrailer := none }) s)

/-- A job of the rebuild, which finds no record open, truncates none. -/
theorem truncates_iff {α : Type} {job : SectionJob} {a b : α} (h : job = .rebuildTrailer → a = b) :
    (if ofOpenRecord job then a else b) = a := by
  cases job with
  | rebuildTrailer => rw [h rfl, ite_self]
  | header => rfl
  | frames indices => rfl
  | trailer => rfl

theorem wearOut_jumps {job : SectionJob} {s : State} (hd : s.sc.eraseAhead = .done) :
    wearOut job s = enterBlock (withSc (fun sc => { sc with position := nextBlock (blockOf sc.position) * 16 })
      (if ofOpenRecord job then truncateOpen .truncatedStoreFull [] (worn s) else worn s)) := if_pos hd

/-- The state with the writer stopped, its seat abandoned. -/
def abandoned (s : State) : State := withSc (fun sc => { sc with seat := .abandoned }) (worn s)

theorem wearOut_closes {job : SectionJob} {s : State} (hd : s.sc.eraseAhead ≠ .done) :
    wearOut job s = examine (beginStoreFull
      (if ofOpenRecord job then truncateStoreFull (abandoned s) else abandoned s)) := if_neg hd

theorem truncateStoreFull_abandoned (s : State) :
    truncateStoreFull (abandoned s) = closeWithoutTrailer (truncateOpen .truncatedStoreFull [] (abandoned s)) := by
  refine if_neg ?_
  rw [truncateOpen_sc]
  exact nofun

/-- The directory after the open record has closed without a TRAILER, TRUNCATED_STORE_FULL (R133, R151). -/
def closedTruncated (opened : Option OpenRecord) (dir : List DirEntry) : List DirEntry :=
  match opened with
  | none => dir
  | some r => dir.map (fun e => if e.state = .filling then
      { e with state := .held, protect := r.protect, endReason := some .truncatedStoreFull, trailer := none } else e)

theorem closeTruncated_directory (s : State) :
    (closeWithoutTrailer (truncateOpen .truncatedStoreFull [] s)).sc.directory =
      closedTruncated s.cu.opened s.sc.directory := by
  cases hr : s.cu.opened with
  | none =>
    rw [truncateOpen_none _ _ hr, closeWithoutTrailer_none hr]
    rfl
  | some r => rw [closeWithoutTrailer_directory (truncateOpen_truncated hr).1, truncateOpen_sc]; rfl

theorem examine_relocation {s : State} (h : s.sc.relocation = none) : (examine s).sc.relocation = none := by
  obtain ⟨-, -, hsame⟩ := abandonRelocationOf_keeps (physicalBlock s.sc.map (eraseTarget s.sc)) s.sc
  have ha := hsame (fun q hq => by rw [h] at hq; cases hq)
  unfold examine
  dsimp only
  split
  · show (abandonRelocationOf _ s.sc).relocation = none
    rw [ha, h]
  · rw [(beginStoreFull_keeps _).1]
    show (abandonRelocationOf _ s.sc).relocation = none
    rw [ha, h]

theorem enterBlock_relocation {s : State} (h : s.sc.relocation = none) : (enterBlock s).sc.relocation = none := by
  unfold enterBlock
  dsimp only
  split
  · exact examine_relocation h
  · exact h

/-- What R151 leaves of a part that has no block to recover with. -/
structure WornOut (s t : State) : Prop where
  recovery : t.sc.recovery = none
  rebuildTrailer : t.sc.rebuildTrailer = none
  relocation : t.sc.relocation = none
  map : t.sc.map = s.sc.map
  port : s.sc.port = none → t.sc.port = none
  medium : t.medium = s.medium
  wear : t.cx.notices.getLsbD 8 = true
  others : ∀ n, n ≠ 7 → n ≠ 8 → t.cx.notices.getLsbD n = s.cx.notices.getLsbD n

theorem wearNotice_other {w : Word16} {n : Nat} (h : n ≠ 8) : (w ||| 0x0100).getLsbD n = w.getLsbD n := by
  rw [BitVec.getLsbD_or]
  by_cases h16 : n < 16
  · have hbit : ∀ k : Fin 16, (k : Nat) ≠ 8 → (0x0100 : Word16).getLsbD k = false := by decide
    rw [hbit ⟨n, h16⟩ h, Bool.or_false]
  · simp [BitVec.getLsbD_of_ge _ _ (Nat.le_of_not_lt h16)]

theorem worn_wornOut {s : State} (h : s.sc.relocation = none) : WornOut s (worn s) where
  recovery := rfl
  rebuildTrailer := rfl
  relocation := h
  map := rfl
  port := id
  medium := rfl
  wear := by show (s.cx.notices ||| 0x0100).getLsbD 8 = true; simp
  others := fun n _ hn => wearNotice_other hn

/-- An update that moves none of these fields. -/
theorem WornOut.trans {s u t : State} (h : WornOut s u) (k : ExamineKeeps u t) (hr : t.sc.relocation = none) :
    WornOut s t where
  recovery := k.recovery.trans h.recovery
  rebuildTrailer := k.rebuildTrailer.trans h.rebuildTrailer
  relocation := hr
  map := (k.map h.relocation).trans h.map
  port := fun hp => k.port (h.port hp)
  medium := k.medium.trans h.medium
  wear := (k.notices 8 (by decide)).trans h.wear
  others := fun n h7 h8 => (k.notices n h7).trans (h.others n h7 h8)

/-- Where the ahead block is erased, the position jumps to it and the block beyond is examined (R151). -/
theorem wearOut_jumped (job : SectionJob) {s : State} (hd : s.sc.eraseAhead = .done) (hr : s.sc.relocation = none) :
    let t := wearOut job s
    let next := (s.sc.position / 16 + 1) % 128
    WornOut s t ∧ t.sc.position = next * 16 ∧ t.sc.seat = .normal ∧
    (s.cx.rebuildEnded = true ∨ s.li.closing = true →
      ExaminedAt ((next + 1) % 128) s.sc.directory s.sc.storeFull s t) ∧
    ((job = .rebuildTrailer → s.cu.opened = none) →
      ∀ r, s.cu.opened = some r → TruncatedAt r (programmedFrames s.sc) t) := by
  dsimp only
  rw [wearOut_jumps hd]
  generalize hv : (if ofOpenRecord job then truncateOpen .truncatedStoreFull [] (worn s) else worn s) = v
  have hkeep : v.sc = (worn s).sc ∧ v.cx = (worn s).cx ∧ v.li = s.li ∧ v.medium = s.medium := by
    rw [← hv]
    split
    · exact ⟨truncateOpen_sc _ _ _, truncateOpen_cx _ _ _, truncateOpen_li _ _ _, truncateOpen_medium _ _ _⟩
    · exact ⟨rfl, rfl, rfl, rfl⟩
  obtain ⟨vsc, vcx, vli, vm⟩ := hkeep
  generalize hu : withSc (fun sc => { sc with position := nextBlock (blockOf sc.position) * 16 }) v = u
  have hsc : u.sc = { (worn s).sc with position := (s.sc.position / 16 + 1) % 128 * 16 } := by
    rw [← hu, withSc_sc, vsc]
    rfl
  have hcx : u.cx = (worn s).cx := by rw [← hu]; exact vcx
  have hli : u.li = s.li := by rw [← hu]; exact vli
  have hw := worn_wornOut hr
  have hwu : WornOut s u := ⟨by rw [hsc]; rfl, by rw [hsc]; rfl, by rw [hsc]; exact hr, by rw [hsc]; rfl,
    by rw [hsc]; exact id, by rw [← hu]; exact vm, by rw [hcx]; exact hw.wear, by rw [hcx]; exact hw.others⟩
  have hpos : u.sc.position = (s.sc.position / 16 + 1) % 128 * 16 := by rw [hsc]
  obtain ⟨hseat, hk⟩ := enterBlock_keeps u
  refine ⟨hwu.trans hk (enterBlock_relocation hwu.relocation), hk.position.trans hpos, hseat, fun hx => ?_,
    fun hj r ho => ?_⟩
  · have he := (enterBlock_spec (s := u) (by rw [hcx, hli]; exact hx)).1
    rw [hpos, Nat.mul_div_cancel _ (by decide), hsc] at he
    exact he.of_marks (by rw [hsc]; rfl)
  · have hcount : programmedFrames u.sc = programmedFrames s.sc := by rw [hsc]; rfl
    rw [← hcount]
    refine enterBlock_truncated ?_
    rw [hcount]
    rw [truncates_iff fun h => truncateOpen_none _ _ (by exact hj h)] at hv
    refine TruncatedAt.of_cu (s := truncateOpen .truncatedStoreFull [] (worn s)) (truncateOpen_truncated ho) ?_
    rw [← hu, hv]
    rfl

/-- Where it is not, the record closes at once, the store-full state begins, and the ahead block is examined (R151). -/
theorem wearOut_closed (job : SectionJob) {s : State} (hd : s.sc.eraseAhead ≠ .done) (hr : s.sc.relocation = none) :
    let t := wearOut job s
    WornOut s t ∧ t.sc.position = s.sc.position ∧ t.sc.seat = .abandoned ∧ t.sc.storeFull = true ∧
    (s.sc.storeFull = false → t.cx.notices.getLsbD 7 = true) ∧
    ((job = .rebuildTrailer → s.cu.opened = none) → t.cu.opened = none ∧
      ExaminedAt ((s.sc.position / 16 + 1) % 128) (closedTruncated s.cu.opened s.sc.directory) true s t) := by
  dsimp only
  rw [wearOut_closes hd]
  generalize hv : (if ofOpenRecord job then truncateStoreFull (abandoned s) else abandoned s) = v
  have hkeep : v.sc = { (abandoned s).sc with directory := v.sc.directory } ∧ v.cx = (worn s).cx ∧
      v.medium = s.medium := by
    rw [← hv]
    split
    · obtain ⟨hsc, hcx, hm, -⟩ := truncateStoreFull_keeps (abandoned s)
      exact ⟨hsc, hcx, hm⟩
    · exact ⟨rfl, rfl, rfl⟩
  obtain ⟨vsc, vcx, vm⟩ := hkeep
  obtain ⟨ksc, km, -, knotices, konset⟩ := beginStoreFull_keeps v
  have knone := beginStoreFull_none (s := v)
  generalize beginStoreFull v = w at *
  have hw := worn_wornOut hr
  have hwv : WornOut s w := ⟨by rw [ksc, vsc]; rfl, by rw [ksc, vsc]; rfl, by rw [ksc, vsc]; exact hr,
    by rw [ksc, vsc]; rfl, by rw [ksc, vsc]; exact id, km.trans vm,
    (knotices 8 (by decide)).trans (by rw [vcx]; exact hw.wear),
    fun n h7 h8 => (knotices n h7).trans (by rw [vcx]; exact hw.others n h7 h8)⟩
  have hfull : w.sc.storeFull = true := by rw [ksc]
  have hseat : w.sc.seat = .abandoned := by rw [ksc, vsc]; rfl
  have hpos : w.sc.position = s.sc.position := by rw [ksc, vsc]; rfl
  obtain ⟨hexam, eseat, hk, hsame, -⟩ := examine_spec (s := w) (.inr hfull)
  have efull : (examine w).sc.storeFull = true := hexam.storeFull.elim (·.trans hfull) id
  obtain ⟨ecu, ecx⟩ := hsame (efull.trans hfull.symm)
  refine ⟨hwv.trans hk (examine_relocation hwv.relocation), hk.position.trans hpos, eseat.trans hseat, efull,
    fun hf => ?_, fun hj => ?_⟩
  · rw [ecx]
    exact konset (by rw [vsc]; exact hf)
  · rw [truncates_iff fun h => truncateStoreFull_none (by exact hj h), truncateStoreFull_abandoned] at hv
    have hopen : v.cu.opened = none := by
      rw [← hv]
      exact (closeWithoutTrailer_keeps _).1
    have hdir : v.sc.directory = closedTruncated s.cu.opened s.sc.directory := by
      rw [← hv]
      exact closeTruncated_directory (abandoned s)
    obtain ⟨kdir, kcu⟩ := knone hopen
    have htarget : eraseTarget w.sc = (s.sc.position / 16 + 1) % 128 := by
      unfold eraseTarget
      rw [hseat, hpos]
      rfl
    rw [htarget, kdir, hdir, hfull] at hexam
    exact ⟨by rw [ecu, kcu]; exact hopen, hexam.of_marks (by rw [ksc, vsc]; rfl)⟩

/-! ## PROGRAM COMPLETE with failure -/

/-- The state with the section undetermined, the port free and no recovery. -/
def programFailed (phys : Nat) (s : State) : State :=
  { s with medium := spoilSection s.medium phys, sc := { s.sc with port := none, recovery := none } }

theorem programComplete_failed {job : SectionJob} {logical phys : Nat} {bytes : List Byte} {d : Bool} {s : State}
    (h : s.sc.port = some ⟨.writer, .program job logical phys bytes, d⟩) :
    programComplete false s =
      beginRecovery (some job) (logical / 16) (logical % 16) (phys / 16) (programFailed phys s) := by
  unfold programComplete
  rw [h]
  rfl

/-- Settles O37: a recovery begins with the lowest SPARE or the relocator's TARGET; with neither, R151. -/
theorem programFailureBeginsRecovery : Obligations.ProgramFailureBeginsRecovery := by
  intro job logical phys bytes d s hp hport
  have hspoilt : phys ∈ (spoilSection s.medium phys).unknown := ((spoilSection_spec s.medium phys).2 phys).2 (.inl rfl)
  rw [exec_programComplete false hp, programComplete_failed hport]
  refine ⟨fun b hb => ?_, fun q hn hq => ?_, fun hn hq hj => ?_⟩
  · rw [beginRecovery_spare (s := programFailed phys s) hb]
    exact ⟨_, rfl, rfl, rfl, rfl, rfl, rfl, rfl, rfl, hspoilt, rfl⟩
  · rw [beginRecovery_relocator (s := programFailed phys s) hn hq]
    exact ⟨_, rfl, rfl, rfl, rfl, rfl, rfl, rfl, rfl, rfl, hspoilt, rfl⟩
  · intro block
    rw [(beginRecovery_worn (s := programFailed phys s) hn hq).1]
    have common : ∀ t, WornOut (programFailed phys s) t → t.sc.recovery = none ∧ t.sc.rebuildTrailer = none ∧
        t.sc.port = none ∧ t.sc.map = s.sc.map ∧ t.cx.notices.getLsbD 8 = true ∧
        t.cx.notices.getLsbD 14 = s.cx.notices.getLsbD 14 ∧ phys ∈ t.medium.unknown ∧ t.medium.cells = s.medium.cells :=
      fun t h => ⟨h.recovery, h.rebuildTrailer, h.port rfl, h.map, h.wear, h.others 14 (by decide) (by decide),
        by rw [h.medium]; exact hspoilt, by rw [h.medium]; rfl⟩
    by_cases hd : s.sc.eraseAhead = .done
    · obtain ⟨hw, hpos, hseat, hexam, hopen⟩ := wearOut_jumped job (s := programFailed phys s) hd hq
      obtain ⟨c1, c2, c3, c4, c5, c6, c7, c8⟩ := common _ hw
      exact ⟨_, rfl, c1, c2, c3, c4, c5, c6, c7, c8, fun _ => ⟨hpos, hseat, hexam, hopen hj⟩, fun h => absurd hd h⟩
    · obtain ⟨hw, hpos, hseat, hfull, hnotice, hclosed⟩ := wearOut_closed job (s := programFailed phys s) hd hq
      obtain ⟨c1, c2, c3, c4, c5, c6, c7, c8⟩ := common _ hw
      exact ⟨_, rfl, c1, c2, c3, c4, c5, c6, c7, c8, fun h => absurd h hd,
        fun _ => ⟨hpos, hseat, hfull, hnotice, hclosed hj⟩⟩

end Sys2Proof.Machine
end


section
/-! PROOFS. ERASE COMPLETE (R138, R147, R150, R151, R154, R155), by the agent that asked for it. -/

namespace Sys2Proof.Machine

/-- The state with the block erased, or spoilt, and the port free. -/
def erasedPort (ok : Bool) (block : Nat) (s : State) : State :=
  { s with medium := if ok then eraseBlock s.medium block else spoilBlock s.medium block, sc := { s.sc with port := none } }

theorem eraseComplete_eq {agent : Agent} {block : Nat} {d : Bool} {s : State} (ok : Bool)
    (h : s.sc.port = some ⟨agent, .erase block, d⟩) :
    (d = true → eraseComplete ok s = erasedPort ok block s) ∧
    (d = false → agent = .writer → eraseComplete ok s = writerErased ok block (erasedPort ok block s)) ∧
    (d = false → agent = .relocator → eraseComplete ok s = relocatorErased ok (erasedPort ok block s)) := by
  unfold eraseComplete
  rw [h]
  refine ⟨?_, ?_, ?_⟩
  · rintro rfl
    rfl
  · rintro rfl rfl
    rfl
  · rintro rfl rfl
    rfl

theorem erasedPort_left (ok : Bool) (block : Nat) (s : State) :
    (ok = true → BlockErased block s.medium (erasedPort ok block s).medium) ∧
    (ok = false → BlockSpoilt block s.medium (erasedPort ok block s).medium) := by
  cases ok
  · exact ⟨nofun, fun _ => spoilBlock_spoilt _ _⟩
  · exact ⟨fun _ => eraseBlock_erased _ _, nofun⟩

theorem eraseAheadDone_normal {s : State} (h : s.sc.seat = .normal) :
    eraseAheadDone s =
      withSc (fun sc => { sc with storeFull := false, recovery := none, eraseAhead := .done }) s := by
  unfold eraseAheadDone
  rw [h]
  rfl

/-- The end of an erase-ahead for which the position waited, with the block off the relocation queue (R147, R151). -/
theorem eraseAheadDone_forgotten {block : Nat} {s : State} (hs : s.sc.seat ≠ .normal) (hfree : s.sc.port = none) :
    let position := if s.sc.seat = .abandoned then (s.sc.position / 16 + 1) % 128 * 16 else s.sc.position
    let t := eraseAheadDone (withSc (forgetBlock block) s)
    t.medium = s.medium ∧ t.sc.port = none ∧ t.sc.recovery = none ∧ t.sc.seat = .normal ∧ t.sc.position = position ∧
    block ∉ t.sc.relocQueue ∧ t.sc.map.phys = s.sc.map.phys ∧
    ((s.sc.seat = .unerased → s.sc.aheadErased = false) → s.cx.rebuildEnded = true ∨ s.li.closing = true →
      ExaminedAt ((position / 16 + 1) % 128) s.sc.directory false s t) ∧
    (s.sc.seat = .unerased → s.sc.aheadErased = true → t = { s with sc := t.sc } ∧
      t.sc.eraseAhead = .done ∧ t.sc.aheadErased = false ∧ t.sc.storeFull = false ∧
      t.sc.directory = s.sc.directory ∧ t.sc.pendingMarks = s.sc.pendingMarks) := by
  intro position
  dsimp only
  obtain ⟨hsc, hqueue, hport, -⟩ := forgetBlock_keeps block s.sc
  have hfree' := hport hfree
  generalize hu : withSc (forgetBlock block) s = u
  have husc : u.sc = forgetBlock block s.sc := by rw [← hu]; rfl
  rw [← husc] at hsc hqueue hfree'
  have hseat : u.sc.seat = s.sc.seat := by rw [hsc]
  have hahead : u.sc.aheadErased = s.sc.aheadErased := by rw [hsc]
  have hpos : u.sc.position = s.sc.position := by rw [hsc]
  have hdir : u.sc.directory = s.sc.directory := by rw [hsc]
  have hmarks : u.sc.pendingMarks = s.sc.pendingMarks := by rw [hsc]
  have hmed : u.medium = s.medium := by rw [← hu]; rfl
  have hphys : u.sc.map.phys = s.sc.map.phys := by rw [hsc]
  by_cases hw : s.sc.seat = .unerased → s.sc.aheadErased = false
  · obtain ⟨kseat, hk, hexam⟩ := eraseAheadDone_waiting (s := u) (by rw [hseat]; exact hs)
      (by rw [hseat, hahead]; exact hw)
    rw [hseat, hpos, hdir] at hexam
    rw [hseat, hpos] at hk
    refine ⟨hk.medium.trans hmed, hk.port hfree', hk.recovery, kseat, hk.position, ?_, hk.phys.trans hphys,
      fun _ hx => ?_, fun h1 h2 => absurd (hw h1) (by simp [h2])⟩
    · rw [hk.relocQueue]
      exact hqueue
    · exact (hexam (by rw [← hu]; exact hx)).of_marks hmarks
  · simp only [Classical.not_imp, Bool.not_eq_false] at hw
    obtain ⟨hun, ha⟩ := hw
    rw [eraseAheadDone_erased (hseat.trans hun) (hahead.trans ha)]
    have hposition : position = s.sc.position := if_neg (by rw [hun]; exact nofun)
    refine ⟨hmed, hfree', rfl, rfl, hpos.trans hposition.symm, hqueue, hphys,
      fun h => absurd (h hun) (by simp [ha]), fun _ _ => ⟨?_, rfl, rfl, rfl, hdir, hmarks⟩⟩
    rw [← hu]
    rfl

/-- What a failed erase-ahead with no block to recover with leaves (R151, R148, R133). -/
theorem eraseWornOut_spec (s : State) :
    let t := eraseWornOut s
    t.sc = { s.sc with
      recovery := none, eraseAhead := .due false, storeFull := true, directory := t.sc.directory } ∧
    t.medium = s.medium ∧ t.cx.notices.getLsbD 8 = true ∧
    (s.sc.storeFull = true → t.sc.directory = s.sc.directory ∧ t.cu = s.cu) ∧
    (s.sc.storeFull = false → t.cx.notices.getLsbD 7 = true ∧
      (s.sc.seat = .normal → t.sc.directory = s.sc.directory ∧
        ∀ r, s.cu.opened = some r → TruncatedAt r (programmedFrames s.sc) t)) := by
  dsimp only
  unfold eraseWornOut
  generalize hu : raise .storeWear (withSc (fun sc => { sc with recovery := none, eraseAhead := .due false }) s) = u
  have hsc : u.sc = { s.sc with recovery := none, eraseAhead := .due false } := by rw [← hu]; rfl
  have hwear : u.cx.notices.getLsbD 8 = true := by
    rw [← hu]
    show (s.cx.notices ||| 0x0100).getLsbD 8 = true
    simp
  obtain ⟨ksc, km, -, knotices, konset⟩ := beginStoreFull_keeps u
  refine ⟨?_, km.trans (by rw [← hu]; rfl), (knotices 8 (by decide)).trans hwear, fun hf => ?_, fun hf =>
    ⟨konset (by rw [hsc]; exact hf), fun hseat => ?_⟩⟩
  · rw [ksc, hsc]
  · rw [beginStoreFull_again (by rw [hsc]; exact hf)]
    exact ⟨by rw [hsc], by rw [← hu]; rfl⟩
  · obtain ⟨osc, -, -, hopen, -⟩ := beginStoreFull_onset (s := u) (by rw [hsc]; exact hseat) (by rw [hsc]; exact hf)
    refine ⟨by rw [osc, hsc], fun r hr => ?_⟩
    have := hopen r (by rw [← hu]; exact hr)
    rwa [show programmedFrames u.sc = programmedFrames s.sc by rw [hsc]; rfl] at this

theorem writerErased_ahead {block : Nat} {s : State} (h : s.sc.recovery = none) :
    writerErased true block s = eraseAheadDone (withSc (forgetBlock block) s) ∧
    writerErased false block s = beginRecovery none (eraseTarget s.sc) 0 block s := by
  unfold writerErased
  rw [h]
  exact ⟨rfl, rfl⟩

theorem writerErased_recovery {ok : Bool} {block : Nat} {r : Recovery} {s : State} (h : s.sc.recovery = some r) :
    writerErased ok block s = { s with sc := { s.sc with recovery := some { r with step := if ok then
      (if r.job.isSome = true ∧ 0 < r.slot then .copy 0 else .map) else .retire } } } := by
  unfold writerErased
  rw [h]
  cases ok <;> rfl

theorem relocatorErased_relocation {ok : Bool} {r : Relocation} {s : State} (h : s.sc.relocation = some r) :
    relocatorErased ok s =
      { s with sc := { s.sc with relocation := some { r with step := if ok then .copy 0 else .retire } } } := by
  unfold relocatorErased
  rw [h]
  cases ok <;> rfl

/-- Settles O39: what each agent's erase does, and what it leaves on the medium. -/
theorem eraseCompletionsFollowTheRules : Obligations.EraseCompletionsFollowTheRules := by
  refine ⟨fun block s hp _ hport hr hs => ?_, fun block s hp hport hr hs => ?_, fun block b s hp hport hr hb => ?_,
    fun block s hp hport hr hn => ?_, fun block ok r s hp hport hr => ?_, fun block ok r s hp hport hr => ?_,
    fun agent block ok s hp hport => ?_⟩
  · rw [exec_eraseComplete true hp, (eraseComplete_eq true hport).2.1 rfl rfl]
    obtain ⟨hsc, hqueue, hfree, -⟩ := forgetBlock_keeps block (erasedPort true block s).sc
    have hseat : (withSc (forgetBlock block) (erasedPort true block s)).sc.seat = .normal := by
      rw [withSc_sc, hsc]
      exact hs
    rw [(writerErased_ahead (s := erasedPort true block s) hr).1, eraseAheadDone_normal hseat]
    refine ⟨_, rfl, rfl, hfree rfl, rfl, rfl, hqueue, ?_, ?_, eraseBlock_erased _ _⟩
    · exact (congrArg StoreController.directory hsc).trans rfl
    · exact (congrArg StoreController.position hsc).trans rfl
  · intro position
    obtain ⟨hm, hfree, -, hseat, hpos, hqueue, -, hexam, herased⟩ :=
      eraseAheadDone_forgotten (block := block) (s := erasedPort true block s) hs rfl
    rw [exec_eraseComplete true hp, (eraseComplete_eq true hport).2.1 rfl rfl,
      (writerErased_ahead (s := erasedPort true block s) hr).1]
    refine ⟨_, rfl, by rw [hm]; exact eraseBlock_erased _ _, hfree, hseat, hpos, hqueue,
      fun hw hx => (hexam hw hx).of_marks rfl, fun hu ha => ?_⟩
    obtain ⟨heq, hrest⟩ := herased hu ha
    refine ⟨heq.trans ?_, hrest⟩
    rw [hm]
    rfl
  · rw [exec_eraseComplete false hp, (eraseComplete_eq false hport).2.1 rfl rfl]
    rw [(writerErased_ahead (s := erasedPort false block s) hr).2,
      beginRecovery_spare (s := erasedPort false block s) hb]
    exact ⟨_, rfl, rfl, rfl, rfl, rfl, rfl, spoilBlock_spoilt _ _⟩
  · rw [exec_eraseComplete false hp, (eraseComplete_eq false hport).2.1 rfl rfl,
      (writerErased_ahead (s := erasedPort false block s) hr).2]
    cases hq : s.sc.relocation with
    | none =>
      rw [(beginRecovery_worn (s := erasedPort false block s) hn hq).2]
      obtain ⟨hsc, hm, hwear, hfull, honset⟩ := eraseWornOut_spec (erasedPort false block s)
      refine ⟨_, rfl, by rw [hsc]; rfl, by rw [hsc]; rfl, by rw [hsc]; exact hq, by rw [hm]; exact spoilBlock_spoilt _ _,
        nofun, fun _ => ⟨by rw [hsc], by rw [hsc], by rw [hsc], hwear, by rw [hsc]; rfl, by rw [hsc]; rfl, hfull, honset⟩⟩
    | some q =>
      rw [beginRecovery_relocator (s := erasedPort false block s) hn hq]
      refine ⟨_, rfl, rfl, rfl, rfl, spoilBlock_spoilt _ _, ?_, nofun⟩
      intro q' hq'
      cases hq'
      exact ⟨rfl, rfl, rfl, rfl⟩
  · rw [exec_eraseComplete ok hp, (eraseComplete_eq ok hport).2.1 rfl rfl, 
      writerErased_recovery (s := erasedPort ok block s) hr]
    exact ⟨_, rfl, rfl, erasedPort_left ok block s, rfl⟩
  · rw [exec_eraseComplete ok hp, (eraseComplete_eq ok hport).2.2 rfl rfl, 
      relocatorErased_relocation (s := erasedPort ok block s) hr]
    exact ⟨_, rfl, rfl, erasedPort_left ok block s, rfl⟩
  · rw [exec_eraseComplete ok hp, (eraseComplete_eq ok hport).1 rfl]
    exact ⟨_, rfl, rfl, erasedPort_left ok block s⟩

end Sys2Proof.Machine
end


section
/-! PROOFS. MAP WRITE COMPLETE (R139, R150, R154, R155): the copy that is written, and what the change brings about. -/

namespace Sys2Proof.Machine

/-! ## The copies -/

/-- A generation one above another is the newer of the two. -/
theorem newerGeneration_next (g : Word32) : newerGeneration (g + 1#32) g = true ∧ newerGeneration g (g + 1#32) = false := by
  unfold newerGeneration
  simp only [decide_eq_true_eq, decide_eq_false_iff_not]
  constructor <;> bv_omega

/-- The copy just written is the newest valid one. -/
theorem mapAtPowerOn_written (map : BlockMap) (retry : Option MapSide) (m : Medium) :
    mapAtPowerOn (writeMapCopy map true retry m) = mapForCopy map := by
  have hnewer := (newerGeneration_next m.copy1.generation).1
  have holder := (newerGeneration_next m.copy2.generation).2
  unfold writeMapCopy
  cases mapSide retry m
  · cases hv : m.copy2.valid <;> simp [mapAtPowerOn, newestIsSecond, generationAbove, hv, holder]
  · cases hv : m.copy1.valid <;> simp [mapAtPowerOn, newestIsSecond, generationAbove, hv, hnewer]

/-- A map write changes one copy alone: the one of a failed write, where that is repeated. -/
theorem writeMapCopy_keeps (map : BlockMap) (valid : Bool) (retry : Option MapSide) (m : Medium) :
    (writeMapCopy map valid retry m).cells = m.cells ∧ (writeMapCopy map valid retry m).unknown = m.unknown ∧
    (mapSide retry m = .first → (writeMapCopy map valid retry m).copy2 = m.copy2) ∧
    (mapSide retry m = .second → (writeMapCopy map valid retry m).copy1 = m.copy1) := by
  unfold writeMapCopy
  cases mapSide retry m
  · exact ⟨rfl, rfl, fun _ => rfl, nofun⟩
  · exact ⟨rfl, rfl, nofun, fun _ => rfl⟩

/-! ## The change -/

/-- The state with the copy written and the port free, the map in force as it was. -/
def mapWritten (change : MapChange) (s : State) : State :=
  { s with
    medium := writeMapCopy (changeMap change s.sc.map) true s.sc.mapRetry s.medium
    sc := { s.sc with port := none, mapRetry := none } }

/-- The state with the new map in force too. -/
def mapChanged (change : MapChange) (s : State) : State :=
  withSc (fun sc => { sc with map := changeMap change s.sc.map }) (mapWritten change s)

theorem mapWriteComplete_eq {agent : Agent} {change : MapChange} {d : Bool} {s : State}
    (h : s.sc.port = some ⟨agent, .mapWrite change, d⟩) :
    (d = true → mapWriteComplete true s = mapWritten change s) ∧
    (d = false → agent = .writer → mapWriteComplete true s = writerMapped change (mapChanged change s)) ∧
    (d = false → agent = .relocator → mapWriteComplete true s = relocatorMapped change (mapChanged change s)) := by
  unfold mapWriteComplete
  rw [h]
  refine ⟨?_, ?_, ?_⟩
  · rintro rfl
    rfl
  · rintro rfl rfl
    rfl
  · rintro rfl rfl
    rfl

/-- The state after a map write that fails. -/
def mapFailed (change : MapChange) (s : State) : State :=
  { s with
    medium := writeMapCopy (changeMap change s.sc.map) (Config.freeBit s.freeCount) s.sc.mapRetry s.medium
    freeCount := s.freeCount + 1
    sc := { s.sc with
      mapRetry := some (mapSide s.sc.mapRetry s.medium), port := if change = .initial then s.sc.port else none } }

theorem mapWriteComplete_failed {agent : Agent} {change : MapChange} {d : Bool} {s : State}
    (h : s.sc.port = some ⟨agent, .mapWrite change, d⟩) : mapWriteComplete false s = mapFailed change s := by
  unfold mapWriteComplete mapFailed
  rw [h]
  by_cases hc : change = .initial
  · simp [hc, withSc, h]
  · simp [hc, withSc, freePort]

/-- The block map after the switch (R139, R150, R154). -/
theorem changeMap_replace {logical old target : Nat} {m : BlockMap} :
    (logical < m.phys.length → (changeMap (.replace logical old target) m).phys[logical]? = some target) ∧
    (∀ l, l ≠ logical → (changeMap (.replace logical old target) m).phys[l]? = m.phys[l]?) ∧
    (target < m.states.length → (changeMap (.replace logical old target) m).states[target]? = some .mapped) ∧
    (old < m.states.length → old ≠ target → (changeMap (.replace logical old target) m).states[old]? = some .retired) ∧
    (∀ b, b ≠ old → b ≠ target → (changeMap (.replace logical old target) m).states[b]? = m.states[b]?) := by
  simp only [changeMap, setBlockState]
  refine ⟨fun h => by simp [h], fun l hl => by simp [Ne.symm hl], fun h => by simp [h],
    fun h hn => by simp [h, Ne.symm hn], fun b ho ht => by simp [Ne.symm ho, Ne.symm ht]⟩

/-! ## The switch, a target that is retired, and the initial map -/

theorem writerMapped_switch {logical old target : Nat} {r : Recovery} {s : State} (h : s.sc.recovery = some r) :
    (∀ j, r.job = some j → writerMapped (.replace logical old target) s =
      recoveryTo r .reprogram (withSc (forgetBlock old) s)) ∧
    (r.job = none → writerMapped (.replace logical old target) s = eraseAheadDone (withSc (forgetBlock old) s)) := by
  unfold writerMapped
  rw [h]
  refine ⟨fun j hj => ?_, fun hj => ?_⟩ <;> simp only [hj]

theorem writerMapped_retire {failed : Nat} {r : Recovery} {s : State} (h : s.sc.recovery = some r) :
    writerMapped (.retire failed) s = beginRecovery r.job r.logical r.slot r.failed s := by
  unfold writerMapped
  rw [h]

theorem relocatorMapped_switch {logical old target : Nat} {q : Relocation} {s : State}
    (h : s.sc.relocation = some q) :
    relocatorMapped (.replace logical old target) s = withSc (fun sc => { sc with relocation := none }) s := by
  unfold relocatorMapped
  rw [h]

theorem relocatorMapped_retire {failed : Nat} {q : Relocation} {s : State} (h : s.sc.relocation = some q) :
    relocatorMapped (.retire failed) s = restartRelocation q.block s := by
  unfold relocatorMapped
  rw [h]

/-- The switch of a relocation, or of a recovery whose program failed. -/
theorem mapWriteComplete_switch {agent : Agent} {logical old target : Nat} {s : State}
    (hport : s.sc.port = some ⟨agent, .mapWrite (.replace logical old target), false⟩)
    (h : (agent = .relocator ∧ s.sc.relocation.isSome = true) ∨
      (agent = .writer ∧ (∃ r j, s.sc.recovery = some r ∧ r.job = some j) ∧
        ∀ q, s.sc.relocation = some q → q.block ≠ old)) :
    let u := mapChanged (.replace logical old target) s
    let t := mapWriteComplete true s
    t = { u with sc := t.sc } ∧
    t.sc = { u.sc with
      relocation := t.sc.relocation, recovery := t.sc.recovery, relocQueue := t.sc.relocQueue } ∧
    (agent = .relocator → t.sc.relocation = none) ∧
    (∀ r, agent = .writer → s.sc.recovery = some r → t.sc.recovery = some { r with step := .reprogram } ∧
      old ∉ t.sc.relocQueue) := by
  dsimp only
  obtain ⟨rfl, hq⟩ | ⟨rfl, ⟨r, j, hr, hj⟩, hne⟩ := h
  · obtain ⟨q, hq⟩ := Option.isSome_iff_exists.mp hq
    rw [(mapWriteComplete_eq hport).2.2 rfl rfl, relocatorMapped_switch (by exact hq)]
    exact ⟨rfl, rfl, fun _ => rfl, nofun⟩
  · rw [(mapWriteComplete_eq hport).2.1 rfl rfl, (writerMapped_switch (by exact hr)).1 j hj]
    obtain ⟨-, hqueue, -, hsame⟩ := forgetBlock_keeps old (mapChanged (.replace logical old target) s).sc
    have hforget := hsame hne
    refine ⟨rfl, ?_, nofun, fun r' _ hr' => ?_⟩
    · simp only [recoveryTo, withSc, hforget]
    · obtain rfl : r = r' := Option.some.inj (hr.symm.trans hr')
      exact ⟨rfl, hqueue⟩

end Sys2Proof.Machine
end


section
/-! PROOFS. MAP WRITE COMPLETE: the claim, by the change and the agent. -/

namespace Sys2Proof.Machine

/-- A failed map write of a change other than the initial map. -/
theorem mapFailed_spec {change : MapChange} (hc : change ≠ .initial) (s : State) :
    let t := mapFailed change s
    t.sc = { s.sc with port := none, mapRetry := t.sc.mapRetry } ∧ t = { s with
      medium := t.medium, sc := t.sc, freeCount := t.freeCount } ∧ t.medium.cells = s.medium.cells ∧
    t.medium.unknown = s.medium.unknown ∧
    ((t.sc.mapRetry = some .first ∧ t.medium.copy2 = s.medium.copy2 ∧ s.sc.mapRetry ≠ some .second) ∨
      (t.sc.mapRetry = some .second ∧ t.medium.copy1 = s.medium.copy1 ∧ s.sc.mapRetry ≠ some .first)) := by
  obtain ⟨hcells, hunknown, hfirst, hsecond⟩ := writeMapCopy_keeps (changeMap change s.sc.map)
    (Config.freeBit s.freeCount) s.sc.mapRetry s.medium
  refine ⟨by simp [mapFailed, hc], rfl, hcells, hunknown, ?_⟩
  have hside : ∀ side, s.sc.mapRetry = some side → mapSide s.sc.mapRetry s.medium = side := fun side h => by rw [h]; rfl
  cases hs : mapSide s.sc.mapRetry s.medium
  · exact .inl ⟨congrArg some hs, hfirst hs, fun h => nomatch (hside _ h).symm.trans hs⟩
  · exact .inr ⟨congrArg some hs, hsecond hs, fun h => nomatch (hside _ h).symm.trans hs⟩

/-- The initial map goes to the first copy, with generation 1 (R139). -/
theorem writeMapCopy_initial {retry : Option MapSide} {m : Medium} (valid : Bool)
    (h1 : m.copy1.valid = false ∨ retry = some .first) (h2 : m.copy2.valid = false) (hn : retry ≠ some .second) :
    mapSide retry m = .first ∧
    writeMapCopy initialMap valid retry m = { m with copy1 := ⟨1, initialMap, valid⟩ } := by
  have hside : mapSide retry m = .first := by
    cases retry with
    | none =>
      have hv : m.copy1.valid = false := h1.resolve_right nofun
      simp [mapSide, hv]
    | some side =>
      cases side
      · rfl
      · exact absurd rfl hn
  refine ⟨hside, ?_⟩
  unfold writeMapCopy
  rw [hside]
  have hcopy : mapForCopy initialMap = initialMap := by decide
  simp only [generationAbove, h2, hcopy]
  rfl

/-- A target retired with no spare left to begin again with (R151, R154). -/
theorem writerMapped_worn {failed : Nat} {r : Recovery} {s : State} (hr : s.sc.recovery = some r)
    (hn : NoSpare s.sc.map) (hfree : s.sc.port = none) :
    let t := writerMapped (.retire failed) s
    t.sc.port = none ∧ t.sc.relocation = none ∧ t.sc.map = s.sc.map ∧
    (∀ q, s.sc.relocation = some q → t = { s with sc := t.sc } ∧
      t.sc.recovery = some { r with target := q.target, step := .erase }) ∧
    (s.sc.relocation = none → t.sc.recovery = none ∧ t.cx.notices.getLsbD 8 = true ∧
      (r.job = none → t.sc.eraseAhead = .due false ∧ t.sc.storeFull = true ∧ t.sc.position = s.sc.position) ∧
      (r.job.isSome = true → s.sc.eraseAhead = .done →
        t.sc.position = (s.sc.position / 16 + 1) % 128 * 16 ∧ t.sc.seat = .normal) ∧
      (r.job.isSome = true → s.sc.eraseAhead ≠ .done →
        t.sc.position = s.sc.position ∧ t.sc.seat = .abandoned ∧ t.sc.storeFull = true)) := by
  dsimp only
  rw [writerMapped_retire hr]
  cases hq : s.sc.relocation with
  | some q =>
    rw [beginRecovery_relocator hn hq]
    refine ⟨hfree, rfl, rfl, fun q' hq' => ?_, nofun⟩
    cases hq'
    exact ⟨rfl, rfl⟩
  | none =>
    cases hj : r.job with
    | none =>
      rw [(beginRecovery_worn hn hq).2]
      obtain ⟨hsc, -, hwear, -, -⟩ := eraseWornOut_spec s
      exact ⟨by rw [hsc]; exact hfree, by rw [hsc]; exact hq, by rw [hsc], nofun, fun _ =>
        ⟨by rw [hsc], hwear, fun _ => ⟨by rw [hsc], by rw [hsc], by rw [hsc]⟩, nofun, nofun⟩⟩
    | some j =>
      rw [(beginRecovery_worn hn hq).1 j]
      by_cases hd : s.sc.eraseAhead = .done
      · obtain ⟨hw, hpos, hseat, -, -⟩ := wearOut_jumped j hd hq
        exact ⟨hw.port hfree, hw.relocation, hw.map, nofun, fun _ =>
          ⟨hw.recovery, hw.wear, nofun, fun _ _ => ⟨hpos, hseat⟩, fun _ h => absurd hd h⟩⟩
      · obtain ⟨hw, hpos, hseat, hfull, -, -⟩ := wearOut_closed j hd hq
        exact ⟨hw.port hfree, hw.relocation, hw.map, nofun, fun _ =>
          ⟨hw.recovery, hw.wear, nofun, fun _ h => absurd h hd, fun _ _ => ⟨hpos, hseat, hfull⟩⟩⟩

/-- Settles O41: what each change of the map brings about, by the agent that writes it. -/
theorem mapWritesFollowTheRules : Obligations.MapWritesFollowTheRules := by
  refine ⟨fun agent logical old target s hp hport hag => ⟨?_, ?_⟩, fun failed b s hp hb => ⟨fun r hport hr => ?_,
    fun r hport hr => ?_⟩, fun failed s hp => ?_, fun logical old target r s hp hport hr hj hne => ?_,
    fun change agent ok s hp hc hport => ?_, fun s hp hport h1 h2 hr hn => ⟨?_, ?_⟩⟩
  · obtain ⟨heq, hsc, hreloc, hrec⟩ := mapWriteComplete_switch hport hag
    obtain ⟨hcells, -, hfirst, hsecond⟩ := writeMapCopy_keeps (changeMap (.replace logical old target) s.sc.map)
      true s.sc.mapRetry s.medium
    refine ⟨_, exec_mapWriteComplete true hp, ?_⟩
    generalize mapWriteComplete true s = t at *
    have hmap : t.sc.map = changeMap (.replace logical old target) s.sc.map := by rw [hsc]; rfl
    have hm : t.medium = writeMapCopy (changeMap (.replace logical old target) s.sc.map) true s.sc.mapRetry s.medium := by
      rw [heq]; rfl
    obtain ⟨m1, m2, m3, m4, m5⟩ := changeMap_replace (logical := logical) (old := old) (target := target) (m := s.sc.map)
    rw [hmap, hm]
    refine ⟨by rw [hsc]; rfl, heq, hreloc, hrec, m1, m2, m3, m4, m5, ?_, hcells, by rw [hsc]; rfl, fun h => hfirst ?_,
      fun h => hsecond ?_⟩
    · rw [mapAtPowerOn_written]
      rfl
    all_goals
      rw [h]
      rfl
  · rw [exec_mapWriteComplete false hp, mapWriteComplete_failed hport]
    obtain ⟨hsc, heq, hcells, -, hside⟩ := mapFailed_spec (change := .replace logical old target) nofun s
    exact ⟨_, rfl, by rw [hsc], by rw [hsc], heq, by rw [hsc], by rw [hsc], hcells, hside⟩
  · rw [exec_mapWriteComplete true hp, (mapWriteComplete_eq hport).2.1 rfl rfl, writerMapped_retire (by exact hr),
      beginRecovery_spare (s := mapChanged (.retire failed) s) hb]
    exact ⟨_, rfl, rfl, rfl, rfl⟩
  · rw [exec_mapWriteComplete true hp, (mapWriteComplete_eq hport).2.2 rfl rfl, relocatorMapped_retire (by exact hr),
      restartRelocation_spare (s := mapChanged (.retire failed) s) r.block hb]
    exact ⟨_, rfl, rfl, rfl, rfl⟩
  · intro map hn
    refine ⟨fun r hport hr => ?_, fun r hport hr => ?_⟩
    · rw [exec_mapWriteComplete true hp, (mapWriteComplete_eq hport).2.1 rfl rfl]
      obtain ⟨hfree, hnone, hmap, hsome, hworn⟩ :=
        writerMapped_worn (failed := failed) (s := mapChanged (.retire failed) s) hr hn rfl
      have hm := (writerMapped_tidy (.retire failed) (mapChanged (.retire failed) s)).medium
      refine ⟨_, rfl, hfree, hnone, hmap, fun q hq => ?_, hworn⟩
      obtain ⟨heq, hrec⟩ := hsome q hq
      refine ⟨heq.trans ?_, hrec⟩
      rw [hm]
      rfl
    · rw [exec_mapWriteComplete true hp, (mapWriteComplete_eq hport).2.2 rfl rfl, relocatorMapped_retire (by exact hr),
        restartRelocation_none (s := mapChanged (.retire failed) s) r.block hn]
      exact ⟨_, rfl, rfl, rfl, rfl, rfl, rfl, rfl⟩
  · rw [exec_mapWriteComplete true hp, (mapWriteComplete_eq hport).2.1 rfl rfl,
      (writerMapped_switch (s := mapChanged (.replace logical old target) s) hr).2 hj]
    have hcells : (mapChanged (.replace logical old target) s).medium.cells = s.medium.cells :=
      (writeMapCopy_keeps _ _ _ _).1
    by_cases hs : s.sc.seat = .normal
    · obtain ⟨-, hqueue, -, hsame⟩ := forgetBlock_keeps old (mapChanged (.replace logical old target) s).sc
      have hforget := hsame hne
      have hseat : (withSc (forgetBlock old) (mapChanged (.replace logical old target) s)).sc.seat = .normal := by
        rw [withSc_sc, hforget]
        exact hs
      rw [eraseAheadDone_normal hseat, show withSc (forgetBlock old) (mapChanged (.replace logical old target) s) =
        withSc (fun sc => { sc with relocQueue := sc.relocQueue.filter (fun x => !(x == old)) })
          (mapChanged (.replace logical old target) s) by simp only [withSc, hforget]]
      exact ⟨_, rfl, rfl, rfl, by simp [withSc], hs, hcells, fun _ => ⟨rfl, rfl, rfl, rfl, rfl, rfl⟩,
        fun h => absurd hs h⟩
    · obtain ⟨hm, hfree, hrec, hseat, hpos, hqueue, hphys, hexam, herased⟩ :=
        eraseAheadDone_forgotten (block := old) (s := mapChanged (.replace logical old target) s) hs rfl
      refine ⟨_, rfl, hfree, hrec, hqueue, hseat, by rw [hm]; exact hcells, fun h => absurd h hs, fun _ =>
        ⟨hpos, hphys, fun hw hx => (hexam hw hx).of_marks rfl, fun hu ha => ?_⟩⟩
      obtain ⟨heq, hrest⟩ := herased hu ha
      refine ⟨heq.trans ?_, hrest⟩
      rw [hm]
      rfl
  · cases ok
    · rw [exec_mapWriteComplete false hp, mapWriteComplete_failed hport]
      obtain ⟨hsc, heq, hcells, hunknown, -⟩ := mapFailed_spec hc s
      exact ⟨_, rfl, hcells, hunknown, by simp [mapFailed, hc], nofun⟩
    · rw [exec_mapWriteComplete true hp, (mapWriteComplete_eq hport).1 rfl]
      obtain ⟨hcells, hunknown, -, -⟩ := writeMapCopy_keeps (changeMap change s.sc.map) true s.sc.mapRetry s.medium
      refine ⟨_, rfl, hcells, hunknown, rfl, fun _ => ⟨rfl, ?_⟩⟩
      rw [mapWritten, mapAtPowerOn_written]
      cases change with
      | initial => exact absurd rfl hc
      | replace l o t => rfl
      | retire b => rfl
  · rw [exec_mapWriteComplete true hp, (mapWriteComplete_eq hport).2.1 rfl rfl]
    have hsame : writerMapped .initial (mapChanged .initial s) = mapChanged .initial s := by
      unfold writerMapped
      split <;> simp_all
    rw [hsame]
    exact ⟨_, rfl, rfl, rfl, (writeMapCopy_initial true h1 h2 hn).2⟩
  · rw [exec_mapWriteComplete false hp, mapWriteComplete_failed hport]
    obtain ⟨hside, hcopy⟩ := writeMapCopy_initial (Config.freeBit s.freeCount) h1 h2 hn
    have hm : (mapFailed .initial s).medium = { s.medium with copy1 := ⟨1, initialMap, Config.freeBit s.freeCount⟩ } :=
      hcopy
    refine ⟨_, rfl, ?_, by rw [hm], by rw [hm], by rw [hm]⟩
    simp [mapFailed, hside]

end Sys2Proof.Machine
end


section
/-! PROOFS. COPY COMPLETE (R138, R150, R154, R155): the section copied, and the step that follows. -/

namespace Sys2Proof.Machine

/-! ## What a read returns -/

theorem readsErased_iff (o : MediumOutcome) (bs : List Byte) :
    readsErased o bs = true ↔ o = .clean ∧ ∀ b ∈ bs, b = 0xFF := by
  simp [readsErased, erasedByte]

theorem readSection_determined {m : Medium} {src : Nat} (free : Nat) (o : MediumOutcome) (h : src ∉ m.unknown) :
    (o ≠ .uncorrectable → readSection m free src o = sectionBytes m src) ∧
    (o = .uncorrectable → readSection m free src o = freeBytes free 510 ++ (sectionBytes m src).drop 510) := by
  have hc : ¬m.unknown.contains src = true := by simpa using h
  unfold readSection
  rw [if_neg hc]
  cases o <;> simp

/-- An erased section reads CLEAN with every byte FFh, whatever outcome the command names (R138). -/
theorem isErased_reads {m : Medium} {src : Nat} (free : Nat) (o : MediumOutcome) (h : isErased m src = true) :
    readOutcome m src o = .clean ∧ readSection m free src .clean = List.replicate 512 0xFF := by
  refine ⟨if_pos h, ?_⟩
  unfold isErased at h
  rw [Bool.and_eq_true, List.isEmpty_iff] at h
  obtain ⟨hu, hc⟩ := h
  rw [(readSection_determined free .clean (by simpa using hu)).1 nofun]
  unfold sectionBytes
  rw [hc]
  rfl

/-- A determined section that reads erased is erased (R138). -/
theorem readsErased_erased {m : Medium} (hw : m.wf = true) {src free : Nat} {o : MediumOutcome} (hu : src ∉ m.unknown)
    (h : readsErased o (readSection m free src o) = true) : isErased m src = true := by
  obtain ⟨rfl, hall⟩ := (readsErased_iff _ _).1 h
  rw [(readSection_determined free .clean hu).1 nofun] at hall
  exact (isErased_iff hw src).2 ⟨hu, fun i hi => hall _ (List.mem_of_getElem? (sectionBytes_getElem? hw src i hi))⟩

theorem sectionBytes_getD {m : Medium} (hw : m.wf = true) (p i : Nat) (hi : i < 512) (b : Byte) :
    (sectionBytes m p).getD i b = readByte m.cells (p * 512 + i) := by
  rw [List.getD_eq_getElem?_getD, sectionBytes_getElem? hw p i hi]
  rfl

/-! ## The checkword of a damaged copy -/

/-- The checkword test reads bytes 0 to 509 alone. -/
theorem checkwordPasses_congr {xs ys : List Byte} (h : xs.take 510 = ys.take 510) :
    checkwordPasses xs = checkwordPasses ys := by
  have h508 : xs.take 508 = ys.take 508 := by
    have := congrArg (List.take 508) h
    rwa [List.take_take, List.take_take] at this
  have hfield : fieldAt xs 508 2 = fieldAt ys 508 2 := by
    have := congrArg (List.drop 508) h
    simp only [List.drop_take] at this
    unfold fieldAt
    rw [this]
  unfold checkwordPasses
  rw [h508, hfield]

theorem damaged_head (bs : List Byte) (h : bs.length = 512) : (damaged bs).take 10 = bs.take 10 := by
  unfold damaged
  split
  · rw [List.append_assoc, List.take_append_of_le_length (by rw [List.length_take]; omega), List.take_take]
    rfl
  · rfl

/-- What a copy programs of a section read UNCORRECTABLE: 512 bytes with a checkword that fails, and the fields before
the body where they are determined (R154, assumption log 26). -/
theorem damagedCopy_spec (m : Medium) (src : Nat) {bs : List Byte} (h : bs.length = 512) :
    (damagedCopy m src bs).length = 512 ∧ checkwordPasses (damagedCopy m src bs) = false ∧
    (src ∉ m.unknown → (damagedCopy m src bs).take 10 = (sectionBytes m src).take 10) := by
  have hlen : (if m.unknown.contains src then bs else (sectionBytes m src).take 10 ++ bs.drop 10).length = 512 := by
    split
    · exact h
    · simp [sectionBytes_length, h]
  refine ⟨damaged_length _ hlen, damaged_fails _ hlen, fun hu => ?_⟩
  unfold damagedCopy
  rw [damaged_head _ hlen, if_neg (by simpa using hu)]
  rw [List.take_append_of_le_length (by rw [List.length_take, sectionBytes_length]; decide), List.take_take]
  rfl

/-! ## The copy on the medium -/

theorem copySpare_cells (bs : List Byte) (dst i : Nat) (m : Medium) :
    copySpare bs dst i m = { m with cells := (copySpare bs dst i m).cells } := by
  unfold copySpare writeStoreByte
  split
  · rfl
  · split <;> rfl

theorem programSection_cells (m : Medium) (phys : Nat) (bs : List Byte) :
    programSection m phys bs = { m with cells := (programSection m phys bs).cells } := by
  unfold programSection
  split <;> rfl

/-- A copy changes no undetermined mark and no map copy. -/
theorem copySection_cells (o : MediumOutcome) (bs : List Byte) (src dst : Nat) (m : Medium) :
    copySection o bs src dst m = { m with cells := (copySection o bs src dst m).cells } := by
  unfold copySection
  split
  · rfl
  · have h1 := programSection_cells m dst (if o = .uncorrectable then damagedCopy m src bs else bs)
    generalize programSection m dst _ = p at *
    have h2 := copySpare_cells bs dst 510 p
    generalize copySpare bs dst 510 p = q at *
    rw [copySpare_cells, h2, h1]

/-- Bytes 0 to 509 of the target are those programmed, whatever stood there. -/
theorem copySection_programmed {m : Medium} (hw : m.wf = true) {o : MediumOutcome} {bs : List Byte} {src dst : Nat}
    (hd : dst < 136 * 16) (hr : readsErased o bs = false)
    (hl : 510 ≤ (if o = .uncorrectable then damagedCopy m src bs else bs).length) {i : Nat} (hi : i < 510) :
    readByte (copySection o bs src dst m).cells (dst * 512 + i) =
      (if o = .uncorrectable then damagedCopy m src bs else bs).getD i erasedByte := by
  unfold copySection
  rw [if_neg (by simp [hr])]
  generalize (if o = .uncorrectable then damagedCopy m src bs else bs) = programmed at *
  obtain ⟨-, hwb, hb, -⟩ := copySpare_spec (programSection_wf dst programmed hw) bs dst 510
  obtain ⟨-, -, hc, -⟩ := copySpare_spec hwb bs dst 511
  rw [hc _ (by omega), hb _ (by omega), (programSection_spec hw hd hl).2.2 i hi]

/-- A section read UNCORRECTABLE stands in the target with a checkword that fails (R154, R168). -/
theorem copySection_damaged {m : Medium} (hw : m.wf = true) {bs : List Byte} (hl : bs.length = 512) {src dst : Nat}
    (hd : dst < 136 * 16) :
    let n := copySection .uncorrectable bs src dst m
    checkwordPasses (sectionBytes n dst) = false ∧
    (src ∉ m.unknown → (sectionBytes n dst).take 10 = (sectionBytes m src).take 10) := by
  dsimp only
  obtain ⟨hlen, hfails, hhead⟩ := damagedCopy_spec m src hl
  have hwn := copySection_wf .uncorrectable bs src dst hw
  have hbytes : ∀ i, i < 510 →
      (sectionBytes (copySection .uncorrectable bs src dst m) dst)[i]? = (damagedCopy m src bs)[i]? := by
    intro i hi
    rw [sectionBytes_getElem? hwn dst i (by omega),
      copySection_programmed hw hd rfl (by rw [if_pos rfl, hlen]; decide) hi, if_pos rfl,
      List.getD_eq_getElem?_getD, List.getElem?_eq_getElem (by omega)]
    rfl
  have htake : ∀ n, n ≤ 510 → (sectionBytes (copySection .uncorrectable bs src dst m) dst).take n =
      (damagedCopy m src bs).take n := by
    intro n hn
    refine List.ext_getElem? fun i => ?_
    rw [List.getElem?_take, List.getElem?_take]
    split
    · exact hbytes i (by omega)
    · rfl
  exact ⟨(checkwordPasses_congr (htake 510 (by decide))).trans hfails, fun hu => (htake 10 (by decide)).trans (hhead hu)⟩

/-- A determined section stands in an erased target with the bytes it had: all of them where it is read CLEAN or
CORRECTED, and its first ten and its spare bytes where it is read UNCORRECTABLE (R138, R154). -/
theorem copySection_same {m : Medium} (hw : m.wf = true) {o : MediumOutcome} {free src dst : Nat}
    (hd : dst < 136 * 16) (hu : src ∉ m.unknown)
    (he : ∀ i, i < 512 → readByte m.cells (dst * 512 + i) = 0xFF) {i : Nat} (hi : i < 512)
    (ho : o = .uncorrectable → i < 10 ∨ 510 ≤ i) :
    readByte (copySection o (readSection m free src o) src dst m).cells (dst * 512 + i) =
      readByte m.cells (src * 512 + i) := by
  by_cases hr : readsErased o (readSection m free src o) = true
  · have hsrc := ((isErased_iff hw src).1 (readsErased_erased hw hu hr)).2 i hi
    unfold copySection
    rw [if_pos hr, he i hi, hsrc]
    rfl
  · have hlen := readSection_length m free src o
    obtain ⟨hdlen, -, hhead⟩ := damagedCopy_spec m src hlen
    have hl : 510 ≤ (if o = .uncorrectable then damagedCopy m src (readSection m free src o)
        else readSection m free src o).length := by split <;> omega
    obtain ⟨-, -, hspec⟩ := copySection_spec hw (o := o) (bs := readSection m free src o) (src := src) hd
    obtain ⟨hlow, hhigh⟩ := hspec (by simpa using hr) hl he
    obtain ⟨hplain, hbad⟩ := readSection_determined (m := m) free o hu
    by_cases hun : o = .uncorrectable
    · obtain hi' | hi' := ho hun
      · rw [hlow i (by omega), if_pos hun, List.getD_eq_getElem?_getD,
          ← List.getElem?_take_of_lt hi', hhead hu, List.getElem?_take_of_lt hi', sectionBytes_getElem? hw src i hi]
        rfl
      · rw [hhigh i hi' hi, hbad hun, List.getD_eq_getElem?_getD,
          List.getElem?_append_right (by simpa [freeBytes] using hi'), List.getElem?_drop]
        have hidx : 510 + (i - (freeBytes free 510).length) = i := by simp [freeBytes]; omega
        rw [hidx, sectionBytes_getElem? hw src i hi]
        rfl
    · rw [← sectionBytes_getD hw src i hi erasedByte, ← hplain hun]
      by_cases hi' : i < 510
      · rw [hlow i hi', if_neg hun]
      · rw [hhigh i (by omega) hi]

/-- No byte outside the target's section changes, whatever the target. -/
theorem copySection_outside {m : Medium} (hw : m.wf = true) (o : MediumOutcome) (bs : List Byte) (src dst : Nat)
    {a : Nat} (ha : ¬inRun (dst * 512) 512 a) :
    readByte (copySection o bs src dst m).cells a = readByte m.cells a := by
  by_cases hd : dst < 136 * 16
  · exact (copySection_spec hw hd).2.1 a ha
  · unfold copySection
    split
    · rfl
    · have hp : programSection m dst (if o = .uncorrectable then damagedCopy m src bs else bs) = m := if_neg hd
      obtain ⟨-, hwb, hb, -⟩ := copySpare_spec hw bs dst 510
      obtain ⟨-, -, hc, -⟩ := copySpare_spec hwb bs dst 511
      rw [hp]
      simp only [inRun] at ha
      rw [hc _ (by omega), hb _ (by omega)]

end Sys2Proof.Machine
end


section
/-! PROOFS. COPY COMPLETE: the claim, by the agent and the outcome. -/

namespace Sys2Proof.Machine

/-- Whether a copy succeeds: its programs did, or there were none (R154). -/
def copySucceeds (o : MediumOutcome) (ok : Bool) (src : Nat) (s : State) : Bool :=
  ok || readsErased (readOutcome s.medium src o) (readSection s.medium s.freeCount src (readOutcome s.medium src o))

/-- The state with the section copied, or its target spoilt, and the port free. -/
def copiedPort (o : MediumOutcome) (ok : Bool) (src dst : Nat) (s : State) : State :=
  let o' := readOutcome s.medium src o
  { s with
    medium := if copySucceeds o ok src s then
        copySection o' (readSection s.medium s.freeCount src o') src dst s.medium
      else spoilSection s.medium dst
    freeCount := s.freeCount + sectionSize
    sc := { s.sc with port := none } }

/-- The step of an agent after its copy. -/
def afterCopy (agent : Agent) (ok : Bool) (s : State) : State :=
  match agent with
  | .writer => writerCopied ok s
  | .relocator => relocatorCopied ok s
  | .reader => s

theorem copyComplete_eq {agent : Agent} {src dst : Nat} {d : Bool} {s : State} (o : MediumOutcome) (ok : Bool)
    (h : s.sc.port = some ⟨agent, .copy src dst, d⟩) :
    copyComplete o ok s = if d then copiedPort o ok src dst s
      else afterCopy agent (copySucceeds o ok src s) (copiedPort o ok src dst s) := by
  unfold copyComplete
  rw [h]
  rfl

theorem writerCopied_recovery {r : Recovery} {s : State} (h : s.sc.recovery = some r) :
    (∀ slot, r.step = .copy slot → writerCopied true s = recoveryTo r (copyOrMap r (slot + 1)) s) ∧
    writerCopied false s = recoveryTo r .retire s := by
  unfold writerCopied
  rw [h]
  refine ⟨fun slot hs => ?_, rfl⟩
  simp only [hs, if_true]

theorem relocatorCopied_relocation {r : Relocation} {s : State} (h : s.sc.relocation = some r) :
    (∀ slot, r.step = .copy slot →
      relocatorCopied true s = relocationTo r (if slot < 15 then .copy (slot + 1) else .switch) s) ∧
    relocatorCopied false s = relocationTo r .retire s := by
  unfold relocatorCopied
  rw [h]
  refine ⟨fun slot hs => ?_, rfl⟩
  simp only [hs, if_true]

/-- The step after a copy touches the recovery and the relocation alone. -/
theorem writerCopied_sc (ok : Bool) (s : State) :
    writerCopied ok s = { s with sc := { s.sc with recovery := (writerCopied ok s).sc.recovery } } := by
  unfold writerCopied
  split
  · split
    · split <;> rfl
    · rfl
  · rfl

theorem relocatorCopied_sc (ok : Bool) (s : State) :
    relocatorCopied ok s = { s with sc := { s.sc with relocation := (relocatorCopied ok s).sc.relocation } } := by
  unfold relocatorCopied
  split
  · split
    · split <;> rfl
    · rfl
  · rfl

/-- What every copy leaves, whoever asked for it. -/
theorem copyComplete_leaves {agent : Agent} {src dst : Nat} {d : Bool} {s : State} (o : MediumOutcome) (ok : Bool)
    (h : s.sc.port = some ⟨agent, .copy src dst, d⟩) :
    let t := copyComplete o ok s
    t.sc.port = none ∧ t.sc.map = s.sc.map ∧ t.sc.directory = s.sc.directory ∧
    t.medium = (copiedPort o ok src dst s).medium ∧
    t = { s with medium := t.medium, sc := t.sc, freeCount := t.freeCount } := by
  dsimp only
  rw [copyComplete_eq o ok h]
  split
  · exact ⟨rfl, rfl, rfl, rfl, rfl⟩
  · cases agent
    · rw [afterCopy, writerCopied_sc]
      exact ⟨rfl, rfl, rfl, rfl, rfl⟩
    · rw [afterCopy, relocatorCopied_sc]
      exact ⟨rfl, rfl, rfl, rfl, rfl⟩
    · exact ⟨rfl, rfl, rfl, rfl, rfl⟩

/-- A section that is not erased is read with the outcome that the command names. -/
theorem copiedPort_medium {o : MediumOutcome} {src dst : Nat} {s : State} (h : isErased s.medium src = false) :
    (copiedPort o true src dst s).medium =
      copySection o (readSection s.medium s.freeCount src o) src dst s.medium := by
  have ho : readOutcome s.medium src o = o := if_neg (by simp [h])
  simp [copiedPort, copySucceeds, ho]

/-- Of a section that reads erased nothing is programmed, whatever the command reports (R154). -/
theorem copyComplete_erased {agent : Agent} {src dst : Nat} {d : Bool} {s : State} {o : MediumOutcome}
    (h : s.sc.port = some ⟨agent, .copy src dst, d⟩)
    (he : readsErased (readOutcome s.medium src o)
      (readSection s.medium s.freeCount src (readOutcome s.medium src o)) = true) (ok : Bool) :
    copyComplete o ok s = copyComplete o true s ∧ (copyComplete o ok s).medium = s.medium := by
  have hs : ∀ ok, copySucceeds o ok src s = true := fun ok => by unfold copySucceeds; rw [he, Bool.or_true]
  have hc : ∀ ok, copiedPort o ok src dst s = copiedPort o true src dst s := fun ok => by
    unfold copiedPort
    rw [hs ok, hs true]
  have hm : (copiedPort o ok src dst s).medium = s.medium := by
    unfold copiedPort copySection
    simp only [hs ok, he, if_true]
  obtain ⟨-, -, -, hmed, -⟩ := copyComplete_leaves o ok h
  refine ⟨?_, hmed.trans hm⟩
  rw [copyComplete_eq o ok h, copyComplete_eq o true h, hs ok, hs true, hc ok]

/-- A copy that fails leaves its target undetermined, and no byte listed otherwise (R138). -/
theorem copiedPort_failed {o : MediumOutcome} {src dst : Nat} {s : State} (h : copySucceeds o false src s = false) :
    dst ∈ (copiedPort o false src dst s).medium.unknown ∧
    (copiedPort o false src dst s).medium.cells = s.medium.cells := by
  simp only [copiedPort, h, Bool.false_eq_true, if_false]
  exact ⟨((spoilSection_spec s.medium dst).2 dst).2 (.inl rfl), rfl⟩

/-- An erased section is copied the same whatever outcome the command names (R138). -/
theorem copyComplete_isErased {agent : Agent} {src dst : Nat} {d : Bool} {s : State} (o : MediumOutcome) (ok : Bool)
    (h : s.sc.port = some ⟨agent, .copy src dst, d⟩) (he : isErased s.medium src = true) :
    copyComplete o ok s = copyComplete .clean true s ∧ (copyComplete o ok s).medium = s.medium := by
  have hout : ∀ o, readOutcome s.medium src o = .clean := fun o => (isErased_reads s.freeCount o he).1
  have hreads : readsErased .clean (readSection s.medium s.freeCount src .clean) = true := by
    rw [(isErased_reads s.freeCount o he).2]
    exact (readsErased_iff _ _).2 ⟨rfl, fun b hb => List.eq_of_mem_replicate hb⟩
  obtain ⟨hsame, hm⟩ := copyComplete_erased (o := o) h (by rw [hout]; exact hreads) ok
  refine ⟨hsame.trans ?_, hm⟩
  rw [copyComplete_eq o true h, copyComplete_eq .clean true h]
  have hport : copiedPort o true src dst s = copiedPort .clean true src dst s := by
    unfold copiedPort
    simp only [hout, copySucceeds, Bool.true_or]
  rw [hport]
  rfl

/-- Settles O40: the section in its target, and the step that follows, by agent and outcome. -/
theorem copyCompletionsFollowTheRules : Obligations.CopyCompletionsFollowTheRules := by
  refine ⟨fun src dst slot r s hp hw hport hr hstep hsrc hd hne hu hff => ?_,
    fun src dst agent d s hp hw hport hd he => ?_, fun src dst agent d o s hp hw hport hsrc hd hne he hff => ?_,
    fun src dst ok o s hp he ⟨agent, d, hport⟩ => ?_, fun src dst slot o r s hp hport hr hstep => ?_,
    fun src dst o s hp => ⟨fun hw hu => ⟨fun he => ?_, fun hff => ?_⟩, fun he agent d hport => ?_,
      fun hne r hport hr => ?_, fun hne r hport hr => ?_⟩,
    fun agent src dst o ok s hp hport => ?_⟩
  · obtain ⟨hfree, hmap, hdir, hm, heq⟩ := copyComplete_leaves .clean true hport
    have hclean : readOutcome s.medium src .clean = .clean := ite_self _
    have hmed : (copiedPort .clean true src dst s).medium =
        copySection .clean (readSection s.medium s.freeCount src .clean) src dst s.medium := by
      simp [copiedPort, copySucceeds, hclean]
    refine ⟨_, exec_copyComplete _ _ hp, hfree, heq, ?_, ?_, ?_, hmap, hdir⟩
    · rw [copyComplete_eq .clean true hport]
      show (relocatorCopied true (copiedPort .clean true src dst s)).sc.relocation = _
      rw [(relocatorCopied_relocation (by exact hr)).1 slot hstep]
      rfl
    all_goals rw [hm, hmed]
    · exact fun i hi => copySection_same hw hd hu hff hi nofun
    · exact fun a ha => copySection_outside hw _ _ _ _ ha
  · obtain ⟨hfree, -, -, hm, -⟩ := copyComplete_leaves .uncorrectable true hport
    refine ⟨_, exec_copyComplete _ _ hp, hfree, ?_⟩
    rw [hm, copiedPort_medium he]
    exact copySection_damaged hw (readSection_length _ _ _ _) hd
  · obtain ⟨hfree, -, -, hm, heq⟩ := copyComplete_leaves o true hport
    refine ⟨_, exec_copyComplete _ _ hp, hfree, heq, ?_⟩
    rw [hm, copiedPort_medium he]
    refine ⟨copySection_cells _ _ _ _ _, fun a ha => copySection_outside hw _ _ _ _ ha,
      fun hu i hi ho => copySection_same hw hd hu hff hi ho, fun ho => ?_⟩
    subst ho
    exact (copySection_damaged hw (readSection_length _ _ _ _) hd).1
  · obtain ⟨hsame, hm⟩ := copyComplete_isErased o ok hport he
    exact ⟨_, exec_copyComplete _ _ hp, by rw [exec_copyComplete _ _ hp, hsame], hm⟩
  · obtain ⟨hfree, hmap, hdir, hm, heq⟩ := copyComplete_leaves o true hport
    refine ⟨_, exec_copyComplete _ _ hp, hfree, heq, ?_, hmap, hdir⟩
    rw [copyComplete_eq o true hport]
    show (writerCopied true (copiedPort o true src dst s)).sc.recovery = _
    rw [(writerCopied_recovery (by exact hr)).1 slot hstep]
    rfl
  · exact ((isErased_iff hw src).1 (readsErased_erased hw hu ((readsErased_iff _ _).2 he))).2
  · have he := (isErased_iff hw src).2 ⟨hu, hff⟩
    obtain ⟨hout, hbytes⟩ := isErased_reads s.freeCount o he
    refine ⟨hout, ?_⟩
    rw [hout, hbytes]
    exact fun b hb => List.eq_of_mem_replicate hb
  · obtain ⟨hsame, hm⟩ := copyComplete_erased hport ((readsErased_iff _ _).2 he) false
    exact ⟨_, exec_copyComplete _ _ hp, by rw [exec_copyComplete _ _ hp, hsame], hm⟩
  · have hfail : copySucceeds o false src s = false := by
      rw [Bool.eq_false_iff]
      exact fun h => hne ((readsErased_iff _ _).1 h)
    obtain ⟨hfree, -, -, hm, heq⟩ := copyComplete_leaves o false hport
    refine ⟨_, exec_copyComplete _ _ hp, heq, ?_, hfree, by rw [hm]; exact copiedPort_failed hfail⟩
    rw [copyComplete_eq o false hport, hfail]
    show (writerCopied false (copiedPort o false src dst s)).sc.recovery = _
    rw [(writerCopied_recovery (by exact hr)).2]
    rfl
  · have hfail : copySucceeds o false src s = false := by
      rw [Bool.eq_false_iff]
      exact fun h => hne ((readsErased_iff _ _).1 h)
    obtain ⟨hfree, -, -, hm, heq⟩ := copyComplete_leaves o false hport
    refine ⟨_, exec_copyComplete _ _ hp, heq, ?_, hfree, by rw [hm]; exact copiedPort_failed hfail⟩
    rw [copyComplete_eq o false hport, hfail]
    show (relocatorCopied false (copiedPort o false src dst s)).sc.relocation = _
    rw [(relocatorCopied_relocation (by exact hr)).2]
    rfl
  · rw [exec_copyComplete _ _ hp, copyComplete_eq o ok hport]
    refine ⟨_, rfl, rfl, ?_⟩
    show (copiedPort o ok src dst s).medium.copy1 = _ ∧ (copiedPort o ok src dst s).medium.copy2 = _ ∧
      (∀ p, p ≠ dst → (p ∈ (copiedPort o ok src dst s).medium.unknown ↔ _)) ∧
      (s.medium.wf = true → ∀ a, ¬inRun (dst * 512) 512 a →
        readByte (copiedPort o ok src dst s).medium.cells a = _)
    unfold copiedPort
    cases copySucceeds o ok src s
    · obtain ⟨heq, hunknown⟩ := spoilSection_spec s.medium dst
      refine ⟨rfl, rfl, fun p hn => (hunknown p).trans (or_iff_right hn), fun _ _ _ => rfl⟩
    · simp only [if_true]
      refine ⟨by rw [copySection_cells], by rw [copySection_cells], fun p _ => by rw [copySection_cells],
        fun hw a ha => copySection_outside hw _ _ _ _ ha⟩

end Sys2Proof.Machine
end


section
/-! PROOFS. A section's bytes as 8.2 lays them out: the common fields, each kind's body, and the checkword. -/

namespace Sys2Proof.Machine

/-! ## Any section (8.2.1) -/

/-- A section's common fields, where its body lies, and the 00h beyond it. -/
theorem sectionOf_layout (kind : Nat) (protect : Bool) (number index addr frames : Nat) {body : List Byte}
    (hb : body.length ≤ 498) :
    let bs := sectionOf kind protect number index addr frames body
    bs.length = 510 ∧ fieldAt bs 508 2 = (crc16 (bs.take 508)).toNat ∧
    fieldsAt bs [(0, 1), (1, 1), (2, 2), (4, 2), (6, 2), (8, 2)] =
      [kind % 256, protect.toNat, number % 65536, index % 65536, addr % 65536, frames % 65536] ∧
    (∀ i, 10 ≤ i → i < 508 → bs[i]? = some (body.getD (i - 10) 0)) ∧
    ∀ i n, i + n ≤ body.length → (bs.drop (10 + i)).take n = (body.drop i).take n := by
  intro bs
  have hbs : bs = _ := sectionOf_parts kind protect number index addr frames hb
  generalize hpre : le8 kind ++ flagByte protect ++ le16 number ++ le16 index ++ le16 addr ++ le16 frames = pre at hbs
  have hlen : pre.length = 10 := by rw [← hpre]; rfl
  generalize crc16 (bs.take 508) = crc at *
  rw [hbs]
  refine ⟨?_, ?_, ?_, fun i h10 h508 => ?_, fun i n hin => ?_⟩
  · simp only [List.length_append, List.length_replicate, hlen]
    rw [show (le16 crc.toNat).length = 2 from rfl]
    omega
  · rw [fieldAt_append_right (by omega), fieldAt_append_right (by omega), fieldAt_append_right (by simp; omega)]
    simp only [hlen, List.length_replicate]
    rw [show 508 - 10 - body.length - (498 - body.length) = 0 by omega, fieldAt_le16]
    exact Nat.mod_eq_of_lt crc.isLt
  · rw [← hpre]
    simp [fieldAt_append_left, fieldAt_append_right]
  · rw [List.getElem?_append_right (by omega), hlen, List.getD_eq_getElem?_getD]
    by_cases hi : i - 10 < body.length
    · rw [List.getElem?_append_left hi, List.getElem?_eq_getElem hi]
      rfl
    · rw [List.getElem?_append_right (by omega), List.getElem?_append_left (by simp; omega),
        List.getElem?_replicate, if_pos (by omega), List.getElem?_eq_none (by omega)]
      rfl
  · rw [List.drop_append, List.drop_eq_nil_of_le (by omega), List.nil_append, hlen, Nat.add_sub_cancel_left,
      List.drop_append_of_le_length (by omega), List.take_append_of_le_length (by rw [List.length_drop]; omega)]

/-- A field of the body read in the section. -/
theorem fieldAt_of_body {bs body : List Byte}
    (h : ∀ i n, i + n ≤ body.length → (bs.drop (10 + i)).take n = (body.drop i).take n) {i n : Nat}
    (hi : i + n ≤ body.length) : fieldAt bs (10 + i) n = fieldAt body i n := by
  unfold fieldAt
  rw [h i n hi]

/-! ## The HEADER (8.2.2) -/

theorem headerBody_fields (seq : Word32) {r : OpenRecord} {item : TriggerItem} {rest : List TriggerItem}
    (h : r.triggers = item :: rest) :
    (headerBody seq r).length = 19 ∧
    fieldsAt (headerBody seq r) [(0, 4), (4, 1), (5, 4), (9, 1), (10, 2), (12, 4), (16, 1), (17, 2)] =
      [seq.toNat, r.openTime.isSome.toNat, r.openTime.getD 0 % 4294967296, item.entry % 256, item.index % 65536,
       item.conditions.toNat, r.preTaken % 256, r.missed % 65536] := by
  unfold headerBody
  rw [h]
  constructor
  · rfl
  · simp [fieldAt_append_left, fieldAt_append_right]

/-! ## The TRAILER (8.2.4) -/

/-- A field of the item at place `k` of a TRAILER's body. -/
theorem trailerBody_item {t : TrailerInfo} (h : t.triggers.length ≤ 8) {k : Nat} {item : TriggerItem}
    (hk : t.triggers[k]? = some item) {i n : Nat} (hi : i + n ≤ 7) :
    fieldAt (trailerBody t) (10 + (7 * k + i)) n = fieldAt (itemBytes item) i n := by
  obtain ⟨hlt, -⟩ := List.getElem?_eq_some_iff.mp hk
  have hflat := length_flatMap_const length_itemBytes t.triggers
  unfold trailerBody padTo
  rw [fieldAt_append_right (by simp), fieldAt_append_left (by
    simp only [List.length_append, length_le16, length_le8, hflat]
    omega)]
  simp only [List.length_append, length_le16, length_le8]
  rw [show 10 + (7 * k + i) - (2 + 2 + 2 + 2 + 1 + 1) = 7 * k + i by omega]
  exact fieldAt_flatMap length_itemBytes hk hi

theorem trailerBody_fields {t : TrailerInfo} (h : t.triggers.length ≤ 8) :
    (trailerBody t).length = 66 ∧
    fieldsAt (trailerBody t) [(0, 2), (2, 2), (4, 2), (6, 2), (8, 1), (9, 1)] =
      [t.frameCount % 65536, t.lostCount % 65536, t.missed % 65536, t.extraTriggers % 65536, endCode t.reason,
       t.triggers.length] ∧
    (∀ (k : Nat) item, t.triggers[k]? = some item →
      fieldsAt (trailerBody t) [(10 + 7 * k, 1), (11 + 7 * k, 2), (13 + 7 * k, 4)] =
        [item.entry % 256, item.index % 65536, item.conditions.toNat]) ∧
    ∀ i, 10 + 7 * t.triggers.length ≤ i → (trailerBody t).getD i 0 = 0 := by
  have hflat := length_flatMap_const length_itemBytes t.triggers
  refine ⟨?_, ?_, fun k item hk => ?_, fun i hi => ?_⟩
  · unfold trailerBody
    simp only [List.length_append, length_padTo]
    rw [hflat]
    simp
    omega
  · unfold trailerBody
    simp [fieldAt_append_left, fieldAt_append_right]
    omega
  · have h0 := trailerBody_item h hk (i := 0) (n := 1) (by decide)
    have h1 := trailerBody_item h hk (i := 1) (n := 2) (by decide)
    have h3 := trailerBody_item h hk (i := 3) (n := 4) (by decide)
    rw [show 10 + (7 * k + 0) = 10 + 7 * k by omega] at h0
    rw [show 10 + (7 * k + 1) = 11 + 7 * k by omega] at h1
    rw [show 10 + (7 * k + 3) = 13 + 7 * k by omega] at h3
    simp only [fieldsAt_cons, fieldsAt_nil, h0, h1, h3]
    unfold itemBytes
    simp [fieldAt_append_left, fieldAt_append_right]
  · unfold trailerBody padTo
    rw [List.getD_eq_getElem?_getD, List.getElem?_append_right (by simp; omega),
      List.getElem?_append_right (by simp at hflat ⊢; omega), List.getElem?_replicate]
    split <;> rfl

/-! ## The section of a job (8.2) -/

/-- `section_` of the claim: a section's common fields, and 00h from `last` on. -/
def SectionLaid (bs : List Byte) (kind first a frames : Nat) (protect : Bool) (number last : Nat) : Prop :=
  bs.length = 510 ∧ fieldAt bs 508 2 = (crc16 (bs.take 508)).toNat ∧
  fieldsAt bs [(0, 1), (1, 1), (2, 2), (4, 2), (6, 2), (8, 2)] =
    [kind, protect.toNat, number % 65536, (a + 2048 - first % 2048) % 2048, a % 65536, frames] ∧
  ∀ i, last ≤ i → i < 508 → bs[i]? = some 0

theorem sectionOf_laid {kind first a frames number last : Nat} {protect : Bool} {body : List Byte}
    (hb : body.length ≤ 498) (hk : kind < 256) (hf : frames < 65536) (h10 : 10 ≤ last)
    (hz : ∀ i, last ≤ i → body.getD (i - 10) 0 = 0) :
    SectionLaid (sectionOf kind protect number (offsetOf first a) a frames body)
      kind first a frames protect number last := by
  obtain ⟨hlen, hcrc, hfields, hbytes, -⟩ := sectionOf_layout kind protect number (offsetOf first a) a frames hb
  refine ⟨hlen, hcrc, hfields.trans ?_, fun i hi h508 => ?_⟩
  · have hoff : offsetOf first a % 65536 = (a + 2048 - first % 2048) % 2048 := by
      unfold offsetOf
      omega
    rw [Nat.mod_eq_of_lt hk, Nat.mod_eq_of_lt hf, hoff]
  · rw [hbytes i (by omega) h508, hz i hi]

theorem trailerSection_laid {x : TrailerInfo} (h : x.triggers.length ≤ 8) (a : Nat) :
    let bs := trailerSection x a
    SectionLaid bs 3 x.first a 0 x.protect x.number (20 + 7 * x.triggers.length) ∧
    fieldsAt bs [(10, 2), (12, 2), (14, 2), (16, 2), (18, 1), (19, 1)] =
      [x.frameCount % 65536, x.lostCount % 65536, x.missed % 65536, x.extraTriggers % 65536,
       endCode x.reason, x.triggers.length] ∧
    ∀ (k : Nat) item, x.triggers[k]? = some item → fieldsAt bs [(20 + 7 * k, 1), (21 + 7 * k, 2), (23 + 7 * k, 4)] =
      [item.entry % 256, item.index % 65536, item.conditions.toNat] := by
  dsimp only
  obtain ⟨hlen, hhead, hitems, hzero⟩ := trailerBody_fields h
  obtain ⟨-, -, -, -, hbody⟩ := sectionOf_layout kindTrailer x.protect x.number (offsetOf x.first a) a 0
    (body := trailerBody x) (by omega)
  have field : ∀ i n, i + n ≤ 66 → fieldAt (trailerSection x a) (10 + i) n = fieldAt (trailerBody x) i n :=
    fun i n hi => fieldAt_of_body hbody (by omega)
  refine ⟨sectionOf_laid (by omega) (by decide) (by decide) (by omega) fun i hi => hzero _ (by omega), ?_,
    fun k item hk => ?_⟩
  · refine Eq.trans ?_ hhead
    simp only [fieldsAt_cons, fieldsAt_nil, ← field 0 2 (by decide), ← field 2 2 (by decide), ← field 4 2 (by decide),
      ← field 6 2 (by decide), ← field 8 1 (by decide), ← field 9 1 (by decide)]
  · obtain ⟨hlt, -⟩ := List.getElem?_eq_some_iff.mp hk
    refine Eq.trans ?_ (hitems k item hk)
    simp only [fieldsAt_cons, fieldsAt_nil, ← field (10 + 7 * k) 1 (by omega), ← field (11 + 7 * k) 2 (by omega),
      ← field (13 + 7 * k) 4 (by omega)]
    simp only [← Nat.add_assoc, Nat.reduceAdd]

/-- The item at place `k` of a run of items of `w` bytes. -/
theorem take_drop_flatMap {α : Type} {f : α → List Byte} {w : Nat} (hf : ∀ e, (f e).length = w) {k : Nat} {l : List α}
    {e : α} (h : l[k]? = some e) : ((l.flatMap f).drop (w * k)).take w = f e := by
  induction l generalizing k with
  | nil => cases h
  | cons a l ih =>
    cases k with
    | zero =>
      obtain rfl : a = e := by simpa using h
      rw [List.flatMap_cons, Nat.mul_zero, List.drop_zero, List.take_append_of_le_length (Nat.le_of_eq (hf a).symm),
        List.take_of_length_le (Nat.le_of_eq (hf a))]
    | succ k =>
      have h' : l[k]? = some e := by simpa using h
      rw [List.flatMap_cons, List.drop_append, List.drop_eq_nil_of_le (by rw [hf, Nat.mul_succ]; omega),
        List.nil_append, hf, Nat.mul_succ, Nat.add_sub_cancel, ih h']

/-- The frames of a section, each whole at its place (8.2.3, 8.2.5). -/
theorem frameSection_laid {fs : List (Nat × Frame)} (h : fs.length ≤ 8) (protect : Bool) (number first a : Nat) :
    let bs := sectionOf kindFrame protect number (offsetOf first a) a fs.length (fs.flatMap (fun f => framePlace f.2 f.1))
    SectionLaid bs 2 first a fs.length protect number (10 + 56 * fs.length) ∧
    ∀ (k i : Nat) f, fs[k]? = some (i, f) → (bs.drop (10 + 56 * k)).take 56 = framePlace f i := by
  dsimp only
  have hplace : ∀ f : Nat × Frame, (framePlace f.2 f.1).length = 56 := fun f => length_framePlace f.2 f.1
  have hlen := length_flatMap_const hplace fs
  obtain ⟨-, -, -, -, hbody⟩ := sectionOf_layout kindFrame protect number (offsetOf first a) a fs.length
    (body := fs.flatMap (fun f => framePlace f.2 f.1)) (by omega)
  refine ⟨sectionOf_laid (by omega) (by decide) (by omega) (by omega) fun i hi => ?_, fun k i f hk => ?_⟩
  · rw [List.getD_eq_getElem?_getD, List.getElem?_eq_none (by omega)]
    rfl
  · obtain ⟨hlt, -⟩ := List.getElem?_eq_some_iff.mp hk
    have htake := take_drop_flatMap hplace hk
    rw [hbody (56 * k) 56 (by omega), htake]

theorem headerSection_laid (seq : Word32) {r : OpenRecord} {item : TriggerItem} {rest : List TriggerItem}
    (h : r.triggers = item :: rest) (first a : Nat) :
    let bs := sectionOf kindHeader r.protect r.number (offsetOf first a) a 0 (headerBody seq r)
    SectionLaid bs 1 first a 0 r.protect r.number 29 ∧
    fieldsAt bs [(10, 4), (14, 1), (15, 4), (19, 1), (20, 2), (22, 4), (26, 1), (27, 2)] =
      [seq.toNat, r.openTime.isSome.toNat, r.openTime.getD 0 % 4294967296, item.entry % 256,
       item.index % 65536, item.conditions.toNat, r.preTaken % 256, r.missed % 65536] := by
  dsimp only
  obtain ⟨hlen, hfields⟩ := headerBody_fields seq h
  obtain ⟨-, -, -, -, hbody⟩ := sectionOf_layout kindHeader r.protect r.number (offsetOf first a) a 0
    (body := headerBody seq r) (by omega)
  have field : ∀ i n, i + n ≤ 19 → fieldAt (sectionOf kindHeader r.protect r.number (offsetOf first a) a 0
      (headerBody seq r)) (10 + i) n = fieldAt (headerBody seq r) i n :=
    fun i n hi => fieldAt_of_body hbody (by omega)
  refine ⟨sectionOf_laid (by omega) (by decide) (by decide) (by decide) fun i hi => ?_, ?_⟩
  · rw [List.getD_eq_getElem?_getD, List.getElem?_eq_none (by omega)]
    rfl
  · refine Eq.trans ?_ hfields
    simp only [fieldsAt_cons, fieldsAt_nil, ← field 0 4 (by decide), ← field 4 1 (by decide), ← field 5 4 (by decide),
      ← field 9 1 (by decide), ← field 10 2 (by decide), ← field 12 4 (by decide), ← field 16 1 (by decide),
      ← field 17 2 (by decide)]

end Sys2Proof.Machine
end


section
/-! PROOFS. The arbiter and the writer's order of work (R146, R154, R156, R165). -/

namespace Sys2Proof.Machine

/-! ## STORE GRANT (R156) -/

theorem exec_storeGrant {s : State} (hp : s.powered = true) (ho : portOpen s = true) :
    (∀ a op, chosenAgent s = some a → requestOf s a = some op →
      ((∀ b ∈ opBlocks op, b < 136) →
        exec .storeGrant s = .next { s with sc := { s.sc with port := some ⟨a, op, false⟩, lastGranted := a } }) ∧
      ((∃ b ∈ opBlocks op, 136 ≤ b) → ∃ b, exec .storeGrant s = .fault (.noSuchBlock b) ∧ 136 ≤ b)) ∧
    ((∀ a, requestOf s a = none) → exec .storeGrant s = .next s) := by
  have harm : exec .storeGrant s = execStoreGrant s := rfl
  rw [harm]
  unfold execStoreGrant
  rw [if_neg (by simp [hp, ho])]
  refine ⟨fun a op ha hop => ⟨fun hb => ?_, fun ⟨b, hb, h136⟩ => ?_⟩, fun hnone => ?_⟩
  · have hfind : (opBlocks op).find? (fun b => decide (136 ≤ b)) = none := by
      rw [List.find?_eq_none]
      exact fun b hm => by simpa using hb b hm
    simp only [ha, hop, hfind]
    rfl
  · cases hfind : (opBlocks op).find? (fun b => decide (136 ≤ b)) with
    | none =>
      rw [List.find?_eq_none] at hfind
      exact absurd (decide_eq_true h136) (hfind b hb)
    | some b' =>
      simp only [ha, hop, hfind]
      exact ⟨b', rfl, by simpa using List.find?_some hfind⟩
  · cases ha : chosenAgent s with
    | none => rfl
    | some a => simp only [hnone a]

theorem nextAgent_thrice (a : Agent) : nextAgent (nextAgent (nextAgent a)) = a := by cases a <;> rfl

/-- The agent chosen: an urgent writer, else the first that waits in the cyclic order. -/
theorem chosenAgent_order (s : State) :
    (writerUrgent s = true → chosenAgent s = some .writer) ∧
    (writerUrgent s = false →
      let n := nextAgent s.sc.lastGranted
      ((requestOf s n).isSome = true → chosenAgent s = some n) ∧
      ((requestOf s n).isSome = false → (requestOf s (nextAgent n)).isSome = true →
        chosenAgent s = some (nextAgent n)) ∧
      ((requestOf s n).isSome = false → (requestOf s (nextAgent n)).isSome = false →
        (requestOf s s.sc.lastGranted).isSome = true → chosenAgent s = some s.sc.lastGranted)) := by
  unfold chosenAgent
  refine ⟨fun hu => if_pos hu, fun hu => ?_⟩
  simp only [hu, nextAgent_thrice, Bool.false_eq_true, if_false]
  refine ⟨fun h1 => if_pos h1, fun h1 h2 => ?_, fun h1 h2 h3 => ?_⟩
  · rw [if_neg (by simp [h1]), if_pos h2]
  · rw [if_neg (by simp [h1]), if_neg (by simp [h2]), if_pos h3]

/-! ## The writer's work (R146) -/

theorem mem_undrained (cu : CaptureUnit) (i : Nat) (f : Frame) :
    (i, f) ∈ undrained cu ↔ ⟨f, .undrained i⟩ ∈ cu.ring := by
  unfold undrained
  simp only [List.mem_filterMap, List.mem_reverse, Option.map_eq_some_iff, Prod.mk.injEq]
  constructor
  · rintro ⟨⟨g, st⟩, hg, j, hj, rfl, rfl⟩
    cases st with
    | undrained k =>
      cases hj
      exact hg
    | free => cases hj
    | drained k => cases hj
  · intro h
    exact ⟨_, h, i, rfl, rfl, rfl⟩

theorem eraseReady_iff (s : State) :
    eraseReady s = true ↔ s.sc.eraseAhead = .due true ∧ s.li.closing = false := by
  simp [eraseReady]

/-- The writer's operation, from the first kind of work that has one. -/
theorem writerOp_order (s : State) :
    (∀ r, s.sc.recovery = some r → writerOp s = some (recoveryOp s r)) ∧
    (s.sc.recovery = none → eraseReady s = true →
      writerOp s = some (.erase (physicalBlock s.sc.map (eraseTarget s.sc)))) ∧
    (s.sc.recovery = none → eraseReady s = false →
      (∀ job, sectionDue s = some job → writerOp s = some (programOp s job)) ∧
      (sectionDue s = none → writerOp s = s.sc.pendingMarks.head?.map (fun n => .mark n (markSections s.sc n)))) := by
  unfold writerOp
  refine ⟨fun r hr => by rw [hr], fun hr he => by rw [hr]; exact if_pos he, fun hr he => ?_⟩
  rw [hr]
  refine ⟨fun job hj => ?_, fun hj => ?_⟩ <;> simp only [he, hj, Bool.false_eq_true, if_false]

/-- The writer waits just where it has an operation. -/
theorem writerWaits_eq (s : State) : writerWaits s = (writerOp s).isSome := by
  obtain ⟨hrec, herase, hrest⟩ := writerOp_order s
  unfold writerWaits
  cases hr : s.sc.recovery with
  | some r => rw [hrec r hr]; rfl
  | none =>
    cases he : eraseReady s with
    | true => rw [herase hr he]; rfl
    | false =>
      obtain ⟨hdue, hmarks⟩ := hrest hr he
      cases hj : sectionDue s with
      | some job => rw [hdue job hj]; rfl
      | none =>
        rw [hmarks hj]
        cases s.sc.pendingMarks <;> rfl

theorem writerUrgent_iff (s : State) :
    writerUrgent s = true ↔ (writerOp s).isSome = true ∧ 384 < (undrained s.cu).length := by
  unfold writerUrgent undrainedCount
  rw [writerWaits_eq, Bool.and_eq_true, decide_eq_true_eq]

/-- The section due, by the writer's seat, the rebuild's TRAILER and the open record (R144, R129, R131). -/
theorem sectionDue_order (s : State) :
    (s.sc.seat ≠ .normal → sectionDue s = none) ∧
    (s.sc.seat = .normal → s.sc.rebuildTrailer.isSome = true → sectionDue s = some .rebuildTrailer) ∧
    (s.sc.seat = .normal → s.sc.rebuildTrailer = none → sectionDue s = sectionReady s) := by
  unfold sectionDue
  refine ⟨fun h => if_neg h, fun h ht => ?_, fun h ht => ?_⟩
  · rw [if_pos h, if_pos ht]
  · rw [if_pos h, if_neg (by simp [ht])]

theorem sectionReady_absent {s : State}
    (h : s.cu.opened = none ∨ ∀ d ∈ s.sc.directory, d.state ≠ .filling) : sectionReady s = none := by
  unfold sectionReady
  obtain h | h := h
  · rw [h]
  · have hf : fillingEntry s.sc = none := by
      unfold fillingEntry
      rw [List.find?_eq_none]
      exact fun d hd => by simpa using h d hd
    rw [hf]
    split
    · next h' => cases h'
    · rfl

theorem sectionReady_order {s : State} {r : OpenRecord} {e : DirEntry} (ho : s.cu.opened = some r)
    (he : fillingEntry s.sc = some e) :
    let waiting := (undrained s.cu).map (·.1)
    let header := e.sectionCount = 0 ∧ s.sc.position = e.first
    (header → sectionReady s = some .header) ∧
    (¬header → 8 ≤ waiting.length → sectionReady s = some (.frames (waiting.take 8))) ∧
    (¬header → waiting.length < 8 →
      (r.phase = .closing → waiting = [] → sectionReady s = some .trailer) ∧
      (r.phase = .closing → waiting ≠ [] → sectionReady s = some (.frames waiting)) ∧
      (r.phase = .capturing → sectionReady s = none)) := by
  unfold sectionReady
  rw [ho, he]
  dsimp only
  simp only [List.length_map]
  refine ⟨fun h => if_pos h, fun h h8 => ?_, fun h h8 => ⟨fun hc hw => ?_, fun hc hw => ?_, fun hc => ?_⟩⟩
  · rw [if_neg h, if_pos h8, List.map_take]
  · rw [if_neg h, if_neg (by omega), if_pos hc, if_pos (by simpa using hw)]
  · rw [if_neg h, if_neg (by omega), if_pos hc, if_neg (by simpa using hw)]
  · rw [if_neg h, if_neg (by omega), if_neg (by rw [hc]; exact nofun)]

/-- The sections of a release mark (R149): the TRAILER's, and its copy where the relocator has made one. -/
theorem markSections_trailer {sc : StoreController} {n x : Nat} {e : DirEntry}
    (he : sc.directory.find? (fun d => d.number == n) = some e) (hx : e.trailer = some x) :
    let at_ := physicalBlock sc.map (x / 16) * 16 + x % 16
    ∃ copy, markSections sc n = at_ :: copy ∧ (sc.relocation = none → copy = []) ∧
      ∀ r, sc.relocation = some r →
        ((r.block = at_ / 16 ∧ (r.step = .switch ∨ ∃ next, r.step = .copy next ∧ x % 16 < next)) →
          copy = [r.target * 16 + x % 16]) ∧
        (¬(r.block = at_ / 16 ∧ (r.step = .switch ∨ ∃ next, r.step = .copy next ∧ x % 16 < next)) → copy = []) := by
  intro at_
  have hblock : at_ / 16 = physicalBlock sc.map (x / 16) := by omega
  have hcopied : ∀ r : Relocation, alreadyCopied r (x % 16) = true ↔
      (r.step = .switch ∨ ∃ next, r.step = .copy next ∧ x % 16 < next) := by
    intro r
    unfold alreadyCopied
    cases r.step <;> simp
  have hentry : (entryOf sc n).bind (·.trailer) = some x := by
    unfold entryOf
    rw [he]
    exact hx
  unfold markSections
  rw [hentry]
  refine ⟨_, rfl, fun hr => by rw [hr], fun r hr => ?_⟩
  rw [hr, hblock]
  dsimp only
  rw [← hcopied r]
  exact ⟨fun h => if_pos h, fun h => if_neg h⟩

/-! ## The relocator and the reader (R154, R165) -/

theorem relocatorOp_step (sc : StoreController) :
    (sc.relocation = none → relocatorOp sc = none) ∧
    (∀ r, sc.relocation = some r → relocatorOp sc = some (match r.step with
      | .erase => .erase r.target
      | .copy slot => .copy (r.block * 16 + slot) (r.target * 16 + slot)
      | .switch => .mapWrite (.replace (logicalOf sc.map r.block) r.block r.target)
      | .retire => .mapWrite (.retire r.target))) := by
  unfold relocatorOp
  refine ⟨fun h => by rw [h]; rfl, fun r h => by rw [h]; rfl⟩

theorem readerOp_asking (sc : StoreController) :
    (∀ r logical, sc.readOut = some r → r.asking = some logical →
      readerOp sc = some (.read logical (physicalBlock sc.map (logical / 16) * 16 + logical % 16))) ∧
    (sc.readOut.bind (·.asking) = none → readerOp sc = none) := by
  unfold readerOp
  refine ⟨fun r logical h ha => ?_, fun h => by rw [h]; rfl⟩
  rw [h, Option.bind_some, ha]
  rfl

/-- The bytes of each job, from the records as they stand at the grant (8.2). -/
theorem jobBytes_cases (s : State) (a : Nat) :
    (∀ x, s.sc.rebuildTrailer = some x → jobBytes s .rebuildTrailer a = trailerSection x a) ∧
    (∀ r e, s.cu.opened = some r → fillingEntry s.sc = some e →
      jobBytes s .header a =
        sectionOf kindHeader r.protect r.number (offsetOf e.first a) a 0 (headerBody e.sequence r) ∧
      (∀ indices, let fs := (undrained s.cu).filter (fun f => indices.contains f.1)
        jobBytes s (.frames indices) a = sectionOf kindFrame r.protect r.number (offsetOf e.first a) a fs.length
          (fs.flatMap (fun f => framePlace f.2 f.1))) ∧
      jobBytes s .trailer a = trailerSection (trailerOf r e.first) a) := by
  unfold jobBytes
  refine ⟨fun x hx => by rw [hx]; rfl, fun r e hr he => ?_⟩
  simp only [hr, he]
  exact ⟨trivial, fun _ => trivial, trivial⟩

/-- Settles O35: the grant, the writer's order of work, and each section's layout. -/
theorem arbiterGrantsInOrder : Obligations.ArbiterGrantsInOrder := by
  refine ⟨fun s hp ho => ?_, rfl, fun s => ?_, fun s job => rfl, rfl, fun s a => ⟨fun x hx h8 => ?_,
    fun r e hr he => ⟨fun item rest hi => ?_, fun indices => ?_, fun reason hreason h8 => ?_⟩⟩⟩
  · obtain ⟨hgrant, hidle⟩ := exec_storeGrant hp ho
    obtain ⟨hurgent, hcyclic⟩ := chosenAgent_order s
    exact ⟨hgrant, hurgent, hcyclic, hidle⟩
  · intro request at_ ahead erases
    obtain ⟨hrec, herase, hrest⟩ := writerOp_order s
    obtain ⟨hseat, hrebuild, hready⟩ := sectionDue_order s
    obtain ⟨hnoReloc, hreloc⟩ := relocatorOp_step s.sc
    obtain ⟨hread, hnoRead⟩ := readerOp_asking s.sc
    refine ⟨writerUrgent_iff s, fun i f => mem_undrained s.cu i f, fun r hr => (hrec r hr).trans ?_, fun hr he =>
      (herase hr ((eraseReady_iff s).2 he)).trans rfl, fun hr he => ?_, hseat, hrebuild, fun hs ht => ?_, hnoReloc, hreloc,
      hread, hnoRead⟩
    · unfold recoveryOp
      cases r.step <;> rfl
    · have hne : eraseReady s = false := Bool.eq_false_iff.2 fun h => he ((eraseReady_iff s).1 h)
      obtain ⟨hdue, hmarks⟩ := hrest hr hne
      refine ⟨hdue, fun n rest hd hm => ⟨markSections s.sc n, ?_, fun e x hfind hx => markSections_trailer hfind hx⟩,
        fun hd hm => ?_⟩
      · exact (hmarks hd).trans (by rw [hm]; rfl)
      · exact (hmarks hd).trans (by rw [hm]; rfl)
    · rw [hready hs ht]
      exact ⟨sectionReady_absent, fun r e hr he => sectionReady_order hr he⟩
  · have hlaid := trailerSection_laid h8 a
    rw [← (jobBytes_cases s a).1 x hx] at hlaid
    exact hlaid
  · obtain ⟨hheader, -, -⟩ := (jobBytes_cases s a).2 r e hr he
    rw [hheader]
    exact headerSection_laid e.sequence hi e.first a
  · obtain ⟨-, hframes, -⟩ := (jobBytes_cases s a).2 r e hr he
    intro fs h8
    rw [hframes indices]
    exact frameSection_laid h8 r.protect r.number e.first a
  · obtain ⟨-, -, htrailer⟩ := (jobBytes_cases s a).2 r e hr he
    have hinfo : trailerOf r e.first = ⟨r.number, e.first, r.protect, r.captureCount - r.lostCount, r.lostCount,
        r.missed, r.extraTriggers, reason, r.triggers⟩ := by
      unfold trailerOf
      rw [hreason]
      rfl
    rw [htrailer, hinfo]
    exact trailerSection_laid (by exact h8) a

end Sys2Proof.Machine
end


section
/-! PROOFS. The line (R176, R177): what its bytes make, and the frames that are discarded. -/

namespace Sys2Proof.Machine

/-- A frame stays open while it is shorter than its header, or than the length that its header gives. -/
theorem frameStatus_open {bs : List Byte}
    (h : bs.length < 4 ∨ (fieldAt bs 2 2 ≤ 600 ∧ bs.length < fieldAt bs 2 2 + 6)) :
    frameStatus bs = (.inFrame bs, none) := by
  unfold frameStatus
  dsimp only
  by_cases h4 : bs.length < 4
  · rw [if_pos h4]
  · obtain ⟨h600, hlt⟩ := h.resolve_left h4
    rw [if_neg h4, if_neg (by omega), if_pos hlt]

/-- A length over 600 discards the frame at its second length byte. -/
theorem frameStatus_tooLong {kind tag l0 l1 : Byte} (h : 600 < l0.toNat + 256 * l1.toNat) :
    frameStatus [kind, tag, l0, l1] = (.hunting, some .discarded) := by
  have hlen : fieldAt [kind, tag, l0, l1] 2 2 = l0.toNat + 256 * l1.toNat := fieldAt_length kind tag l0 l1 []
  unfold frameStatus
  dsimp only
  rw [hlen, if_neg (by simp), if_pos ⟨rfl, h⟩]

/-- A whole frame ends at its second checkword byte, and arrives where the checkword is that of R141. -/
theorem frameStatus_whole {kind tag l0 l1 c0 c1 : Byte} {body : List Byte}
    (hl : l0.toNat + 256 * l1.toNat = body.length) :
    frameStatus ([kind, tag, l0, l1] ++ body ++ [c0, c1]) = (.hunting, some
      (if c0.toNat + 256 * c1.toNat = (crc16 ([kind, tag, l0, l1] ++ body)).toNat then .arrived kind tag body
      else .discarded)) := by
  have hlen : fieldAt ([kind, tag, l0, l1] ++ body ++ [c0, c1]) 2 2 = body.length := by
    rw [List.append_assoc, fieldAt_length, hl]
  have hcheck : fieldAt ([kind, tag, l0, l1] ++ body ++ [c0, c1]) (body.length + 4) 2 = c0.toNat + 256 * c1.toNat := by
    rw [fieldAt_append_right (by simp)]
    have hzero : body.length + 4 - ([kind, tag, l0, l1] ++ body).length = 0 := by simp
    rw [hzero]
    simp [fieldAt, leValue]
  have htake : ([kind, tag, l0, l1] ++ body ++ [c0, c1]).take (body.length + 4) = [kind, tag, l0, l1] ++ body :=
    List.take_left' (by simp)
  have hbody : ((([kind, tag, l0, l1] ++ body ++ [c0, c1]).drop 4).take body.length) = body := by
    rw [List.append_assoc, show ([kind, tag, l0, l1] ++ (body ++ [c0, c1])).drop 4 = body ++ [c0, c1] from rfl]
    exact List.take_left' rfl
  unfold frameStatus
  dsimp only
  rw [hlen, hcheck, htake, hbody, if_neg (by simp), if_neg (by simp), if_neg (by simp)]
  split <;> rfl

/-- Every proper part of a frame leaves it open. -/
theorem receive_part {kind tag l0 l1 c0 c1 : Byte} {body : List Byte}
    (hl : l0.toNat + 256 * l1.toNat = body.length) (h600 : body.length ≤ 600) {n : Nat}
    (hn : n < ([kind, tag, l0, l1] ++ body ++ [c0, c1]).length) :
    receive (.inFrame []) (([kind, tag, l0, l1] ++ body ++ [c0, c1]).take n) =
      some (.inFrame (([kind, tag, l0, l1] ++ body ++ [c0, c1]).take n), none) := by
  refine receive_open fun m _ hm => frameStatus_open ?_
  rw [List.take_take]
  simp only [List.length_take, List.length_append, List.length_cons, List.length_nil] at hn hm ⊢
  by_cases h4 : m < 4
  · left
    omega
  · right
    have hfield : fieldAt (([kind, tag, l0, l1] ++ body ++ [c0, c1]).take (min m n)) 2 2 = body.length := by
      rw [List.append_assoc, List.take_append, List.take_of_length_le (by simp; omega), fieldAt_length, hl]
    rw [hfield]
    omega

theorem exec_frameDiscard {bytes : List Byte} {r : Receiver} {s : State} (hp : s.powered = true)
    (hc : s.li.closing = false) (hr : receive s.li.receiver bytes = some (r, some .discarded)) :
    exec (.frameDiscard bytes) s = .next (raise .frameErrors { s with li := { s.li with receiver := r } }) := by
  have harm : exec (.frameDiscard bytes) s = done s (onLine bytes (fun e t =>
    match e with
    | .discarded => raise .frameErrors t
    | .arrived _ _ _ => s) s) := rfl
  rw [harm, done_powered _ hp, onLine, if_neg (by simp [hc]), hr]

/-- A frame is discarded only as the receiver goes back to hunting. -/
theorem receive_discarded {r q : Receiver} {bytes : List Byte} (h : receive r bytes = some (q, some .discarded)) :
    q = .hunting := by
  have hfeed : ∀ r b q, feedByte r b = (q, some .discarded) → q = .hunting := by
    intro r b q h
    cases r with
    | hunting => cases h
    | inFrame bs =>
      unfold feedByte frameStatus at h
      dsimp only at h
      split at h
      · cases h
      · split at h
        · cases h; rfl
        · split at h
          · cases h
          · split at h <;> cases h
            rfl
  induction bytes generalizing r with
  | nil => cases h
  | cons b bs ih =>
    rw [receive] at h
    rcases hf : feedByte r b with ⟨r', _ | e⟩
    · rw [hf] at h
      exact ih h
    · rw [hf] at h
      dsimp only at h
      split at h
      · cases h
        exact hfeed _ _ _ hf
      · cases h

/-- Settles O47: the receiver's laws, by the receiver and the frame's length and checkword. -/
theorem lineErrorsDiscardTheFrame : Obligations.LineErrorsDiscardTheFrame := by
  refine ⟨fun bytes h => receive_hunting h, rfl, fun bytes h => receive_open fun n _ hn => frameStatus_open (.inl ?_),
    fun kind tag l0 l1 h => ?_, fun kind tag l0 l1 c0 c1 body hl h600 => ⟨?_, fun n hn => receive_part hl h600 hn⟩,
    fun r q e bytes more => ⟨fun h => receive_append more h, fun h hm => receive_beyond h hm⟩,
    fun bytes r s hp hc hr => ?_, fun bytes open_ after s hp hc hr => ?_⟩
  · rw [List.length_take]
    omega
  · exact receive_last (bytes := [kind, tag, l0]) (receive_open fun n _ hn => frameStatus_open (.inl (by
      rw [List.length_take]
      exact Nat.lt_succ_of_le (Nat.min_le_right _ _)))) (frameStatus_tooLong h)
  · have hpart := receive_part (kind := kind) (tag := tag) (c0 := c0) (c1 := c1) hl h600 (n := body.length + 5) (by simp)
    have htake : ([kind, tag, l0, l1] ++ body ++ [c0, c1]).take (body.length + 5) = [kind, tag, l0, l1] ++ body ++ [c0] := by
      rw [show [kind, tag, l0, l1] ++ body ++ [c0, c1] = ([kind, tag, l0, l1] ++ body ++ [c0]) ++ [c1] by simp]
      exact List.take_left' (by simp)
    rw [htake] at hpart
    have hwhole := frameStatus_whole (kind := kind) (tag := tag) (c0 := c0) (c1 := c1) hl
    rw [show [kind, tag, l0, l1] ++ body ++ [c0, c1] = ([kind, tag, l0, l1] ++ body ++ [c0]) ++ [c1] by simp] at hwhole ⊢
    exact receive_last hpart hwhole
  · obtain rfl := receive_discarded hr
    exact exec_frameDiscard hp hc hr
  · have harm : exec (.frameGap bytes after) s = done s (frameGap bytes after s) := rfl
    rw [harm, done_powered _ hp, frameGap, if_neg (by simp [hc]), hr]
    rfl

end Sys2Proof.Machine
end


section
/-! PROOFS. CYCLE DEMAND (R52 to R54, R178, R179, R186): the demand record, and the report that is owed. -/

namespace Sys2Proof.Machine

theorem directionOf_eq (n : Nat) :
    directionOf n = if n = 1 then .forward else if n = 2 then .reverse else .neutral := by
  unfold directionOf
  split
  · rfl
  · rfl
  · rw [if_neg (by assumption), if_neg (by assumption)]

theorem flagAt_iff (bs : List Byte) (i : Nat) : flagAt bs i = true ↔ fieldAt bs i 1 ≠ 0 := by simp [flagAt]

/-- The status OK is one byte of a layout. -/
theorem statusOk_byte : [statusCode .ok] = le8 0 := rfl

/-- The CYCLE REPORT's values at their bytes (10.8). -/
theorem cycleReportBody_fields (s : State) :
    fieldsAt (cycleReportBody s)
      [(0, 1), (1, 2), (3, 2), (5, 2), (7, 2), (9, 2), (11, 2), (13, 1), (14, 1), (15, 1), (16, 1), (17, 1),
       (18, 1), (19, 2), (21, 2), (23, 2), (25, 2), (27, 1), (28, 1), (29, 4), (33, 2), (35, 1), (36, 1)] =
      [0, s.bc.trucks.a.dbRequest % 65536, s.bc.trucks.b.dbRequest % 65536, s.bc.trucks.a.pBlend % 65536,
       s.bc.trucks.b.pBlend % 65536, s.co.trucks.a.pCmd.getD 0 % 65536, s.co.trucks.b.pCmd.getD 0 % 65536,
       outputCode s.co.trucks.a.mode, s.co.trucks.a.dump.toNat, outputCode s.co.trucks.b.mode,
       s.co.trucks.b.dump.toNat, corrCode s.sp.trucks.a.state, corrCode s.sp.trucks.b.state,
       s.sp.trucks.a.cap % 65536, s.sp.trucks.b.cap % 65536, s.bc.shortfall % 65536, reportedRef s.am % 65536,
       s.am.refValid.toNat, modeCode s.cx.mode, (conditionWord s false).toNat,
       (s.cx.notices &&& s.cx.noticeEnable).toNat, (s.sp.sandForward.state == .opened).toNat,
       (s.sp.sandReverse.state == .opened).toNat] := by
  unfold cycleReportBody
  generalize s.cx.notices &&& s.cx.noticeEnable = word
  simp only [statusOk_byte, List.append_assoc, fieldsAt_cons, fieldsAt_nil]
  simp [fieldAt_append_left, fieldAt_append_right]

theorem exec_cycleDemand {bytes body : List Byte} {tag : Byte} {s : State} (h : Arrives bytes 0x01 tag body s) :
    ∃ r, exec (.cycleDemand bytes) s = .next (takeDemand tag body { s with li := { s.li with receiver := r } }) := by
  have harm : exec (.cycleDemand bytes) s =
      done s (onFrame bytes (fun k => k == kindCycleDemand) (fun _ => takeDemand) s) := rfl
  obtain ⟨r, hr⟩ : ∃ r, onFrame bytes (fun k => k == kindCycleDemand) (fun _ => takeDemand) s =
      takeDemand tag body { s with li := { s.li with receiver := r } } := onFrame_arrives _ h (by decide)
  exact ⟨r, by rw [harm, done_powered _ h.1, hr]⟩

/-- Settles O45: the demand record written whole, and the entry placed in the report list. -/
theorem cycleDemandWritesTheRecord : Obligations.CycleDemandWritesTheRecord := by
  intro bytes body tag s h raw ambient owed
  obtain ⟨r, hexec⟩ := exec_cycleDemand h
  have hfields := cycleReportBody_fields s
  refine ⟨fun h27 => ?_, fun h27 => ?_, rfl, hfields⟩
  · have htake : takeDemand tag body { s with li := { s.li with receiver := r } } =
        placeReport (.report tag) { s with
          li := { s.li with receiver := r }, demand := demandOfBody body, bc := { s.bc with demandAge := 0 } } := if_pos h27
    rw [htake] at hexec
    obtain ⟨hframe, hfull, hroom⟩ := placeReport_cases (.report tag) { s with
      li := { s.li with receiver := r }, demand := demandOfBody body, bc := { s.bc with demandAge := 0 } }
    refine ⟨_, hexec, ?_⟩
    generalize placeReport (.report tag) { s with
      li := { s.li with receiver := r }, demand := demandOfBody body, bc := { s.bc with demandAge := 0 } } = t at *
    have hd : t.demand = demandOfBody body := by rw [hframe]
    have hbc : t.bc = { s.bc with demandAge := 0 } := by rw [hframe]
    have hrec : t.li.receiver = r := by rw [hframe]
    rw [hd, hbc, hrec]
    refine ⟨rfl, hframe, rfl, rfl, rfl, rfl, rfl, directionOf_eq _, rfl, rfl, ?_, ?_, ?_, ⟨hfull, hroom⟩, rfl,
      length_cycleReportBody t⟩
    · simp only [demandOfBody, flagAt_iff]
    · simp only [demandOfBody, flagAt_iff, signedAt_eq]
      rfl
    · simp only [demandOfBody, flagAt_iff]
  · have htake : takeDemand tag body { s with li := { s.li with receiver := r } } =
        placeReport (.badLength tag) { s with li := { s.li with receiver := r } } := if_neg h27
    rw [htake] at hexec
    obtain ⟨hframe, hfull, hroom⟩ := placeReport_cases (.badLength tag) { s with li := { s.li with receiver := r } }
    refine ⟨_, hexec, ?_⟩
    generalize placeReport (.badLength tag) { s with li := { s.li with receiver := r } } = t at *
    have hrec : t.li.receiver = r := by rw [hframe]
    rw [hrec]
    exact ⟨hframe, ⟨hfull, hroom⟩, reportFrame_badLength t tag⟩

end Sys2Proof.Machine
end


section
/-! PROOFS. FRAME SENT (R186, R167, R165, R203): the next frame, and the reader that a sent part turns on. -/

namespace Sys2Proof.Machine

/-- The line after a frame has been sent, before the next is chosen. -/
def lineIdle (s : State) : State := { s with li := { s.li with tx := none } }

theorem exec_frameSent {f : TxFrame} {s : State} (hp : s.powered = true) (htx : s.li.tx = some f) :
    (f.role = .plain → exec .frameSent s = .next (startTx (lineIdle s))) ∧
    (f.role = .readPart → exec .frameSent s = .next (startTx (readReplySent (lineIdle s)))) ∧
    (f.role = .restartDone → exec .frameSent s =
      .next (startTx { s with li := { s.li with tx := none, restartSent := true } })) := by
  have harm : exec .frameSent s = done s (frameSent s) := rfl
  rw [harm, done_powered _ hp]
  unfold frameSent
  rw [htx]
  refine ⟨fun h => ?_, fun h => ?_, fun h => ?_⟩ <;> simp only [h] <;> rfl

/-- An idle line takes the oldest entry, and nothing else changes. -/
theorem startTx_idle {s : State} (h : s.li.tx = none) :
    startTx s = { s with li := (startTx s).li } ∧ (startTx s).li.queue = s.li.queue ∧
    (startTx s).li.restartSent = s.li.restartSent ∧ Sends s.li.reports s.li.replies (startTx s) := by
  refine ⟨?_, startTx_queue s, startTx_restartSent s, (startTx_placed s).2 h⟩
  rw [startTx_frame]

/-- Where a reply waits the line does not stay idle. -/
theorem Sends.busy {reports : List ReportEntry} {replies : List Reply} {r : Reply} {t : State}
    (h : Sends reports (replies ++ [r]) t) : t.li.tx.isSome = true := by
  obtain ⟨hreport, hreply, -⟩ := h
  cases reports with
  | cons e rest => rw [(hreport e rest rfl).1]; rfl
  | nil =>
    cases replies with
    | cons x rest => rw [(hreply x (rest ++ [r]) rfl rfl).1]; rfl
    | nil => rw [(hreply r [] rfl rfl).1]; rfl

theorem startTx_busy {s : State} (h : s.li.tx.isSome = true) : startTx s = s := by
  unfold startTx
  obtain ⟨f, hf⟩ := Option.isSome_iff_exists.mp h
  rw [hf]

/-! ## The reader's two tests (R165) -/

theorem turnReader_gone {r : ReadOut} {s : State} (h : readOutEntry s.sc r = none) :
    turnReader r s = stopReadOut .recordGone r s := by
  unfold turnReader
  rw [h]

theorem turnReader_asks {r : ReadOut} {e : DirEntry} {s : State} (h : readOutEntry s.sc r = some e)
    (hl : r.nextIndex < e.sectionCount) :
    turnReader r s = withReadOut (some { r with
      limitSeen := e.sectionCount, asking := some ((e.first + r.nextIndex) % 2048) }) s := by
  unfold turnReader
  rw [h]
  exact if_neg (Nat.not_le.mpr hl)

theorem turnReader_limit {r : ReadOut} {e : DirEntry} {s : State} (h : readOutEntry s.sc r = some e)
    (hl : e.sectionCount ≤ r.nextIndex) :
    (r.kind = .verify ∧ r.whole = true ∧ 0 < r.verified →
      turnReader r s = endVerify { r with limitSeen := e.sectionCount } s) ∧
    (¬(r.kind = .verify ∧ r.whole = true ∧ 0 < r.verified) →
      turnReader r s = stopReadOut .addressOverflow { r with limitSeen := e.sectionCount } s) := by
  unfold turnReader
  rw [h]
  dsimp only
  rw [if_pos hl]
  exact ⟨fun hv => if_pos hv, fun hv => if_neg hv⟩

/-- A READ stopped on an idle line: its final reply is the last of the list before the next frame is chosen (R167). -/
theorem stopReadOut_idle (st : Status) {r : ReadOut} {s : State} (hk : r.kind = .read) (h : s.li.tx = none) :
    let t := startTx (stopReadOut st r s)
    t = { s with li := t.li, sc := { s.sc with readOut := none } } ∧ t.li.queue = s.li.queue.tail ∧
    Sends s.li.reports (s.li.replies ++ [⟨0x8F, r.tag, readBody s st r, .plain⟩]) t := by
  obtain ⟨hframe, -, hsends⟩ := endReadOut_answered st r s
  rw [hk] at hsends
  have hstop : stopReadOut st r s = endReadOut st r s := by
    unfold stopReadOut
    rw [if_neg (by rw [hk]; exact nofun)]
  have hs := hsends h
  dsimp only
  rw [hstop, startTx_busy hs.busy]
  refine ⟨?_, ?_, hs⟩
  · rw [hframe]
    rfl
  · rw [hframe]
    rfl

/-- Settles O48: the next frame by the role of the one sent, and the reader's tests where a part has been sent. -/
theorem frameSentChoosesTheNext : Obligations.FrameSentChoosesTheNext := by
  intro f s hp htx stops
  obtain ⟨hplain, hpart, hrestart⟩ := exec_frameSent hp htx
  refine ⟨fun h => ?_, fun r hrole hr hw => ⟨fun e he hl => ?_, fun he hk => ?_, fun e he hl hk => ?_⟩⟩
  · cases hrole : f.role with
    | plain =>
      obtain ⟨hframe, hq, hsent, hsends⟩ := startTx_idle (s := lineIdle s) rfl
      exact ⟨_, hplain hrole, hframe, hq, hsends, hsent.trans (Bool.or_false _).symm⟩
    | readPart =>
      have hnone : s.sc.readOut = none := h.resolve_left (Decidable.not_not.mpr hrole)
      have hsent : readReplySent (lineIdle s) = lineIdle s := by
        unfold readReplySent
        rw [show (lineIdle s).sc.readOut = none from hnone]
      rw [hpart hrole, hsent]
      obtain ⟨hframe, hq, hsent, hsends⟩ := startTx_idle (s := lineIdle s) rfl
      exact ⟨_, rfl, hframe, hq, hsends, hsent.trans (Bool.or_false _).symm⟩
    | restartDone =>
      obtain ⟨hframe, hq, hsent, hsends⟩ :=
        startTx_idle (s := { s with li := { s.li with tx := none, restartSent := true } }) rfl
      exact ⟨_, hrestart hrole, hframe, hq, hsends, hsent.trans (Bool.or_true _).symm⟩
  all_goals
    have hsent : readReplySent (lineIdle s) = turnReader { r with waiting := false } (lineIdle s) := by
      unfold readReplySent
      rw [show (lineIdle s).sc.readOut = some r from hr]
      exact if_pos hw
    rw [hpart hrole, hsent]
  · rw [turnReader_asks (r := { r with waiting := false }) (s := lineIdle s) he hl]
    obtain ⟨hframe, hq, hsent, hsends⟩ := startTx_idle (s := withReadOut (some { r with
      waiting := false, limitSeen := e.sectionCount, asking := some ((e.first + r.nextIndex) % 2048) }) (lineIdle s)) rfl
    refine ⟨_, rfl, ?_, hq, hsends, hsent, ?_⟩
    · refine hframe.trans ?_
      rw [startTx_sc]
      rfl
    · rw [startTx_sc]
      rfl
  · rw [turnReader_gone (r := { r with waiting := false }) (s := lineIdle s) he]
    have hfill : stillFilling (lineIdle s).sc { r with waiting := false } = false := by
      unfold stillFilling
      rw [show readOutEntry (lineIdle s).sc { r with waiting := false } = none from he]
    obtain ⟨hframe, hq, hsends⟩ :=
      stopReadOut_idle .recordGone (r := { r with waiting := false }) (s := lineIdle s) hk rfl
    unfold readBody at hsends
    rw [hfill] at hsends
    exact ⟨_, rfl, hframe, hq, hsends⟩
  · rw [(turnReader_limit (r := { r with waiting := false }) (s := lineIdle s) he hl).2 (by rw [hk]; exact nofun)]
    have hfill : stillFilling (lineIdle s).sc { r with waiting := false, limitSeen := e.sectionCount } =
        (e.state == .filling) := by
      unfold stillFilling
      rw [show readOutEntry (lineIdle s).sc { r with waiting := false, limitSeen := e.sectionCount } = some e from he]
    obtain ⟨hframe, hq, hsends⟩ := stopReadOut_idle .addressOverflow
      (r := { r with waiting := false, limitSeen := e.sectionCount }) (s := lineIdle s) hk rfl
    unfold readBody at hsends
    rw [hfill] at hsends
    exact ⟨_, rfl, hframe, hq, hsends⟩

end Sys2Proof.Machine
end


section
/-! PROOFS. READ COMPLETE (R165 to R171, R175): the checks, the replies, and the section that follows. -/

namespace Sys2Proof.Machine

/-! ## The replies (R167, R171) -/

/-- The body of a READ INCIDENT reply, its status and still-filling flag given. -/
def readReplyBody (st : Byte) (u : ReadOut) (filling : Bool) : List Byte :=
  [st] ++ le16 u.number ++ le16 u.nextIndex ++ le16 u.remaining ++ flagByte filling ++
  le8 u.gathered.length ++ u.gathered.flatMap (fun x => flagByte x.corrected ++ x.bytes)

/-- The body of a VERIFY INCIDENT reply, with or without a failing section. -/
def verifyReplyBody (st : Byte) (u : ReadOut) (failing filling : Bool) : List Byte :=
  [st] ++ le16 u.number ++ le16 u.verified ++ flagByte failing ++ le16 (if failing then u.nextIndex else 0) ++
  le16 (if u.whole then (if failing then u.limitSeen - u.nextIndex else 0) else u.remaining) ++
  le16 u.corrected ++ flagByte filling

/-- The final reply of a read-out begun as `r` and ended as `u`. -/
def finalReply (st : Byte) (r u : ReadOut) (failing filling : Bool) : Reply :=
  match r.kind with
  | .read => ⟨0x8F, r.tag, readReplyBody st u filling, .plain⟩
  | .verify => ⟨0x90, r.tag, verifyReplyBody st u failing filling, .plain⟩

theorem verifyBody_eq (s : State) (st : Status) (u : ReadOut) :
    (u.firstFailing = none → verifyBody s st u = verifyReplyBody (statusCode st) u false (stillFilling s.sc u)) ∧
    (u.firstFailing = some u.nextIndex →
      verifyBody s st u = verifyReplyBody (statusCode st) u true (stillFilling s.sc u)) := by
  unfold verifyBody verifyReplyBody notVerified
  refine ⟨fun h => ?_, fun h => ?_⟩ <;> rw [h] <;> rfl

theorem endReadOut_kinds (st : Status) (u : ReadOut) (s : State) :
    (u.kind = .read →
      AnsweredBy ⟨0x8F, u.tag, readBody s st u, .plain⟩ (withReadOut none s) (endReadOut st u s)) ∧
    (u.kind = .verify →
      AnsweredBy ⟨0x90, u.tag, verifyBody s st u, .plain⟩ (withReadOut none s) (endReadOut st u s)) := by
  have h := endReadOut_answered st u s
  refine ⟨fun hk => ?_, fun hk => ?_⟩ <;> rw [hk] at h <;> exact h

theorem finalReply_read {st : Byte} {r u : ReadOut} {failing filling : Bool} (h : r.kind = .read) :
    finalReply st r u failing filling = ⟨0x8F, r.tag, readReplyBody st u filling, .plain⟩ := by
  unfold finalReply
  rw [h]

theorem finalReply_verify {st : Byte} {r u : ReadOut} {failing filling : Bool} (h : r.kind = .verify) :
    finalReply st r u failing filling = ⟨0x90, r.tag, verifyReplyBody st u failing filling, .plain⟩ := by
  unfold finalReply
  rw [h]

/-- A stop answers with the failing index (R166, R171). -/
theorem stopReadOut_ends (st : Status) {r u : ReadOut} (s : State) (hk : u.kind = r.kind) (ht : u.tag = r.tag) :
    AnsweredBy (finalReply (statusCode st) r u true (stillFilling s.sc u)) (withReadOut none s)
      (stopReadOut st u s) := by
  unfold stopReadOut
  obtain hu | hu : u.kind = .read ∨ u.kind = .verify := by cases u.kind <;> simp
  · rw [if_neg (by rw [hu]; nofun), finalReply_read (hk ▸ hu), ← ht]
    exact (endReadOut_kinds st u s).1 hu
  · rw [if_pos hu, finalReply_verify (hk ▸ hu), ← ht]
    have h := (endReadOut_kinds st { u with firstFailing := some u.nextIndex } s).2 hu
    rw [(verifyBody_eq s st { u with firstFailing := some u.nextIndex }).2 rfl] at h
    exact h

/-- A READ that ends OK, and a VERIFY that does (R167, R171). -/
theorem endReadOut_ends {r u : ReadOut} (s : State) (hk : u.kind = r.kind) (ht : u.tag = r.tag) :
    (r.kind = .read → AnsweredBy (finalReply 0x00 r u false (stillFilling s.sc u)) (withReadOut none s)
      (endReadOut .ok u s)) ∧
    (r.kind = .verify → AnsweredBy (finalReply 0x00 r u false (stillFilling s.sc u)) (withReadOut none s)
      (endVerify u s)) := by
  refine ⟨fun hr => ?_, fun hr => ?_⟩
  · rw [finalReply_read hr, ← ht]
    exact (endReadOut_kinds .ok u s).1 (hk.trans hr)
  · rw [finalReply_verify hr, ← ht]
    have h := (endReadOut_kinds .ok { u with firstFailing := none } s).2 (hk.trans hr)
    rw [(verifyBody_eq s .ok { u with firstFailing := none }).1 rfl] at h
    exact h

/-! ## The read (R166) -/

/-- The relocation queue after a read with an outcome (R152). -/
def queueAfterRead (o : MediumOutcome) (block : Nat) (sc : StoreController) : List Nat :=
  if o = .corrected ∧ block ∉ sc.relocQueue ∧ sc.relocQueue.length < 4 ∧
      sc.relocation.map (·.block) ≠ some block then
    sc.relocQueue ++ [block]
  else sc.relocQueue

/-- The state after the read, before the checks: the port free and a CORRECTED block queued. -/
def readEnded (o : MediumOutcome) (phys : Nat) (s : State) : State :=
  { s with
    freeCount := s.freeCount + sectionSize
    sc := { s.sc with port := none, relocQueue := queueAfterRead o (phys / 16) s.sc } }

theorem queueBlock_queue (block : Nat) (sc : StoreController) :
    queueBlock block sc = { sc with relocQueue := queueAfterRead .corrected block sc } := by
  have hunder : (match sc.relocation with
      | some r => r.block == block
      | none => false) = true ↔ sc.relocation.map (·.block) = some block := by
    cases sc.relocation <;> simp
  have hskip : (sc.relocQueue.contains block || (match sc.relocation with
      | some r => r.block == block
      | none => false) || decide (4 ≤ sc.relocQueue.length)) = true ↔
      ¬(block ∉ sc.relocQueue ∧ sc.relocQueue.length < 4 ∧ sc.relocation.map (·.block) ≠ some block) := by
    rw [Bool.or_eq_true, Bool.or_eq_true, hunder, List.contains_iff_mem, decide_eq_true_eq, Decidable.not_and_iff_not_or_not,
      Decidable.not_and_iff_not_or_not, Decidable.not_not, Decidable.not_not, Nat.not_lt, or_assoc, or_comm (a := sc.relocation.map (·.block) = some block)]
  unfold queueAfterRead
  by_cases h : block ∉ sc.relocQueue ∧ sc.relocQueue.length < 4 ∧ sc.relocation.map (·.block) ≠ some block
  · rw [if_pos ⟨rfl, h⟩]
    exact if_neg fun hs => hskip.1 hs h
  · rw [if_neg fun hs => h hs.2]
    exact if_pos (hskip.2 h)

theorem exec_readComplete_discarded {logical phys : Nat} {o : MediumOutcome} {d : Bool} {s : State}
    (hp : s.powered = true) (hport : s.sc.port = some ⟨.reader, .read logical phys, d⟩)
    (h : d = true ∨ s.sc.readOut = none) :
    exec (.readComplete o) s = .next (freePort { s with freeCount := s.freeCount + sectionSize }) := by
  have harm : exec (.readComplete o) s = done s (readComplete o s) := rfl
  rw [harm, done_powered _ hp]
  unfold readComplete
  rw [hport]
  dsimp only
  cases d with
  | true => rfl
  | false => rw [h.resolve_left nofun]; rfl

/-- A read that counts ends the read-out at the first check that fails, and goes on by the read-out's kind (R166). -/
theorem exec_readComplete {logical phys : Nat} {o : MediumOutcome} {r : ReadOut} {s : State} (hp : s.powered = true)
    (hport : s.sc.port = some ⟨.reader, .read logical phys, false⟩) (hr : s.sc.readOut = some r) :
    let o' := readOutcome s.medium phys o
    let bs := readSection s.medium s.freeCount phys o'
    (∀ st, checkSection r logical o' bs = some st →
      exec (.readComplete o) s = .next (stopReadOut st { r with asking := none } (readEnded o' phys s))) ∧
    (checkSection r logical o' bs = none →
      (r.kind = .read → exec (.readComplete o) s =
        .next (afterGather (gatherSection o' bs { r with asking := none }) (readEnded o' phys s))) ∧
      (r.kind = .verify → exec (.readComplete o) s =
        .next (afterVerify (countSection o' { r with asking := none }) (readEnded o' phys s)))) := by
  have harm : exec (.readComplete o) s = done s (readComplete o s) := rfl
  intro o' bs
  have hended : (if o' = .corrected then
      withSc (queueBlock (phys / 16)) (freePort { s with freeCount := s.freeCount + sectionSize })
      else freePort { s with freeCount := s.freeCount + sectionSize }) = readEnded o' phys s := by
    by_cases ho : o' = .corrected
    · rw [if_pos ho, ho]
      unfold withSc
      rw [queueBlock_queue]
      rfl
    · rw [if_neg ho]
      unfold readEnded queueAfterRead
      rw [if_neg fun h => ho h.1]
      rfl
  rw [harm, done_powered _ hp]
  unfold readComplete
  rw [hport]
  dsimp only
  rw [if_neg nofun, hr]
  dsimp only
  rw [hended]
  refine ⟨fun st hst => ?_, fun hst => ⟨fun hk => ?_, fun hk => ?_⟩⟩
  · rw [show checkSection { r with asking := none } logical o' bs = some st from hst]
  · rw [show checkSection { r with asking := none } logical o' bs = none from hst]
    simp only [hk]
    rfl
  · rw [show checkSection { r with asking := none } logical o' bs = none from hst]
    simp only [hk]
    rfl

/-! ## The checks and what follows them -/

theorem checkSection_order {r : ReadOut} {logical : Nat} {o : MediumOutcome} {bs : List Byte} :
    let header := sectionNumber bs = r.number ∧ sectionIndex bs = r.nextIndex ∧ sectionAddr bs = logical
    (o = .uncorrectable → checkSection r logical o bs = some .uncorrectable) ∧
    (o ≠ .uncorrectable → ¬header → checkSection r logical o bs = some .addressMismatch) ∧
    (o ≠ .uncorrectable → header → checkwordPasses bs = false →
      checkSection r logical o bs = some .uncorrectable) ∧
    (o ≠ .uncorrectable → header → checkwordPasses bs = true → checkSection r logical o bs = none) := by
  intro header
  unfold checkSection
  refine ⟨fun h => if_pos h, fun h hh => ?_, fun h hh hc => ?_, fun h hh hc => ?_⟩
  · rw [if_neg h, if_pos hh]
  · rw [if_neg h, if_neg (Decidable.not_not.mpr hh), if_neg (by simp [hc])]
  · rw [if_neg h, if_neg (Decidable.not_not.mpr hh), if_pos hc]

/-- The answer over the state after the read is the answer over what it leaves of the store. -/
theorem AnsweredBy.ofRead {x : Reply} {o : MediumOutcome} {phys : Nat} {s t : State}
    (h : AnsweredBy x (withReadOut none (readEnded o phys s)) t) :
    AnsweredBy x { s with
      sc := { s.sc with port := none, readOut := none, relocQueue := queueAfterRead o (phys / 16) s.sc }
      freeCount := t.freeCount } t := by
  have hfree : t.freeCount = s.freeCount + sectionSize := by
    rw [h.1]
    rfl
  rw [hfree]
  exact h

theorem placeReply_leaves {x : Reply} {s t : State} (h : t = placeReply x s) :
    t = { s with li := { s.li with reports := t.li.reports, replies := t.li.replies, tx := t.li.tx } } ∧
    Placed s.li.reports (s.li.replies ++ [x]) s t := by
  subst h
  exact ⟨placeReply_frame x s, placeReply_placed x s⟩

theorem afterGather_cases (u : ReadOut) (s : State) :
    (u.remaining = 0 → afterGather u s = endReadOut .ok u s) ∧
    (u.remaining ≠ 0 → u.burst ≤ u.gathered.length → afterGather u s =
      placeReply ⟨0x8F, u.tag, readBody s .ok u, .readPart⟩
        (withReadOut (some { u with gathered := [], waiting := true }) s)) ∧
    (u.remaining ≠ 0 → ¬u.burst ≤ u.gathered.length → afterGather u s = turnReader u s) := by
  unfold afterGather
  refine ⟨fun h => if_pos h, fun h hb => ?_, fun h hb => ?_⟩
  · rw [if_neg h, if_pos hb]
    rfl
  · rw [if_neg h, if_neg hb]

theorem afterVerify_cases (u : ReadOut) (s : State) :
    (u.remaining = 0 → u.whole = false → afterVerify u s = endVerify u s) ∧
    (¬(u.remaining = 0 ∧ u.whole = false) → afterVerify u s = turnReader u s) := by
  unfold afterVerify
  refine ⟨fun h hw => ?_, fun h => ?_⟩
  · rw [if_pos (by simp [h, hw])]
  · rw [if_neg (by simpa [and_comm] using h)]

theorem finalReply_limitSeen {st : Byte} {r u : ReadOut} {failing filling : Bool} (n : Nat)
    (h : failing = true → ¬(r.kind = .verify ∧ u.whole = true)) :
    finalReply st r { u with limitSeen := n } failing filling = finalReply st r u failing filling := by
  obtain hk | hk : r.kind = .read ∨ r.kind = .verify := by cases r.kind <;> simp
  · rw [finalReply_read hk, finalReply_read hk]
    rfl
  · rw [finalReply_verify hk, finalReply_verify hk]
    unfold verifyReplyBody
    cases failing with
    | false => rfl
    | true =>
      have hw : u.whole = false := Bool.eq_false_iff.mpr fun hw => h rfl ⟨hk, hw⟩
      simp only [hw]
      rfl

/-- The reader's two tests, each end with its answer (R165, R170, R171). -/
theorem turnReader_ends {r u : ReadOut} (s : State) (hk : u.kind = r.kind) (ht : u.tag = r.tag) :
    let fill := stillFilling s.sc u
    (readOutEntry s.sc u = none →
      AnsweredBy (finalReply 0x0A r u true fill) (withReadOut none s) (turnReader u s)) ∧
    (∀ e, readOutEntry s.sc u = some e → e.sectionCount ≤ u.nextIndex →
      (r.kind = .verify ∧ u.whole = true → 0 < u.verified →
        AnsweredBy (finalReply 0x00 r u false fill) (withReadOut none s) (turnReader u s)) ∧
      (¬(r.kind = .verify ∧ u.whole = true) →
        AnsweredBy (finalReply 0x0B r u true fill) (withReadOut none s) (turnReader u s))) := by
  intro fill
  refine ⟨fun he => ?_, fun e he hl => ⟨fun hv hpos => ?_, fun hv => ?_⟩⟩
  · rw [turnReader_gone he]
    exact stopReadOut_ends .recordGone s hk ht
  · rw [(turnReader_limit he hl).1 ⟨hk.trans hv.1, hv.2, hpos⟩]
    have h := (endReadOut_ends (r := r) (u := { u with limitSeen := e.sectionCount }) s hk ht).2 hv.1
    rw [finalReply_limitSeen (u := u) (failing := false) _ (by simp)] at h
    exact h
  · rw [(turnReader_limit he hl).2 fun h => hv ⟨hk ▸ h.1, h.2.1⟩]
    have h := stopReadOut_ends .addressOverflow (r := r) (u := { u with limitSeen := e.sectionCount }) s hk ht
    rw [finalReply_limitSeen (u := u) _ fun _ => hv] at h
    exact h

/-- A section gathered for a READ: the end of the count, the burst, or the next section (R166, R167). -/
theorem readPasses {logical phys : Nat} {o : MediumOutcome} {r u : ReadOut} {s : State} (hp : s.powered = true)
    (hport : s.sc.port = some ⟨.reader, .read logical phys, false⟩) (hr : s.sc.readOut = some r)
    (hk : r.kind = .read)
    (hcheck : checkSection r logical (readOutcome s.medium phys o)
      (readSection s.medium s.freeCount phys (readOutcome s.medium phys o)) = none)
    (hu : u = gatherSection (readOutcome s.medium phys o)
      (readSection s.medium s.freeCount phys (readOutcome s.medium phys o)) { r with asking := none }) :
    let T := readEnded (readOutcome s.medium phys o) phys s
    let fill := stillFilling s.sc r
    ∃ t, exec (.readComplete o) s = .next t ∧
      (r.remaining ≤ 1 → AnsweredBy (finalReply 0x00 r u false fill) (withReadOut none T) t) ∧
      (¬r.remaining ≤ 1 → r.burst ≤ r.gathered.length + 1 →
        t = placeReply ⟨0x8F, r.tag, readReplyBody 0x00 u fill, .readPart⟩
          (withReadOut (some { u with gathered := [], waiting := true }) T)) ∧
      (¬r.remaining ≤ 1 → ¬r.burst ≤ r.gathered.length + 1 → t = turnReader u T) := by
  intro T fill
  subst hu
  obtain ⟨hend, hpause, hturn⟩ := afterGather_cases (gatherSection (readOutcome s.medium phys o)
      (readSection s.medium s.freeCount phys (readOutcome s.medium phys o)) { r with asking := none }) T
  have hlen : ∀ x : Gathered, (r.gathered ++ [x]).length = r.gathered.length + 1 := fun x => by simp
  refine ⟨_, ((exec_readComplete hp hport hr).2 hcheck).1 hk, fun h => ?_, fun h hb => ?_, fun h hb => ?_⟩
  · rw [hend (Nat.sub_eq_zero_of_le h)]
    exact (endReadOut_ends T rfl rfl).1 hk
  · exact hpause (fun h' => h (Nat.sub_eq_zero_iff_le.mp h')) (by simpa [gatherSection] using hb)
  · exact hturn (fun h' => h (Nat.sub_eq_zero_iff_le.mp h')) (by simpa [gatherSection] using hb)

/-- A section counted for a VERIFY: the end of the count, or the next section (R170, R171). -/
theorem verifyPasses {logical phys : Nat} {o : MediumOutcome} {r u : ReadOut} {s : State} (hp : s.powered = true)
    (hport : s.sc.port = some ⟨.reader, .read logical phys, false⟩) (hr : s.sc.readOut = some r)
    (hk : r.kind = .verify)
    (hcheck : checkSection r logical (readOutcome s.medium phys o)
      (readSection s.medium s.freeCount phys (readOutcome s.medium phys o)) = none)
    (hu : u = countSection (readOutcome s.medium phys o) { r with asking := none }) :
    let T := readEnded (readOutcome s.medium phys o) phys s
    let fill := stillFilling s.sc r
    ∃ t, exec (.readComplete o) s = .next t ∧
      (r.remaining ≤ 1 ∧ r.whole = false → AnsweredBy (finalReply 0x00 r u false fill) (withReadOut none T) t) ∧
      (¬(r.remaining ≤ 1 ∧ r.whole = false) → t = turnReader u T) := by
  intro T fill
  subst hu
  obtain ⟨hend, hturn⟩ := afterVerify_cases
    (countSection (readOutcome s.medium phys o) { r with asking := none }) T
  refine ⟨_, ((exec_readComplete hp hport hr).2 hcheck).2 hk, fun h => ?_, fun h => ?_⟩
  · rw [hend (Nat.sub_eq_zero_of_le h.1) h.2]
    exact (endReadOut_ends T rfl rfl).2 hk
  · exact hturn fun h' => h ⟨Nat.sub_eq_zero_iff_le.mp h'.1, h'.2⟩

/-- Settles O43: the checks in their order, each end with its reply, and the section that follows. -/
theorem readChecksTheSection : Obligations.ReadChecksTheSection := by
  intro logical phys o s hp
  refine ⟨fun d hport h => ⟨_, exec_readComplete_discarded hp hport h, rfl⟩, fun r hport hr => ?_⟩
  intro o' bs queue after readBytes verifyBytes ended passes
  have hreply : ∀ (st : Byte) (u : ReadOut) (failing : Bool),
      finalReply st r u failing (stillFilling s.sc r) = (match r.kind with
        | .read => ⟨0x8F, r.tag, readBytes st u, .plain⟩
        | .verify => ⟨0x90, r.tag, verifyBytes st u failing, .plain⟩) := fun st u failing => by
    obtain hk | hk : r.kind = .read ∨ r.kind = .verify := by cases r.kind <;> simp
    · rw [finalReply_read hk, hk]
      rfl
    · rw [finalReply_verify hk, hk]
      rfl
  have hended : ∀ {st : Byte} {u : ReadOut} {failing : Bool} {t : State},
      AnsweredBy (finalReply st r u failing (stillFilling s.sc r)) (withReadOut none (readEnded o' phys s)) t →
      ended st u failing t := fun h => by
    have h' := h.ofRead
    rw [hreply] at h'
    exact h'
  have hstops : ∀ st code, statusCode st = code → checkSection r logical o' bs = some st →
      ∃ t, exec (.readComplete o) s = .next t ∧ ended code r true t := fun st code hcode hst => by
    have h := stopReadOut_ends st (r := r) (u := { r with asking := none }) (readEnded o' phys s) rfl rfl
    rw [hcode] at h
    exact ⟨_, (exec_readComplete hp hport hr).1 st hst, hended h⟩
  obtain ⟨hmedium, hheader, hword, hpass⟩ := checkSection_order (r := r) (logical := logical) (o := o') (bs := bs)
  refine ⟨fun hu ho => ?_, fun ho => ?_, fun ho hh => ?_, fun ho h1 h2 h3 hc => ?_, fun hpasses => ?_⟩
  · exact (readSection_determined s.freeCount o' hu).1 ho
  · exact hstops _ _ rfl (hmedium ho)
  · exact hstops _ _ rfl (hheader ho hh)
  · exact hstops _ _ rfl (hword ho ⟨h1, h2, h3⟩ hc)
  obtain ⟨ho, hh, hc⟩ := hpasses
  have hcheck := hpass ho hh hc
  have hturns : ∀ (v : ReadOut) (t : State), v.kind = r.kind → v.tag = r.tag → v.number = r.number →
      v.sequence = r.sequence → v.nextIndex = r.nextIndex + 1 → v.whole = r.whole →
      (r.kind = .verify → 0 < v.verified) → t = turnReader v (readEnded o' phys s) →
      (readOutEntry s.sc r = none → ended 0x0A v true t) ∧
      (∀ e, readOutEntry s.sc r = some e →
        (r.nextIndex + 1 < e.sectionCount → t = after (some { v with
          limitSeen := e.sectionCount, asking := some ((e.first + (r.nextIndex + 1)) % 2048) }) t) ∧
        (e.sectionCount ≤ r.nextIndex + 1 →
          (r.kind = .verify ∧ r.whole = true → ended 0x00 v false t) ∧
          (¬(r.kind = .verify ∧ r.whole = true) → ended 0x0B v true t))) := by
    intro v t hk ht hn hq hi hw hpos htv
    have hentry : readOutEntry (readEnded o' phys s).sc v = readOutEntry s.sc r := by
      unfold readOutEntry
      rw [hn, hq]
      rfl
    have hfill : stillFilling (readEnded o' phys s).sc v = stillFilling s.sc r := by
      unfold stillFilling
      rw [hentry]
    have hends := turnReader_ends (r := r) (u := v) (readEnded o' phys s) hk ht
    dsimp only at hends
    rw [hentry, hfill, hw, hi] at hends
    obtain ⟨hgone, hlimit⟩ := hends
    refine ⟨fun he => ?_, fun e he => ⟨fun hl => ?_, fun hl => ⟨fun hv => ?_, fun hv => ?_⟩⟩⟩
    · rw [htv]
      exact hended (hgone he)
    · rw [htv, turnReader_asks (hentry.trans he) (hi ▸ hl), hi]
      rfl
    · rw [htv]
      exact hended ((hlimit e he hl).1 hv (hpos hv.1))
    · rw [htv]
      exact hended ((hlimit e he hl).2 hv)
  intro u counted pauses
  obtain hk | hk : r.kind = .read ∨ r.kind = .verify := by cases r.kind <;> simp
  · have hu : u = gatherSection o' bs { r with asking := none } := by
      unfold u
      rw [hk]
      rfl
    obtain ⟨t, ht, hend, hpause, hturn⟩ := readPasses hp hport hr hk hcheck hu
    have hcounted : counted ↔ r.remaining ≤ 1 := ⟨fun h => h.1, fun h => ⟨h, by rw [hk]; nofun⟩⟩
    have hpauses : pauses ↔ r.burst ≤ r.gathered.length + 1 := ⟨fun h => h.2, fun h => ⟨hk, h⟩⟩
    refine ⟨t, ht, fun hc => hended (hend (hcounted.1 hc)), fun hc hb => ?_, fun hc hb => ?_⟩
    · obtain ⟨hframe, hplaced⟩ := placeReply_leaves (hpause (mt hcounted.2 hc) (hpauses.1 hb))
      have hfree : t.freeCount = s.freeCount + sectionSize := by
        rw [hframe]
        rfl
      refine ⟨?_, hplaced⟩
      unfold after
      rw [hfree]
      exact hframe
    · exact hturns u t (by rw [hu]; rfl) (by rw [hu]; rfl) (by rw [hu]; rfl) (by rw [hu]; rfl) (by rw [hu]; rfl)
        (by rw [hu]; rfl) (by rw [hk]; nofun) (hturn (mt hcounted.2 hc) (mt hpauses.2 hb))
  · have hu : u = countSection o' { r with asking := none } := by
      unfold u
      rw [hk]
      rfl
    obtain ⟨t, ht, hend, hturn⟩ := verifyPasses hp hport hr hk hcheck hu
    have hcounted : counted ↔ r.remaining ≤ 1 ∧ r.whole = false :=
      ⟨fun h => ⟨h.1, h.2 hk⟩, fun h => ⟨h.1, fun _ => h.2⟩⟩
    refine ⟨t, ht, fun hc => hended (hend (hcounted.1 hc)), fun hc hb => ?_, fun hc hb => ?_⟩
    · exact absurd (hk ▸ hb.1) nofun
    · exact hturns u t (by rw [hu]; rfl) (by rw [hu]; rfl) (by rw [hu]; rfl) (by rw [hu]; rfl) (by rw [hu]; rfl)
        (by rw [hu]; rfl) (fun _ => by rw [hu]; exact Nat.succ_pos _) (hturn (mt hcounted.2 hc))

end Sys2Proof.Machine
end


section
/-! PROOFS. The commands that read (R162, R182, R188 to R190, R198): their replies and their layouts. -/

namespace Sys2Proof.Machine

/-! ## Layouts (10.8) -/

theorem statusBody_length (s : State) : (statusBody s).length = 45 := by
  unfold statusBody
  simp [statusOk_byte]

theorem statusBody_fields (s : State) :
    fieldsAt (statusBody s) [(0, 1), (1, 1), (2, 1), (3, 2), (5, 2), (7, 1), (8, 1), (39, 1), (40, 1), (41, 1),
        (42, 1), (43, 1), (44, 1)] =
      [0, modeCode s.cx.mode, s.bc.demandAge % 256, s.bpm.pressure % 65536, s.bpm.reduction % 65536,
       s.bpm.emergency.toNat, s.bpm.sensorFault.toNat, s.co.movedInSetup.toNat, s.sc.storeFull.toNat,
       s.sc.map.states.count .spare % 256, s.sc.directory.length % 256, s.li.overrun.toNat,
       s.li.queue.length % 256] := by
  unfold statusBody spareCount groupPlace outputPlace
  simp only [statusOk_byte, List.append_assoc, fieldsAt_cons, fieldsAt_nil]
  simp [fieldAt_append_left, fieldAt_append_right]

/-- The places of a group's entry of READ STATUS that begins at byte `i`. -/
def groupAt (i : Nat) : List (Nat × Nat) := [(i, 2), (i + 2, 2), (i + 4, 1)]

/-- The places of a truck's output entry of READ STATUS that begins at byte `i`. -/
def outputAt (i : Nat) : List (Nat × Nat) :=
  [(i, 1), (i + 1, 2), (i + 3, 1), (i + 4, 2), (i + 6, 1), (i + 7, 2), (i + 9, 1)]

theorem statusBody_groups (s : State) :
    fieldsAt (statusBody s) (groupAt 9) = [s.gt.a.theta % 65536, s.gt.a.cap % 65536, s.gt.a.cutout.toNat] ∧
    fieldsAt (statusBody s) (groupAt 14) = [s.gt.b.theta % 65536, s.gt.b.cap % 65536, s.gt.b.cutout.toNat] := by
  unfold statusBody groupPlace outputPlace groupAt
  simp only [statusOk_byte, List.append_assoc, fieldsAt_cons, fieldsAt_nil]
  simp [fieldAt_append_left, fieldAt_append_right]

/-- The values of a truck's output entry. -/
def outputValues (o : TruckOutput) : List Nat :=
  [outputCode o.mode, o.pCmd.getD 65535 % 65536, o.dump.toNat, o.measured % 65536, o.measuredValid.toNat,
   o.deviation % 65536, o.airFault.toNat]

theorem statusBody_outputs (s : State) :
    fieldsAt (statusBody s) (outputAt 19) = outputValues s.co.trucks.a ∧
    fieldsAt (statusBody s) (outputAt 29) = outputValues s.co.trucks.b := by
  unfold statusBody groupPlace outputPlace outputAt outputValues
  simp only [statusOk_byte, List.append_assoc, fieldsAt_cons, fieldsAt_nil]
  simp [fieldAt_append_left, fieldAt_append_right]

theorem axlePlace_fields (x : SpeedFields) (y : SlideFields) :
    fieldsAt (axlePlace x y) [(0, 2), (2, 2), (4, 1), (5, 1), (6, 1), (7, 1), (8, 2), (10, 2), (12, 1), (13, 1),
        (14, 2)] =
      [x.speed % 65536, x.prevSpeed % 65536, x.measured.toNat, x.quiet % 256, x.implausible % 256,
       sensorCode x.sensor, y.creep % 65536, (y.decel % 65536).toNat, y.decelHits % 256, y.sliding.toNat,
       y.faultTime % 65536] := by
  unfold axlePlace
  simp only [List.append_assoc, fieldsAt_cons, fieldsAt_nil]
  simp [fieldAt_append_left, fieldAt_append_right, BitVec.toNat_ofInt]
  omega

/-- The axles' entries of READ AXLE TABLE. -/
def axleRun (am : AxleMonitor) (sp : SlideUnit) : List Byte :=
  allAxles.flatMap fun i => axlePlace (am.axles.get i) (sp.axles.get i)

@[simp] theorem axleRun_length (am : AxleMonitor) (sp : SlideUnit) : (axleRun am sp).length = 96 :=
  length_flatMap_const (fun _ => length_axlePlace _ _) _

theorem axleTableBody_eq (s : State) :
    axleTableBody s = le8 0 ++ (axleRun s.am s.sp ++ (le16 (reportedRef s.am) ++ (flagByte s.am.refValid ++
      flagByte s.am.standstill))) := by
  unfold axleTableBody
  simp only [statusOk_byte, List.append_assoc]
  rfl

theorem axleTableBody_length (s : State) : (axleTableBody s).length = 101 := by
  rw [axleTableBody_eq]
  simp

theorem axleTableBody_ends (s : State) :
    fieldsAt (axleTableBody s) [(0, 1), (97, 2), (99, 1), (100, 1)] =
      [0, reportedRef s.am % 65536, s.am.refValid.toNat, s.am.standstill.toNat] := by
  rw [axleTableBody_eq]
  simp only [fieldsAt_cons, fieldsAt_nil]
  simp [fieldAt_append_left, fieldAt_append_right]

/-- A field of the entry of the axle at place `k`. -/
theorem axleTableBody_axle (s : State) {k : Nat} {i : AxleNo} (hk : allAxles[k]? = some i) {j n : Nat}
    (hj : j + n ≤ 16) :
    fieldAt (axleTableBody s) (1 + 16 * k + j) n = fieldAt (axlePlace (s.am.axles.get i) (s.sp.axles.get i)) j n := by
  have hlt : k < 6 := by simpa [allAxles] using (List.getElem?_eq_some_iff.mp hk).1
  rw [axleTableBody_eq, fieldAt_append_right (by rw [length_le8]; omega), length_le8,
    fieldAt_append_left (by rw [axleRun_length]; omega), show 1 + 16 * k + j - 1 = 16 * k + j by omega]
  exact fieldAt_flatMap (fun _ => length_axlePlace _ _) hk hj

/-- A run of fields is read where the entry that holds them stands. -/
theorem fieldsAt_shift {bs ys : List Byte} {o w : Nat}
    (h : ∀ j n, j + n ≤ w → fieldAt bs (o + j) n = fieldAt ys j n) (places : List (Nat × Nat))
    (hp : ∀ q ∈ places, q.1 + q.2 ≤ w) :
    fieldsAt bs (places.map fun q => (o + q.1, q.2)) = fieldsAt ys places := by
  unfold fieldsAt
  rw [List.map_map]
  exact List.map_congr_left fun q hq => h _ _ (hp q hq)

theorem listPlace_fields (e : DirEntry) :
    fieldsAt (listPlace e) [(0, 2), (2, 4), (6, 1), (7, 1), (8, 2), (10, 1), (11, 2), (13, 1)] =
      [e.number % 65536, e.sequence.toNat, recordCode e.state, e.protect.toNat, e.first % 65536,
       e.sectionCount % 256, e.frameCount % 65536, (match e.endReason with
         | some reason => endCode reason
         | none => 0)] := by
  unfold listPlace
  simp only [List.append_assoc, fieldsAt_cons, fieldsAt_nil]
  cases e.endReason <;> simp [fieldAt_append_left, fieldAt_append_right]

theorem listBody_eq (sc : StoreController) :
    listBody sc = le8 0 ++ (le8 sc.directory.length ++ sc.directory.flatMap listPlace) := by
  unfold listBody
  simp only [statusOk_byte, List.append_assoc]

theorem listBody_length (sc : StoreController) : (listBody sc).length = 2 + 14 * sc.directory.length := by
  rw [listBody_eq, List.length_append, List.length_append, length_le8, length_le8,
    length_flatMap_const length_listPlace]
  omega

theorem listBody_entry {sc : StoreController} {k : Nat} {e : DirEntry} (hk : sc.directory[k]? = some e) {j n : Nat}
    (hj : j + n ≤ 14) : fieldAt (listBody sc) (2 + 14 * k + j) n = fieldAt (listPlace e) j n := by
  rw [listBody_eq, fieldAt_append_right (by rw [length_le8]; omega), length_le8,
    fieldAt_append_right (by rw [length_le8]; omega), length_le8,
    show 2 + 14 * k + j - 1 - 1 = 14 * k + j by omega]
  exact fieldAt_flatMap length_listPlace hk hj

theorem triggerReply_eq (n : Nat) (e : TriggerEntry) (prev : Bool) :
    [statusCode .ok] ++ triggerPlace n e prev = [0x00] ++ le8 n ++ flagByte e.enabled ++ le32 e.mask.toNat ++
      le32 e.value.toNat ++ le8 e.preCount ++ le16 e.postCount ++ flagByte e.protect ++ flagByte prev := by
  unfold triggerPlace
  simp only [List.append_assoc]
  rfl

theorem replyKind_unknown {kind : Byte} (h : knownKind kind = false) : replyKind kind = 0xFF :=
  if_neg (by rw [h]; nofun)

/-! ## A reading command directly ahead of a window close (R190) -/

/-- `s` with another LI and another count of free values. -/
def withLink (l : LinkInterface) (f : Nat) (s : State) : State := { s with li := l, freeCount := f }

theorem raiseIf_link (b : Bool) (n : Notice) (l : LinkInterface) (f : Nat) (s : State) :
    raiseIf b n (withLink l f s) = withLink l f (raiseIf b n s) := by
  cases b <;> rfl

/-- The chain of a window close reads neither LI nor the free values. -/
theorem windowClose_link (a b : Reading) (l : LinkInterface) (f : Nat) (s : State) :
    windowClose a b (withLink l f s) = withLink l f (windowClose a b s) := by
  have hsp : spEvaluate (afterAm (withLink l f s)) = withLink l f (spEvaluate (afterAm s)) := by
    unfold spEvaluate
    dsimp only
    rw [← raiseIf_link, ← raiseIf_link]
    rfl
  have hco : ∀ u : State, compose a b (withLink l f u) = withLink l f (compose a b u) := fun u => by
    unfold compose
    dsimp only
    rw [← raiseIf_link, ← raiseIf_link]
    rfl
  by_cases ht : s.timersRunning = true
  · rw [windowClose_chain a b ht, windowClose_chain a b (s := withLink l f s) ht, hsp, hco]
  · unfold windowClose
    rw [if_neg ht, if_neg (show ¬(withLink l f s).timersRunning = true from ht)]

theorem exec_windowClose_link (a b : Reading) (l : LinkInterface) (f : Nat) {s : State} (hp : s.powered = true) :
    exec (.windowClose a b) (withLink l f s) = .next (withLink l f (windowClose a b s)) := by
  rw [exec_windowClose a b (s := withLink l f s) (by exact hp), windowClose_link]

theorem windowNext_close {a b : Reading} {rest : List Instr} {s : State}
    (h : s.pending = .windowClose a b :: rest) : windowNext s = s.timersRunning := by
  unfold windowNext
  rw [h]

/-- The table's two moments (R190): before the window, or between AM's evaluation and SP's. -/
theorem readAxleTable_ahead (c : Command) {s : State} (h : windowNext s = true) :
    let t := readAxleTable c s
    t.freeCount = s.freeCount + 1 ∧
    (AnsweredWith (axleTableBody s) c { s with freeCount := s.freeCount + 1 } t ∨
     AnsweredWith (axleTableBody (afterAm s)) c { s with freeCount := s.freeCount + 1 } t) := by
  unfold readAxleTable
  rw [if_pos h]
  refine ⟨?_, ?_⟩
  · rw [(answerWith_answered c _ { s with freeCount := s.freeCount + 1 }).1]
  · cases Config.freeBit s.freeCount
    · exact .inl (answerWith_answered c _ _)
    · exact .inr (answerWith_answered c _ _)

/-- An answered command changes LI alone. -/
theorem AnsweredBy.withLink {x : Reply} {f : Nat} {s t : State} (h : AnsweredBy x { s with freeCount := f } t) :
    t = withLink t.li f s := by
  rw [h.1]
  rfl

/-! ## The reading commands -/

/-- The reading commands of a fixed length, each with its answer. -/
theorem readingCommands_answer (c : Command) {s : State} (h : Awaits c s) :
    (c.kind = 0x02 → c.body = [] →
      ∃ t, exec .readStatus s = .next t ∧ AnsweredWith (statusBody s) c s t) ∧
    (c.kind = 0x03 → c.body = [] → ∃ t, exec .readNotices s = .next t ∧
      AnsweredWith ([0x00] ++ le16 s.cx.notices.toNat ++ le16 s.cx.noticeEnable.toNat) c s t) ∧
    (c.kind = 0x13 → c.body = [] → exec .readAxleTable s = .next (readAxleTable c s)) ∧
    (c.kind = 0x0E → c.body = [] → exec .listIncidents s = .next (storeCommand listIncidents c s)) := by
  refine ⟨fun hk hb => ⟨_, ?_, answerWith_answered c _ s⟩, fun hk hb => ⟨_, ?_, answerWith_answered c _ s⟩,
    fun hk hb => ?_, fun hk hb => ?_⟩
  · have harm : exec .readStatus s = done s (takeCommand 0x02 0 (fun c t => answerWith c (statusBody t) t) s) := rfl
    rw [harm, done_take h hk (by rw [hb]; rfl)]
  · have harm : exec .readNotices s = done s (takeCommand 0x03 0 (fun c t =>
        answerWith c ([statusCode .ok] ++ le16 t.cx.notices.toNat ++ le16 t.cx.noticeEnable.toNat) t) s) := rfl
    rw [harm, done_take h hk (by rw [hb]; rfl)]
    rfl
  · have harm : exec .readAxleTable s = done s (takeCommand 0x13 0 readAxleTable s) := rfl
    rw [harm, done_take h hk (by rw [hb]; rfl)]
  · have harm : exec .listIncidents s = done s (takeCommand 0x0E 0 (storeCommand listIncidents) s) := rfl
    rw [harm, done_take h hk (by rw [hb]; rfl)]

theorem exec_readParameter {c : Command} {s : State} (h : Awaits c s) (hk : c.kind = 0x06)
    (hb : c.body.length = 2) : exec .readParameter s = .next (readParameter c s) := by
  have harm : exec .readParameter s = done s (takeCommand 0x06 2 readParameter s) := rfl
  rw [harm, done_take h hk hb]

theorem exec_readTrigger {c : Command} {s : State} (h : Awaits c s) (hk : c.kind = 0x0C)
    (hb : c.body.length = 1) : exec .readTrigger s = .next (readTrigger c s) := by
  have harm : exec .readTrigger s = done s (takeCommand 0x0C 1 readTrigger s) := rfl
  rw [harm, done_take h hk hb]

theorem exec_unknownKind {c : Command} {s : State} (h : Awaits c s) (hk : requiredLength c.kind = none) :
    exec .unknownKind s = .next (refuseCommand c .unknownKind s) := by
  have harm : exec .unknownKind s = done s (unknownKind s) := rfl
  obtain ⟨hp, hhead, hmay⟩ := h
  rw [harm, done_powered _ hp]
  unfold unknownKind
  cases hq : s.li.queue with
  | nil => rw [hq] at hhead; exact absurd hhead nofun
  | cons d rest =>
    obtain rfl : d = c := by rw [hq] at hhead; exact Option.some.inj hhead
    exact congrArg _ (if_pos ⟨by rw [hk]; rfl, hmay⟩)

/-- Settles O51: each reading command with its layout, the table ahead of a window close, and the two refusals. -/
theorem readingCommandsAnswer : Obligations.ReadingCommandsAnswer := by
  refine ⟨fun c s h => ?commands, ⟨rfl, rfl, rfl, rfl, rfl, rfl⟩, fun s => ?status, fun s k => ?axles,
    fun sc k e he => ?list, fun c s h => ?refused, fun c a b rest s h hk hb hpend => ?ahead⟩
  case commands =>
    obtain ⟨hstatus, hnotices, htable, hlist⟩ := readingCommands_answer c h
    refine ⟨fun hk hb => ⟨statusBody_length s, hstatus hk hb⟩, hnotices, fun hk hb => ⟨axleTableBody_length s,
      fun hw => ?_⟩, fun hk hb hm => ⟨listBody_length s.sc, ?_⟩, fun hk hb hm => ?_, fun p hk hb hp => ?_,
      fun hk hb hp => ?_, fun n e hk hb hn he => ?_, fun hk hb hn => ?_⟩
    · refine ⟨_, htable hk hb, ?_⟩
      unfold readAxleTable
      rw [if_neg (by rw [hw]; nofun)]
      exact answerWith_answered c _ s
    · refine ⟨_, hlist hk hb, ?_⟩
      unfold storeCommand
      rw [if_neg hm]
      exact answerWith_answered c _ s
    · refine ⟨_, hlist hk hb, ?_⟩
      unfold storeCommand
      rw [if_pos hm]
      exact refuseCommand_statusOnly c _ s
    · refine ⟨_, exec_readParameter h hk hb, ?_⟩
      unfold readParameter
      dsimp only
      rw [hp]
      exact answerWith_answered c _ s
    · refine ⟨_, exec_readParameter h hk hb, ?_⟩
      unfold readParameter
      dsimp only
      rw [hp]
      exact refuseCommand_statusOnly c _ s
    · refine ⟨_, exec_readTrigger h hk hb, ?_⟩
      unfold readTrigger
      dsimp only
      rw [hn, if_neg (Nat.succ_ne_zero n), Nat.add_sub_cancel, he]
      have hbody := triggerReply_eq (n + 1) e (s.cu.prevMatch.getD n true)
      dsimp only
      rw [hbody]
      exact answerWith_answered c _ s
    · refine ⟨_, exec_readTrigger h hk hb, ?_⟩
      have hnone : (if fieldAt c.body 0 1 = 0 then none else s.pm.params.triggers[fieldAt c.body 0 1 - 1]?) = none := by
        obtain h0 | hgt := hn
        · exact if_pos h0
        · rw [if_neg (by omega)]
          exact List.getElem?_eq_none (by omega)
      unfold readTrigger
      dsimp only
      rw [hnone]
      exact refuseCommand_statusOnly c _ s
  case status =>
    obtain ⟨hga, hgb⟩ := statusBody_groups s
    obtain ⟨hoa, hob⟩ := statusBody_outputs s
    refine ⟨statusBody_fields s, fun g => ?_⟩
    cases g with
    | a => exact ⟨hga, hoa⟩
    | b => exact ⟨hgb, hob⟩
  case axles =>
    intro i x y at_
    have hi : allAxles[k.val]? = some i := List.getElem?_eq_getElem k.isLt
    refine ⟨axleTableBody_ends s, ?_⟩
    exact (fieldsAt_shift (fun _ _ hj => axleTableBody_axle s hi hj) _ (by decide)).trans (axlePlace_fields x y)
  case list =>
    intro at_
    refine ⟨?_, (fieldsAt_shift (fun _ _ hj => listBody_entry he hj) _ (by decide)).trans (listPlace_fields e)⟩
    rw [listBody_eq]
    simp [fieldAt_append_left, fieldAt_append_right]
  case refused =>
    refine ⟨fun hl hq => ⟨_, exec_unknownKind h hl, ?_⟩, fun q hq hk hl => ?_⟩
    · have hreply := refuseCommand_statusOnly c .unknownKind s
      unfold StatusOnly at hreply
      rw [replyKind_unknown hq] at hreply
      exact hreply
    · obtain ⟨rule, hrule⟩ := queuedRows_rule q hq
      exact ⟨_, (hrule s).trans (done_take_badLength h hk hl), refuseCommand_statusOnly c _ s⟩
  case ahead =>
    have hnext := windowNext_close hpend
    refine ⟨by rw [hnext], fun ht => ?_⟩
    obtain ⟨hfree, hans⟩ := readAxleTable_ahead c (hnext.trans ht)
    have hlink : readAxleTable c s = withLink (readAxleTable c s).li (s.freeCount + 1) s :=
      hans.elim (·.withLink) (·.withLink)
    obtain ⟨-, -, htable, -⟩ := readingCommands_answer c h
    refine ⟨_, _, withLink (readAxleTable c s).li (s.freeCount + 1) (windowClose a b s), htable hk hb, ?_,
      exec_windowClose a b h.1, ?_, ?_⟩
    · rw [hfree]
      exact hans
    · exact (congrArg (exec (.windowClose a b)) hlink).trans (exec_windowClose_link a b _ _ h.1)
    · rw [hfree]
      rfl

end Sys2Proof.Machine
end


section
/-! PROOFS. The commands that set the notices, the trigger table, the mark and the read burst (R119, R123, R163,
R188). -/

namespace Sys2Proof.Machine

/-! ## Notices (R188) -/

theorem exec_clearNotices {c : Command} {s : State} (h : Awaits c s) (hk : c.kind = 0x04)
    (hb : c.body.length = 2) : exec .clearNotices s = .next (clearNotices c s) := by
  have harm : exec .clearNotices s = done s (takeCommand 0x04 2 clearNotices s) := rfl
  rw [harm, done_take h hk hb]

theorem exec_setNoticeEnable {c : Command} {s : State} (h : Awaits c s) (hk : c.kind = 0x05)
    (hb : c.body.length = 4) : exec .setNoticeEnable s = .next (setNoticeEnable c s) := by
  have harm : exec .setNoticeEnable s = done s (takeCommand 0x05 4 setNoticeEnable s) := rfl
  rw [harm, done_take h hk hb]

theorem clearNotices_cases (c : Command) (s : State) :
    ((noticesAt c.body 0).msb = true → clearNotices c s = refuseCommand c .badValue s) ∧
    ((noticesAt c.body 0).msb = false → clearNotices c s = answerOk c { s with
      cx := { s.cx with notices := s.cx.notices &&& ~~~noticesAt c.body 0 } }) := by
  unfold clearNotices
  exact ⟨fun h => if_pos h, fun h => if_neg (by rw [h]; nofun)⟩

theorem setNoticeEnable_cases (c : Command) (s : State) :
    ((noticesAt c.body 0).msb = true ∨ (noticesAt c.body 2).msb = true →
      setNoticeEnable c s = refuseCommand c .badValue s) ∧
    ((noticesAt c.body 0).msb = false → (noticesAt c.body 2).msb = false →
      setNoticeEnable c s = answerOk c { s with cx := { s.cx with
        noticeEnable := (s.cx.noticeEnable &&& ~~~noticesAt c.body 2) ||| noticesAt c.body 0 } }) := by
  unfold setNoticeEnable
  exact ⟨fun h => if_pos (by simpa using h), fun h h' => if_neg (by simp [h, h'])⟩

/-! ## The trigger table, the mark and the burst -/

theorem flagAt_eq (bs : List Byte) (i : Nat) : flagAt bs i = decide (fieldAt bs i 1 ≠ 0) :=
  Bool.eq_iff_iff.mpr ((flagAt_iff bs i).trans decide_eq_true_iff.symm)

/-- An accepted SET TRIGGER replaces one entry, to be seen not to match before it fires (R123). -/
def triggerSet (n : Nat) (e : TriggerEntry) (s : State) : State :=
  { s with
    pm := { s.pm with params := { s.pm.params with triggers := s.pm.params.triggers.set (n - 1) e } }
    cu := { s.cu with prevMatch := s.cu.prevMatch.set (n - 1) true, armed := s.cu.armed.set (n - 1) false } }

theorem setTrigger_cases (c : Command) (s : State) :
    let n := fieldAt c.body 0 1
    let e := triggerOfBody c.body
    (1 ≤ n ∧ n ≤ 8 ∧ triggerAllowed e → setTrigger c s = answerOk c (triggerSet n e s)) ∧
    (¬(1 ≤ n ∧ n ≤ 8 ∧ triggerAllowed e) → setTrigger c s = refuseCommand c .badValue s) := by
  unfold setTrigger
  simp only [← triggerInRange_iff]
  exact ⟨fun h => if_pos h, fun h => if_neg h⟩

theorem setReadBurst_cases (c : Command) (s : State) :
    let v := fieldAt c.body 0 1
    (v = 1 ∨ v = 2 ∨ v = 4 → setReadBurst c s = answerOk c { s with sc := { s.sc with burst := v } }) ∧
    (¬(v = 1 ∨ v = 2 ∨ v = 4) →
      setReadBurst c s = refuseCommand c .badValue { s with sc := { s.sc with burst := 1 } }) := by
  unfold setReadBurst
  exact ⟨fun h => if_pos h, fun h => if_neg h⟩

theorem exec_setTrigger {c : Command} {s : State} (h : Awaits c s) (hk : c.kind = 0x0B)
    (hb : c.body.length = 14) : exec .setTrigger s = .next (setTrigger c s) := by
  have harm : exec .setTrigger s = done s (takeCommand 0x0B 14 setTrigger s) := rfl
  rw [harm, done_take h hk hb]

theorem exec_markIncident {c : Command} {s : State} (h : Awaits c s) (hk : c.kind = 0x0D) (hb : c.body = []) :
    exec .markIncident s = .next (answerOk c { s with cu := { s.cu with markPending := true } }) := by
  have harm : exec .markIncident s = done s (takeCommand 0x0D 0 (fun c t =>
    answerOk c (withCu (fun cu => { cu with markPending := true }) t)) s) := rfl
  rw [harm, done_take h hk (by rw [hb]; rfl)]
  rfl

theorem exec_setReadBurst {c : Command} {s : State} (h : Awaits c s) (hk : c.kind = 0x12)
    (hb : c.body.length = 1) : exec .setReadBurst s = .next (setReadBurst c s) := by
  have harm : exec .setReadBurst s = done s (takeCommand 0x12 1 setReadBurst s) := rfl
  rw [harm, done_take h hk hb]

/-- Settles O52: each setting command accepted or refused, with the next state as a whole. -/
theorem settingCommands : Obligations.SettingCommands := by
  refine ⟨fun c s h => ⟨fun hk hb hm => ?clear, fun hk hb hm => ?clearRefused, fun hk hb hm hm' => ?enable,
    fun hk hb hm => ?enableRefused⟩, fun c s h => ⟨fun hk hb => ?trigger, fun hk hb => ?mark, fun hk hb => ?burst⟩⟩
  case clear =>
    have hcx : ∀ u : State, (answerOk c u).cx = u.cx := fun u => by rw [(answerOk_statusOnly c u).1]
    refine ⟨_, (exec_clearNotices h hk hb).trans (congrArg _ ((clearNotices_cases c s).2 hm)), ?_, fun n hn => ?_⟩
    · rw [hcx]
      exact answerOk_statusOnly c _
    · rw [hcx]
      simp [hn]
  case clearRefused =>
    exact ⟨_, (exec_clearNotices h hk hb).trans (congrArg _ ((clearNotices_cases c s).1 hm)),
      refuseCommand_statusOnly c _ s⟩
  case enable =>
    have hcx : ∀ u : State, (answerOk c u).cx = u.cx := fun u => by rw [(answerOk_statusOnly c u).1]
    refine ⟨_, (exec_setNoticeEnable h hk hb).trans (congrArg _ ((setNoticeEnable_cases c s).2 hm hm')), ?_,
      fun n hn => ?_⟩
    · rw [hcx]
      exact answerOk_statusOnly c _
    · rw [hcx]
      simp [hn, Bool.or_comm]
  case enableRefused =>
    exact ⟨_, (exec_setNoticeEnable h hk hb).trans (congrArg _ ((setNoticeEnable_cases c s).1 hm)),
      refuseCommand_statusOnly c _ s⟩
  case trigger =>
    intro n e
    have he : triggerOfBody c.body = e := by
      unfold triggerOfBody
      rw [flagAt_eq, flagAt_eq]
    obtain ⟨hset, hrefuse⟩ := setTrigger_cases c s
    rw [he] at hset hrefuse
    exact ⟨fun ht => ⟨_, (exec_setTrigger h hk hb).trans (congrArg _ (hset ht)), answerOk_statusOnly c _⟩,
      fun ht => ⟨_, (exec_setTrigger h hk hb).trans (congrArg _ (hrefuse ht)), refuseCommand_statusOnly c _ s⟩⟩
  case mark => exact ⟨_, exec_markIncident h hk hb, answerOk_statusOnly c _⟩
  case burst =>
    intro v
    obtain ⟨hset, hrefuse⟩ := setReadBurst_cases c s
    exact ⟨fun hv => ⟨_, (exec_setReadBurst h hk hb).trans (congrArg _ (hset hv)), answerOk_statusOnly c _⟩,
      fun hv => ⟨_, (exec_setReadBurst h hk hb).trans (congrArg _ (hrefuse hv)), refuseCommand_statusOnly c _ _⟩⟩

end Sys2Proof.Machine
end


section
/-! PROOFS. RELEASE INCIDENT (R161, R172), and the examination it brings in the store-full state (R148). -/

namespace Sys2Proof.Machine

/-! ## The examination in the store-full state -/

theorem abandonRelocationOf_storeFull (block : Nat) (sc : StoreController) :
    (abandonRelocationOf block sc).storeFull = sc.storeFull := by
  obtain ⟨ha, -⟩ := abandonRelocationOf_keeps block sc
  rw [ha]

/-- With the store full an examination changes SC alone: the state has begun before (R148). -/
theorem examine_full {s : State} (h : s.sc.storeFull = true) : examine s = { s with sc := (examine s).sc } := by
  unfold examine
  dsimp only
  split
  · rfl
  · rw [beginStoreFull_again (by exact (abandonRelocationOf_storeFull _ s.sc).trans h)]
    rfl

theorem reexamine_cases (s : State) :
    (s.sc.storeFull = false ∨ s.sc.eraseAhead ≠ .due false → reexamine s = s) ∧
    (s.sc.storeFull = true → s.sc.eraseAhead = .due false → reexamine s = examine s) := by
  unfold reexamine
  refine ⟨fun h => if_neg ?_, fun h h' => if_pos (by simp [h, h'])⟩
  obtain h | h := h
  · simp [h]
  · simp [h]

/-- The examination changes SC alone, so that the answer stands as it was. -/
theorem StatusOnly.withSc {st : Status} {c : Command} {s t : State} (h : StatusOnly st c s t)
    (sc : StoreController) : StatusOnly st c { s with sc := sc } { t with sc := sc } := by
  obtain ⟨hframe, hplaced⟩ := h
  refine ⟨?_, hplaced.congr (fun e => ?_) rfl rfl rfl⟩
  · rw [hframe]
  · cases e <;> rfl

/-- An accepted release in the store-full state: the answer, and the examination of the writer's block (R148). -/
theorem reexamine_answered {c : Command} {s u : State} (hu : StatusOnly .ok c s u) (hf : s.sc.storeFull = true)
    (he : s.sc.eraseAhead = .due false) :
    StatusOnly .ok c { s with sc := (reexamine u).sc } (reexamine u) ∧
    ExaminedAt (eraseTarget s.sc) s.sc.directory true s (reexamine u) := by
  have husc : u.sc = s.sc := by rw [hu.1]
  rw [(reexamine_cases u).2 (husc ▸ hf) (husc ▸ he)]
  obtain ⟨hexam, -⟩ := examine_spec (s := u) (.inr (husc ▸ hf))
  rw [husc, hf] at hexam
  refine ⟨?_, hexam.of_marks (by rw [husc])⟩
  have h := hu.withSc (examine u).sc
  rw [← examine_full (husc ▸ hf)] at h
  exact h

/-! ## The command -/

theorem exec_releaseIncident {c : Command} {s : State} (h : Awaits c s) (hk : c.kind = 0x11)
    (hb : c.body.length = 2) :
    (s.cx.mode = .startup → exec .releaseIncident s = .next (refuseCommand c .wrongMode s)) ∧
    (s.cx.mode ≠ .startup → exec .releaseIncident s = .next (releaseIncident c s)) := by
  have harm : exec .releaseIncident s = done s (takeCommand 0x11 2 (storeCommand releaseIncident) s) := rfl
  rw [harm, done_take h hk hb]
  exact ⟨fun hm => congrArg _ (if_pos hm), fun hm => congrArg _ (if_neg hm)⟩

/-- RELEASE INCIDENT by the state of the record (R172). -/
theorem releaseIncident_cases (c : Command) (s : State) :
    (entryOf s.sc (fieldAt c.body 0 2) = none → releaseIncident c s = refuseCommand c .noRecord s) ∧
    (∀ e, entryOf s.sc (fieldAt c.body 0 2) = some e →
      (e.state = .filling → releaseIncident c s = refuseCommand c .recordFilling s) ∧
      (e.state = .held → releaseIncident c s = reexamine (answerOk c (withSc (releaseRecord e) s))) ∧
      (e.state = .released → releaseIncident c s = reexamine (answerOk c s))) := by
  unfold releaseIncident
  refine ⟨fun h => by rw [h], fun e h => ?_⟩
  rw [h]
  refine ⟨fun hs => ?_, fun hs => ?_, fun hs => ?_⟩ <;> simp only [hs]

/-- A HELD record released (R149, R172). -/
theorem releaseRecord_eq (e : DirEntry) (sc : StoreController) :
    releaseRecord e sc = { sc with
      directory := sc.directory.map (fun d => if d.number = e.number then { d with state := .released } else d)
      pendingMarks := if e.trailer.isSome = true ∧ e.number ∉ sc.pendingMarks then
        sc.pendingMarks ++ [e.number] else sc.pendingMarks } := by
  unfold releaseRecord
  simp

/-- Settles O59: the release by the record's state, and the examination in the store-full state. -/
theorem releaseMakesTheRecordReleased : Obligations.ReleaseMakesTheRecordReleased := by
  intro c s h hk hb released marks
  obtain ⟨hstartup, hrun⟩ := exec_releaseIncident h hk hb
  obtain ⟨hnone, hsome⟩ := releaseIncident_cases c s
  refine ⟨fun hm => ⟨_, hstartup hm, refuseCommand_statusOnly c _ s⟩,
    fun hm he => ⟨_, (hrun hm).trans (congrArg _ (hnone he)), refuseCommand_statusOnly c _ s⟩, fun e hm he => ?_⟩
  obtain ⟨hfilling, hheld, hreleased⟩ := hsome e he
  have hanswer := answerOk_statusOnly c s
  have hanswerHeld := answerOk_statusOnly c (withSc (releaseRecord e) s)
  refine ⟨fun hst => ⟨_, (hrun hm).trans (congrArg _ (hfilling hst)), refuseCommand_statusOnly c _ s⟩,
    fun hst hq => ⟨_, (hrun hm).trans (congrArg _ (hreleased hst)), ?_⟩,
    fun hst hq => ⟨_, (hrun hm).trans (congrArg _ (hheld hst)), ?_⟩, fun hst hf hd => ?_⟩
  · rw [(reexamine_cases (answerOk c s)).1 (by rw [hanswer.1]; exact hq)]
    exact hanswer
  · rw [(reexamine_cases (answerOk c (withSc (releaseRecord e) s))).1 (by rw [hanswerHeld.1]; exact hq)]
    unfold withSc at hanswerHeld ⊢
    rw [releaseRecord_eq] at hanswerHeld ⊢
    exact hanswerHeld
  · intro dir block
    obtain hst | hst : e.state = .held ∨ e.state = .released := by
      cases hc : e.state with
      | filling => exact absurd hc hst
      | held => exact .inl rfl
      | released => exact .inr rfl
    · obtain ⟨hans, hexam⟩ := reexamine_answered hanswerHeld (by exact hf) (by exact hd)
      refine ⟨_, (hrun hm).trans (congrArg _ (hheld hst)), hans, ?_⟩
      unfold dir
      rw [if_pos hst, if_pos hst]
      have hrel := releaseRecord_eq e s.sc
      unfold withSc at hexam ⊢
      rw [hrel] at hexam ⊢
      exact hexam
    · obtain ⟨hans, hexam⟩ := reexamine_answered hanswer hf hd
      refine ⟨_, (hrun hm).trans (congrArg _ (hreleased hst)), hans, ?_⟩
      unfold dir
      rw [if_neg (by rw [hst]; nofun), if_neg (by rw [hst]; nofun)]
      exact hexam

end Sys2Proof.Machine
end


section
/-! PROOFS. READ INCIDENT and VERIFY INCIDENT (R161, R164, R165, R170): the read-out formed, or refused. -/

namespace Sys2Proof.Machine

/-! ## The record of a read-out -/

/-- The entry a number finds is the record of the read-out formed for it (R165). -/
theorem readOutEntry_of_entryOf {sc : StoreController} {e : DirEntry} {n : Nat} {r : ReadOut}
    (h : entryOf sc n = some e) (hn : r.number = e.number) (hq : r.sequence = e.sequence) :
    readOutEntry sc r = some e := by
  unfold entryOf at h
  obtain ⟨he, pre, post, hl, hpre⟩ := find?_first h
  have hnum : e.number = n := by simpa using he
  refine List.find?_eq_some_iff_append.mpr ⟨by simp [hn, hq], pre, post, hl, fun x hx => ?_⟩
  have hx' : x.number ≠ n := by simpa using hpre x hx
  simp [hn, hnum, hx']

theorem stillFilling_of_entry {sc : StoreController} {e : DirEntry} {r : ReadOut} (h : readOutEntry sc r = some e) :
    stillFilling sc r = (e.state == .filling) := by
  unfold stillFilling
  rw [h]

/-- A read-out that starts beyond its record's sections ends at once with ADDRESS OVERFLOW (R165, R167, R171). -/
theorem turnReader_beyond {r : ReadOut} {e : DirEntry} {s : State} (h : readOutEntry s.sc r = some e)
    (hl : e.sectionCount ≤ r.nextIndex) (hv : r.verified = 0) (hnone : s.sc.readOut = none) :
    AnsweredBy (finalReply 0x0B r { r with limitSeen := e.sectionCount } true (e.state == .filling)) s
      (turnReader r s) := by
  rw [(turnReader_limit h hl).2 fun hw => by omega]
  have hans := stopReadOut_ends .addressOverflow (r := r) (u := { r with limitSeen := e.sectionCount }) s rfl rfl
  rw [stillFilling_of_entry (r := { r with limitSeen := e.sectionCount }) (by exact h)] at hans
  have hs : withReadOut none s = s := by
    unfold withReadOut withSc
    rw [← hnone]
  rw [hs] at hans
  exact hans

/-! ## The two commands -/

theorem exec_readIncident {c : Command} {s : State} (h : Awaits c s) (hk : c.kind = 0x0F)
    (hb : c.body.length = 5) :
    (s.cx.mode = .startup → exec .readIncident s = .next (refuseCommand c .wrongMode s)) ∧
    (s.cx.mode ≠ .startup → exec .readIncident s = .next (readIncident c s)) := by
  have harm : exec .readIncident s = done s (takeCommand 0x0F 5 (storeCommand readIncident) s) := rfl
  rw [harm, done_take h hk hb]
  exact ⟨fun hm => congrArg _ (if_pos hm), fun hm => congrArg _ (if_neg hm)⟩

theorem exec_verifyIncident {c : Command} {s : State} (h : Awaits c s) (hk : c.kind = 0x10)
    (hb : c.body.length = 6) :
    (s.cx.mode = .startup → exec .verifyIncident s = .next (refuseCommand c .wrongMode s)) ∧
    (s.cx.mode ≠ .startup → exec .verifyIncident s = .next (verifyIncident c s)) := by
  have harm : exec .verifyIncident s = done s (takeCommand 0x10 6 (storeCommand verifyIncident) s) := rfl
  rw [harm, done_take h hk hb]
  exact ⟨fun hm => congrArg _ (if_pos hm), fun hm => congrArg _ (if_neg hm)⟩

theorem readIncident_cases (c : Command) (s : State) :
    (16 < fieldAt c.body 4 1 → readIncident c s = refuseCommand c .badValue s) ∧
    (fieldAt c.body 4 1 ≤ 16 →
      (entryOf s.sc (fieldAt c.body 0 2) = none → readIncident c s = refuseCommand c .noRecord s) ∧
      (∀ e, entryOf s.sc (fieldAt c.body 0 2) = some e →
        readIncident c s = turnReader (newRead c e s.sc.burst) s)) := by
  unfold readIncident
  refine ⟨fun h => if_pos h, fun h => ⟨fun he => ?_, fun e he => ?_⟩⟩ <;> rw [if_neg (Nat.not_lt.mpr h), he]

theorem verifyIncident_cases (c : Command) (s : State) :
    (2048 < fieldAt c.body 4 2 → verifyIncident c s = refuseCommand c .badValue s) ∧
    (fieldAt c.body 4 2 ≤ 2048 →
      (entryOf s.sc (fieldAt c.body 0 2) = none → verifyIncident c s = refuseCommand c .noRecord s) ∧
      (∀ e, entryOf s.sc (fieldAt c.body 0 2) = some e →
        verifyIncident c s = turnReader (newVerify c e s.sc.burst) s)) := by
  unfold verifyIncident
  refine ⟨fun h => if_pos h, fun h => ⟨fun he => ?_, fun e he => ?_⟩⟩ <;> rw [if_neg (Nat.not_lt.mpr h), he]

/-- The body of a VERIFY reply whose start is beyond the record's sections: the count not verified is the count asked
for, 0 for the whole record (R171). -/
theorem newVerify_beyond (c : Command) {e : DirEntry} (burst : Nat) (st : Byte) (filling : Bool)
    (hl : e.sectionCount ≤ fieldAt c.body 2 2) :
    verifyReplyBody st { newVerify c e burst with limitSeen := e.sectionCount } true filling =
      [st] ++ le16 e.number ++ le16 0 ++ [0x01] ++ le16 (fieldAt c.body 2 2) ++ le16 (fieldAt c.body 4 2) ++ le16 0 ++
      flagByte filling := by
  have hleft : (if (fieldAt c.body 4 2 == 0) = true then e.sectionCount - fieldAt c.body 2 2
      else fieldAt c.body 4 2) = fieldAt c.body 4 2 := by
    split
    · next h => rw [beq_iff_eq] at h; omega
    · rfl
  unfold verifyReplyBody newVerify
  dsimp only
  rw [if_pos rfl, if_pos rfl, hleft]
  rfl

/-- Settles O58: the read-out of each of the two commands formed, refused, or ended at its start. -/
theorem readOutIsFormed : Obligations.ReadOutIsFormed := by
  intro c s h
  have hnone : s.sc.readOut = none := cxMayTake_readOut h.2.2
  refine ⟨fun hk hb => ?read, fun hk hb => ?verify⟩
  case read =>
    obtain ⟨hstartup, hrun⟩ := exec_readIncident h hk hb
    obtain ⟨hlarge, hfits⟩ := readIncident_cases c s
    refine ⟨fun hm => ⟨_, hstartup hm, refuseCommand_statusOnly c _ s⟩,
      fun hm hn => ⟨_, (hrun hm).trans (congrArg _ (hlarge hn)), refuseCommand_statusOnly c _ s⟩,
      fun hm hn he => ⟨_, (hrun hm).trans (congrArg _ ((hfits hn).1 he)), refuseCommand_statusOnly c _ s⟩,
      fun e hm hn _ he hl => ?_, fun e hm hn _ he hl => ?_⟩
    all_goals
      have hentry := readOutEntry_of_entryOf (r := newRead c e s.sc.burst) he rfl rfl
      have hexec := (hrun hm).trans (congrArg _ ((hfits hn).2 e he))
    · rw [turnReader_asks hentry hl] at hexec
      exact ⟨_, _, hexec, rfl, rfl, rfl, rfl, rfl, rfl, rfl, rfl, rfl, rfl, rfl, rfl⟩
    · refine ⟨_, hexec, ?_⟩
      have hans := turnReader_beyond hentry hl rfl hnone
      rw [finalReply_read rfl] at hans
      unfold AnsweredWith
      rw [hk]
      exact hans
  case verify =>
    obtain ⟨hstartup, hrun⟩ := exec_verifyIncident h hk hb
    obtain ⟨hlarge, hfits⟩ := verifyIncident_cases c s
    refine ⟨fun hm => ⟨_, hstartup hm, refuseCommand_statusOnly c _ s⟩,
      fun hm hn he => ⟨_, (hrun hm).trans (congrArg _ ((hfits hn).1 he)), refuseCommand_statusOnly c _ s⟩,
      fun hm hn => ⟨_, (hrun hm).trans (congrArg _ (hlarge hn)), refuseCommand_statusOnly c _ s⟩,
      fun e hm hn _ he hl => ?_, fun e hm hn _ he hl => ?_⟩
    all_goals
      have hentry := readOutEntry_of_entryOf (r := newVerify c e s.sc.burst) he rfl rfl
      have hexec := (hrun hm).trans (congrArg _ ((hfits hn).2 e he))
    · rw [turnReader_asks hentry hl] at hexec
      exact ⟨_, _, hexec, rfl, rfl, rfl, rfl, rfl, rfl, rfl, rfl, rfl, rfl, rfl, rfl, rfl⟩
    · refine ⟨_, hexec, ?_⟩
      have hans := turnReader_beyond hentry hl rfl hnone
      rw [finalReply_verify rfl] at hans
      rw [newVerify_beyond c s.sc.burst _ _ hl] at hans
      unfold AnsweredWith
      rw [hk]
      exact hans

end Sys2Proof.Machine
end


section
/-! PROOFS. RESTART (R135, R155, R160, R175, R184, R203, R204): what its acceptance leaves of every block. -/

namespace Sys2Proof.Machine

/-! ## What the writer has in hand -/

/-- The section of the open record in the writer's hands: under recovery, or in progress at the port. -/
theorem handedJob_iff (sc : StoreController) (job : SectionJob) :
    handedJob sc = some job ↔ (∃ q, sc.recovery = some q ∧ q.job = some job) ∨
      (sc.recovery = none ∧ ∃ l p bs d, sc.port = some ⟨.writer, .program job l p bs, d⟩) := by
  unfold handedJob
  cases hr : sc.recovery with
  | some q => simp
  | none =>
    cases hp : sc.port with
    | none => simp
    | some p =>
      obtain ⟨agent, op, d⟩ := p
      cases agent <;> cases op <;> simp

theorem handedFrames_of {sc : StoreController} :
    (∀ indices, handedJob sc = some (.frames indices) → handedFrames sc = indices) ∧
    ((∀ indices, handedJob sc ≠ some (.frames indices)) → handedFrames sc = []) := by
  unfold handedFrames
  refine ⟨fun indices h => by rw [h], fun h => ?_⟩
  split
  · next indices hi => exact absurd hi (h indices)
  · rfl

/-! ## The acceptance -/

/-- The blocks as RESTART leaves them, before the open record is closed and the line chooses. -/
def restartUnits (tag : Byte) (s : State) : State :=
  { s with
    li := restartLink tag s.pm.saving s.li
    cx := { s.cx with mode := .startup, loadEnded := false, rebuildEnded := false }
    co := { s.co with trucks := s.co.trucks.map withdrawOutput }
    sc := restartStore s.sc }

theorem acceptRestart_eq (tag : Byte) (s : State) :
    acceptRestart tag s = startTx (restartRecord (restartUnits tag s)) := rfl

/-- Nothing but CU, SC's directory and LI's lists and transmission differs from the blocks' own part. -/
theorem acceptRestart_frame (tag : Byte) (s : State) :
    acceptRestart tag s = { restartUnits tag s with
      cu := (acceptRestart tag s).cu
      sc := { restartStore s.sc with directory := (acceptRestart tag s).sc.directory }
      li := { restartLink tag s.pm.saving s.li with
        reports := (acceptRestart tag s).li.reports, replies := (acceptRestart tag s).li.replies
        tx := (acceptRestart tag s).li.tx } } := by
  rw [acceptRestart_eq]
  generalize hw : restartRecord (restartUnits tag s) = w
  have hframe := restartRecord_frame (restartUnits tag s)
  rw [hw] at hframe
  rw [startTx_cu, startTx_sc, startTx_frame, hframe]
  rfl

theorem acceptRestart_placed (tag : Byte) (s : State) :
    Placed s.li.reports [⟨0x9F, tag, [0x00], .restartDone⟩] s (acceptRestart tag s) := by
  have h := startTx_placed (restartRecord (restartUnits tag s))
  have hli : (restartRecord (restartUnits tag s)).li = restartLink tag s.pm.saving s.li := by
    rw [restartRecord_frame]
    rfl
  unfold Placed at h ⊢
  rw [hli] at h
  exact h

/-- CU and the directory as the closing of the open record leaves them (R135, R204). -/
theorem acceptRestart_record (tag : Byte) (s : State) :
    (acceptRestart tag s).cu = (restartRecord (restartUnits tag s)).cu ∧
    (acceptRestart tag s).sc.directory = (restartRecord (restartUnits tag s)).sc.directory := by
  rw [acceptRestart_eq, startTx_cu, startTx_sc]
  exact ⟨rfl, rfl⟩

theorem releaseFrame_eq (kept : List Nat) (f : RingFrame) : releaseFrame kept f = (match f.standing with
    | .undrained i => if i ∈ kept then f else { f with standing := .free }
    | _ => f) := by
  unfold releaseFrame
  simp only [List.contains_iff_mem] <;> rfl

/-- The record closed TRUNCATED_RESTART at the frames `kept` in the writer's hands, with a TRAILER to come or without
one (R135, R204). -/
structure ClosedWith (kept : List Nat) (r : OpenRecord) (s t : State) : Prop where
  normal : s.sc.seat = .normal → t.sc.directory = s.sc.directory ∧
    t.cu = { s.cu with ring := t.cu.ring, opened := some { r with
      phase := .closing, endReason := some .truncatedRestart
      captureCount := programmedFrames s.sc + kept.length + r.lostCount } } ∧
    t.cu.ring = s.cu.ring.map (releaseFrame kept)
  waiting : s.sc.seat ≠ .normal →
    t.cu = { s.cu with opened := none, ring := s.cu.ring.map freeFrame } ∧
    t.sc.directory = s.sc.directory.map (fun e => if e.state = .filling then
        { e with state := .held, protect := r.protect, endReason := some .truncatedRestart, trailer := none }
      else e)

theorem restartStore_seat (sc : StoreController) :
    (restartStore sc).seat = sc.seat ∧ (restartStore sc).directory = sc.directory := by
  rw [restartStore_frame]
  exact ⟨rfl, rfl⟩

/-- RESTART leaves a record whose TRAILER is in hand, and closes any other (R135, R204). -/
theorem acceptRestart_closes (tag : Byte) (s : State) :
    (s.cu.opened = none ∨ handedJob s.sc = some .trailer →
      (acceptRestart tag s).cu = s.cu ∧ (acceptRestart tag s).sc.directory = s.sc.directory) ∧
    (∀ r, s.cu.opened = some r → handedJob s.sc ≠ some .trailer →
      ClosedWith (handedFrames s.sc) r s (acceptRestart tag s)) := by
  obtain ⟨hcu, hdir⟩ := acceptRestart_record tag s
  obtain ⟨hseat, hstore⟩ := restartStore_seat s.sc
  have hhanded : handedJob (restartUnits tag s).sc = handedJob s.sc := restartStore_handed s.sc
  have hframes : handedFrames (restartUnits tag s).sc = handedFrames s.sc := by
    unfold handedFrames
    rw [hhanded]
  have hcount : programmedFrames (restartUnits tag s).sc = programmedFrames s.sc := by
    unfold programmedFrames fillingEntry
    rw [show (restartUnits tag s).sc.directory = s.sc.directory from hstore]
  refine ⟨fun h => ?_, fun r hr hj => ⟨fun hs => ?_, fun hs => ?_⟩⟩
  · rw [hcu, hdir, restartRecord_unchanged (by rw [hhanded]; exact h)]
    exact ⟨rfl, hstore⟩
  · have hclose := restartRecord_normal (s := restartUnits tag s) hr (by rw [hhanded]; exact hj)
      (hseat.trans hs)
    rw [hcu, hdir, hclose, hframes, hcount]
    exact ⟨hstore, rfl, rfl⟩
  · have hclose := restartRecord_waiting (s := restartUnits tag s) hr (by rw [hhanded]; exact hj)
      (by rw [show (restartUnits tag s).sc.seat = s.sc.seat from hseat]; exact hs)
    rw [hcu, hdir, hclose]
    refine ⟨rfl, ?_⟩
    rw [show (restartUnits tag s).sc.directory = s.sc.directory from hstore]

theorem exec_restart {bytes body : List Byte} {tag : Byte} {s : State} (h : Arrives bytes 0x1F tag body s) :
    ∃ r, exec (.restart bytes) s = .next (takeRestart tag body { s with li := { s.li with receiver := r } }) := by
  have harm : exec (.restart bytes) s =
      done s (onFrame bytes (fun k => k == kindRestart) (fun _ => takeRestart) s) := rfl
  obtain ⟨r, hr⟩ : ∃ r, onFrame bytes (fun k => k == kindRestart) (fun _ => takeRestart) s =
      takeRestart tag body { s with li := { s.li with receiver := r } } := onFrame_arrives _ h (by decide)
  exact ⟨r, by rw [harm, done_powered _ h.1, hr]⟩

/-- Settles O49: what the acceptance of RESTART leaves of each block, and its refusal. -/
theorem restartClosesEveryBlock : Obligations.RestartClosesEveryBlock := by
  refine ⟨fun bytes tag s h => ?accepted, fun bytes body tag s h hb => ?refused⟩
  case accepted =>
    obtain ⟨rec, hexec⟩ := exec_restart h
    have hframe := acceptRestart_frame tag { s with li := { s.li with receiver := rec } }
    have hplaced := acceptRestart_placed tag { s with li := { s.li with receiver := rec } }
    obtain ⟨hkeeps, hcloses⟩ := acceptRestart_closes tag { s with li := { s.li with receiver := rec } }
    have htake : takeRestart tag [] { s with li := { s.li with receiver := rec } } =
      acceptRestart tag { s with li := { s.li with receiver := rec } } := if_pos rfl
    rw [htake] at hexec
    refine ⟨_, hexec, ?_⟩
    generalize acceptRestart tag { s with li := { s.li with receiver := rec } } = t at *
    have hsc : t.sc = { restartStore s.sc with directory := t.sc.directory } := by rw [hframe]
    have hport : t.sc.port = (restartStore s.sc).port := by rw [hsc]
    have hmap : t.sc.map = (restartStore s.sc).map := by rw [hsc]
    have hstore : t.sc = { s.sc with
        readOut := none, burst := 1, relocation := none
        map := t.sc.map, port := t.sc.port, directory := t.sc.directory } := by
      rw [hport, hmap]
      exact hsc.trans (by rw [restartStore_frame s.sc])
    have hcx : t.cx.mode = .startup ∧ t.cx.loadEnded = false ∧ t.cx.rebuildEnded = false := by
      rw [hframe]
      exact ⟨rfl, rfl, rfl⟩
    have hli : t.li.closing = true ∧ t.li.restartSent = false ∧
        t.li.queue = (if s.pm.saving then s.li.queue.take 1 else []) ∧ t.li.overrun = s.li.overrun := by
      rw [hframe]
      exact ⟨rfl, rfl, rfl, rfl⟩
    have hco : ∀ g, (t.co.trucks.get g).mode = .pneumatic ∧ (t.co.trucks.get g).pCmd = none ∧
        (t.co.trucks.get g).dump = false := fun g => by
      have h' : t.co = { s.co with trucks := s.co.trucks.map withdrawOutput } := by rw [hframe]; rfl
      rw [h', PerTruck.get_map]
      exact ⟨rfl, rfl, rfl⟩
    have hquiet : t.medium = s.medium ∧ t.pm = s.pm ∧ t.bpm = s.bpm ∧ t.bc = s.bc ∧ t.demand = s.demand ∧
        t.am = s.am ∧ t.sp = s.sp ∧ t.gt = s.gt ∧ t.cx.notices = s.cx.notices ∧
        t.timersRunning = s.timersRunning := by
      rw [hframe]
      exact ⟨rfl, rfl, rfl, rfl, rfl, rfl, rfl, rfl, rfl, rfl⟩
    obtain ⟨hmode, hload, hrebuild⟩ := hcx
    obtain ⟨hclosing, hsent, hqueue, hoverrun⟩ := hli
    refine ⟨hmode, hload, hrebuild, hclosing, hsent, hqueue, hco, hstore, fun q hq => ?_, fun hq => ?_, fun hp => ?_,
      fun p hp => ?_, hplaced, hoverrun, fun hr => hkeeps (.inl hr), fun r hr => ?_, hquiet⟩
    · rw [hmap]
      exact restartStore_map.1 q hq
    · rw [hmap]
      exact restartStore_map.2 hq
    · rw [hport]
      exact restartStore_port.1 hp
    · rw [hport]
      exact restartStore_port.2 p hp
    · intro closedWith inHand
      have hhand : ∀ job, inHand job ↔ handedJob s.sc = some job := fun job => (handedJob_iff s.sc job).symm
      have hclose : ∀ kept, handedJob s.sc ≠ some .trailer → handedFrames s.sc = kept → closedWith kept := by
        intro kept hj hk
        obtain ⟨hnormal, hwaiting⟩ := hcloses r hr hj
        rw [show handedFrames _ = kept from hk] at hnormal
        refine ⟨fun hs => ?_, fun hs => hwaiting hs⟩
        obtain ⟨hdir, hcu, hring⟩ := hnormal hs
        refine ⟨hdir, hcu, hring.trans (List.map_congr_left fun f _ => ?_)⟩
        rw [releaseFrame_eq] <;> rfl
      refine ⟨fun hj => hkeeps (.inr ((hhand _).1 hj)), fun indices hj => ?_, fun hj => ?_⟩
      · have hj' := (hhand _).1 hj
        exact hclose _ (by rw [hj']; nofun) (handedFrames_of.1 _ hj')
      · have hne : ∀ job, job ≠ .header → job ≠ .rebuildTrailer → handedJob s.sc ≠ some job :=
          fun job h1 h2 hj' => (hj job ((hhand _).2 hj')).elim h1 h2
        exact hclose _ (hne _ nofun nofun) (handedFrames_of.2 fun _ => hne _ nofun nofun)
  case refused =>
    obtain ⟨rec, hexec⟩ := exec_restart h
    have htake : takeRestart tag body { s with li := { s.li with receiver := rec } } =
        placeArrivalReply (statusReply kindRestart tag .badLength) { s with li := { s.li with receiver := rec } } :=
      if_neg fun hl => hb (List.length_eq_zero_iff.mp hl)
    rw [htake] at hexec
    have hans := placeArrivalReply_answered (statusReply kindRestart tag .badLength)
      { s with li := { s.li with receiver := rec } }
    refine ⟨_, hexec, ?_⟩
    have hrec : (placeArrivalReply (statusReply kindRestart tag .badLength)
        { s with li := { s.li with receiver := rec } }).li.receiver = rec := by rw [hans.1]
    rw [hrec]
    exact hans

end Sys2Proof.Machine
end


section
/-! PROOFS. Loss of power (R135, R138, R139, R149, R154, R201): what it leaves of the store and the image. -/

namespace Sys2Proof.Machine

theorem exec_powerLoss {s : State} (hp : s.powered = true) : exec .powerLoss s = .next (powerLoss s) := by
  have harm : exec .powerLoss s = done s (powerLoss s) := rfl
  rw [harm, done_powered _ hp]

/-- Nothing but the power, the image, the medium and the free values differs. -/
theorem powerLoss_frame (s : State) :
    powerLoss s = { s with
      powered := false, pm := (powerLoss s).pm, medium := (powerLoss s).medium
      freeCount := (powerLoss s).freeCount } := by
  unfold powerLoss
  dsimp only
  split <;> rfl

/-- An image being written is left bad, and otherwise as it was (R201). -/
theorem powerLoss_pm (s : State) :
    (powerLoss s).pm = { s.pm with image := ⟨s.pm.image.values, s.pm.image.checkwordPasses && !s.pm.saving⟩ } := by
  have hpm : (powerLoss s).pm = { s.pm with
      image := if s.pm.saving then { s.pm.image with checkwordPasses := false } else s.pm.image } := by
    unfold powerLoss
    dsimp only
    split <;> rfl
  rw [hpm]
  cases s.pm.saving with
  | true => simp
  | false => simp

theorem powerLoss_medium (s : State) :
    (s.sc.port = none → (powerLoss s).medium = s.medium) ∧
    (∀ p, s.sc.port = some p →
      (powerLoss s).medium = cutShort s.sc.map s.sc.mapRetry s.freeCount p.op s.medium) := by
  unfold powerLoss
  refine ⟨fun h => ?_, fun p h => ?_⟩ <;> rw [h]

/-! ## The map area (R139) -/

/-- Which copy a map write goes to (R139; assumption log 34). -/
theorem mapSide_cases (retry : Option MapSide) (m : Medium) :
    (∀ side, retry = some side → mapSide retry m = side) ∧
    (retry = none → let ahead := (m.copy2.generation - m.copy1.generation).toNat
      (m.copy1.valid = true → m.copy2.valid = false → mapSide retry m = .second) ∧
      (m.copy1.valid = false → mapSide retry m = .first) ∧
      (m.copy1.valid = true → m.copy2.valid = true →
        (1 ≤ ahead ∧ ahead ≤ 2147483647 → mapSide retry m = .first) ∧
        (2147483649 ≤ ahead → mapSide retry m = .second))) := by
  refine ⟨fun side h => by rw [h]; rfl, ?_⟩
  rintro rfl
  unfold mapSide newestIsSecond newerGeneration
  refine ⟨fun h1 h2 => by simp [h1, h2], fun h1 => by simp [h1], fun h1 h2 => ⟨fun ha => ?_, fun ha => ?_⟩⟩
  · simp only [h1, h2, decide_eq_true ha]
    rfl
  · have hn : ¬(1 ≤ (m.copy2.generation - m.copy1.generation).toNat ∧
        (m.copy2.generation - m.copy1.generation).toNat ≤ 2147483647) := by omega
    simp only [h1, h2, decide_eq_false hn]
    rfl

theorem writeMapCopy_side (map : BlockMap) (valid : Bool) (retry : Option MapSide) (m : Medium) :
    (mapSide retry m = .first →
      writeMapCopy map valid retry m = { m with copy1 := ⟨generationAbove m.copy2, mapForCopy map, valid⟩ }) ∧
    (mapSide retry m = .second →
      writeMapCopy map valid retry m = { m with copy2 := ⟨generationAbove m.copy1, mapForCopy map, valid⟩ }) := by
  unfold writeMapCopy
  refine ⟨fun h => ?_, fun h => ?_⟩ <;> rw [h]

/-- Settles O5: the image, and the medium by the operation cut short. -/
theorem powerLossKeepsTheStore : Obligations.PowerLossKeepsTheStore := by
  intro s hp
  obtain ⟨hnone, hsome⟩ := powerLoss_medium s
  have hoff : (powerLoss s).powered = false := by rw [powerLoss_frame]
  refine ⟨powerLoss s, exec_powerLoss hp, hoff, powerLoss_frame s, ?_, ?_, ?_, ?_, hnone,
    fun agent logical phys d h => hsome _ h, fun agent job logical phys bytes d h => ?program,
    fun agent block d h => ?erase, fun agent src dst d hw h => ?copy, fun agent number sections d hw h => ?mark,
    fun agent change d h => ?mapWrite, ?powerOn⟩
  case program =>
    rw [hsome _ h]
    exact spoilSection_spec s.medium phys
  case erase =>
    rw [hsome _ h]
    exact spoilBlock_spec s.medium block
  case copy =>
    intro erased
    have herased : erased ↔ isErased s.medium src = true := (isErased_iff hw src).symm
    have hcut : (powerLoss s).medium = if isErased s.medium src then s.medium else spoilSection s.medium dst :=
      hsome _ h
    by_cases he : isErased s.medium src = true
    · rw [if_pos he] at hcut
      rw [hcut]
      exact ⟨rfl, fun _ => rfl, fun hne => absurd (herased.2 he) hne⟩
    · rw [if_neg he] at hcut
      rw [hcut]
      obtain ⟨hframe, hmem⟩ := spoilSection_spec s.medium dst
      exact ⟨hframe, fun h' => absurd (herased.1 h') he, fun _ => hmem⟩
  case mark =>
    rw [hsome _ h]
    exact markStore_spec false sections hw
  case mapWrite =>
    intro map written one two above first second ahead
    have hcut : (powerLoss s).medium =
        writeMapCopy map (Config.freeBit s.freeCount) s.sc.mapRetry s.medium := hsome _ h
    obtain ⟨hone, htwo⟩ := writeMapCopy_side map (Config.freeBit s.freeCount) s.sc.mapRetry s.medium
    have hfirst : mapSide s.sc.mapRetry s.medium = .first → first := fun hs => ⟨_, hcut.trans (hone hs)⟩
    have hsecond : mapSide s.sc.mapRetry s.medium = .second → second := fun hs => ⟨_, hcut.trans (htwo hs)⟩
    obtain ⟨hretry, hfresh⟩ := mapSide_cases s.sc.mapRetry s.medium
    refine ⟨?_, fun hr => hfirst (hretry _ hr), fun hr => hsecond (hretry _ hr), fun hr => ?_⟩
    · cases hs : mapSide s.sc.mapRetry s.medium with
      | first => exact .inl (hfirst hs)
      | second => exact .inr (hsecond hs)
    · obtain ⟨hsole, hinvalid, hboth⟩ := hfresh hr
      exact ⟨fun h1 h2 => hsecond (hsole h1 h2), fun h1 => hfirst (hinvalid h1),
        fun h1 h2 => ⟨fun ha => hfirst ((hboth h1 h2).1 ha), fun ha => hsecond ((hboth h1 h2).2 ha)⟩⟩
  case powerOn =>
    rw [exec_powerOn hoff]
    have harm : exec .powerOn s = .next (powerUp (if s.powered then powerLoss s else s)) := rfl
    rw [harm, if_pos hp]
  all_goals rw [powerLoss_pm]

end Sys2Proof.Machine
end


section
/-! PROOFS. The writer's work that ends the rebuild (R159) where no record is open or owed a TRAILER: the erase of the
position's own block, and the erase-ahead. -/

namespace Sys2Proof.Machine

/-! ## A writer with no work but its erase -/

/-- The writer has no recovery, no section and no mark to do, and the rebuild is in progress. -/
structure WriterIdle (s : State) : Prop where
  recovery : s.sc.recovery = none
  trailer : s.sc.rebuildTrailer = none
  opened : s.cu.opened = none
  marks : s.sc.pendingMarks = []
  closing : s.li.closing = false
  rebuilding : s.cx.rebuildEnded = false

/-- `t` has the records, the position and the other work of `s`. -/
structure SameRecords (s t : State) : Prop where
  directory : t.sc.directory = s.sc.directory
  position : t.sc.position = s.sc.position
  nextNumber : t.sc.nextNumber = s.sc.nextNumber
  nextSequence : t.sc.nextSequence = s.sc.nextSequence
  recovery : t.sc.recovery = s.sc.recovery
  trailer : t.sc.rebuildTrailer = s.sc.rebuildTrailer
  marks : t.sc.pendingMarks = s.sc.pendingMarks
  phys : t.sc.map.phys = s.sc.map.phys
  cu : t.cu = s.cu
  li : t.li = s.li
  rebuildEnded : t.cx.rebuildEnded = s.cx.rebuildEnded

theorem SameRecords.refl (s : State) : SameRecords s s := by constructor <;> rfl

theorem SameRecords.trans {s t u : State} (h : SameRecords s t) (k : SameRecords t u) : SameRecords s u where
  directory := k.directory.trans h.directory
  position := k.position.trans h.position
  nextNumber := k.nextNumber.trans h.nextNumber
  nextSequence := k.nextSequence.trans h.nextSequence
  recovery := k.recovery.trans h.recovery
  trailer := k.trailer.trans h.trailer
  marks := k.marks.trans h.marks
  phys := k.phys.trans h.phys
  cu := k.cu.trans h.cu
  li := k.li.trans h.li
  rebuildEnded := k.rebuildEnded.trans h.rebuildEnded

/-- An SC whose erase, seat, relocation, port and store-full state alone may differ has the same records. -/
theorem SameRecords.of_sc {s t : State} {r : Option Recovery} {a : EraseAhead} {f e : Bool} {q : WriterSeat}
    {l : Option Relocation} {st : List BlockState} {p : Option PortOp} {w : List Nat}
    (hsc : t.sc = { s.sc with
      recovery := r, eraseAhead := a, storeFull := f, aheadErased := e, seat := q, relocation := l
      map := { s.sc.map with states := st }, port := p, relocQueue := w })
    (hr : r = s.sc.recovery) (hcu : t.cu = s.cu) (hli : t.li = s.li) (hcx : t.cx.rebuildEnded = s.cx.rebuildEnded) :
    SameRecords s t := by
  constructor
  case recovery => rw [hsc]; exact hr
  case cu => exact hcu
  case li => exact hli
  case rebuildEnded => exact hcx
  all_goals rw [hsc]

theorem SameRecords.idle {s t : State} (h : SameRecords s t) (k : WriterIdle s) : WriterIdle t where
  recovery := h.recovery.trans k.recovery
  trailer := h.trailer.trans k.trailer
  opened := (congrArg CaptureUnit.opened h.cu).trans k.opened
  marks := h.marks.trans k.marks
  closing := (congrArg LinkInterface.closing h.li).trans k.closing
  rebuilding := h.rebuildEnded.trans k.rebuilding

/-- An idle writer asks for the permitted erase alone (R146). -/
theorem WriterIdle.writerOp {s : State} (h : WriterIdle s) :
    (s.sc.eraseAhead ≠ .due true → Machine.writerOp s = none) ∧
    (s.sc.eraseAhead = .due true →
      Machine.writerOp s = some (.erase (physicalBlock s.sc.map (eraseTarget s.sc)))) := by
  have hdue : sectionDue s = none := by
    unfold sectionDue sectionReady
    rw [h.trailer, h.opened]
    split <;> rfl
  unfold Machine.writerOp eraseReady
  rw [h.recovery, hdue, h.marks, h.closing]
  refine ⟨fun he => ?_, fun he => ?_⟩
  · simp [he]
  · simp [he]

theorem WriterIdle.settle_done {s : State} (h : WriterIdle s) (he : s.sc.eraseAhead ≠ .due true)
    (results : List (MediumOutcome × Bool)) : ∀ fuel, settle fuel results s = (s, results)
  | 0 => rfl
  | fuel + 1 => by
    unfold settle
    rw [h.writerOp.1 he]

theorem WriterIdle.settle_erase {s : State} (h : WriterIdle s) (he : s.sc.eraseAhead = .due true)
    (results : List (MediumOutcome × Bool)) {fuel : Nat} (hf : 0 < fuel) :
    settle fuel results s = settle (fuel - 1) results.tail
      (runOp (.erase (physicalBlock s.sc.map (eraseTarget s.sc))) (results.headD (.clean, true)) s) := by
  obtain ⟨n, rfl⟩ := Nat.exists_eq_succ_of_ne_zero (Nat.pos_iff_ne_zero.mp hf)
  rw [settle]
  rw [h.writerOp.2 he]
  rfl

theorem settleFuel_pos (results : List (MediumOutcome × Bool)) : 0 < settleFuel results := by
  unfold settleFuel
  omega

/-! ## Its erase -/

/-- The writer's erase of the rebuild, completed (R157, R138). -/
theorem runOp_erase (block : Nat) (report : MediumOutcome × Bool) (s : State) :
    runOp (.erase block) report s = writerErased report.2 block (erasedPort report.2 block s) := rfl

/-- The state with the block erased and off the relocation queue (R138, R152). -/
def erasedOff (block : Nat) (s : State) : State := withSc (forgetBlock block) (erasedPort true block s)

theorem runOp_erased {s : State} (h : WriterIdle s) (block : Nat) (o : MediumOutcome) :
    runOp (.erase block) (o, true) s = eraseAheadDone (erasedOff block s) := by
  rw [runOp_erase]
  exact (writerErased_ahead (s := erasedPort true block s) h.recovery).1

theorem erasedOff_sc (block : Nat) (s : State) :
    (erasedOff block s).sc = { s.sc with
      relocation := (erasedOff block s).sc.relocation
      map := { s.sc.map with states := (erasedOff block s).sc.map.states }
      port := (erasedOff block s).sc.port
      relocQueue := s.sc.relocQueue.filter (fun x => !(x == block)) } :=
  (forgetBlock_keeps block (erasedPort true block s).sc).1

theorem erasedOff_map {s : State} (block : Nat) (h : s.sc.relocation = none) :
    (erasedOff block s).sc.map = s.sc.map := by
  have hsame := (forgetBlock_keeps block (erasedPort true block s).sc).2.2.2 fun q hq => absurd (h.symm.trans hq) nofun
  exact (congrArg StoreController.map hsame).trans rfl

/-- The erase-ahead succeeds (R147). -/
theorem runOp_erased_normal {s : State} (h : WriterIdle s) (hs : s.sc.seat = .normal) (block : Nat)
    (o : MediumOutcome) :
    let t := runOp (.erase block) (o, true) s
    SameRecords s t ∧ t.sc.seat = .normal ∧ t.sc.eraseAhead = .done ∧ t.sc.storeFull = false ∧
    t.medium = eraseBlock s.medium block ∧ t.cx = s.cx ∧ (s.sc.relocation = none → t.sc.map = s.sc.map) := by
  have hsc := erasedOff_sc block s
  have hseat : (erasedOff block s).sc.seat = .normal := by rw [hsc]; exact hs
  have hmap := erasedOff_map (s := s) block
  have hq : erasedOff block s = { erasedPort true block s with sc := (erasedOff block s).sc } := rfl
  dsimp only
  rw [runOp_erased h, eraseAheadDone_normal hseat]
  generalize erasedOff block s = u at *
  have hcu : u.cu = s.cu := by rw [hq]; rfl
  have hli : u.li = s.li := by rw [hq]; rfl
  have hcx : u.cx = s.cx := by rw [hq]; rfl
  refine ⟨.of_sc (congrArg (fun x => { x with storeFull := false, recovery := none, eraseAhead := .done }) hsc)
    h.recovery.symm hcu hli (congrArg _ hcx), hseat, rfl, rfl, ?_, hcx, hmap⟩
  show u.medium = _
  rw [hq]
  rfl

theorem enterBlock_unexamined {s : State} (h : examinesOnEntry s = false) :
    enterBlock s = withSc (fun sc => { sc with seat := .normal, eraseAhead := .due false }) s := by
  unfold enterBlock
  rw [h]
  rfl

/-- The erase of the block at whose slot 0 the position waits succeeds: the position stands there, and the block
beyond is the rebuild's to examine (R159). -/
theorem runOp_erased_unerased {s : State} (h : WriterIdle s) (hs : s.sc.seat = .unerased)
    (ha : s.sc.aheadErased = false) (block : Nat) (o : MediumOutcome) :
    let t := runOp (.erase block) (o, true) s
    SameRecords s t ∧ t.sc.seat = .normal ∧ t.sc.eraseAhead = .due false ∧ t.sc.storeFull = false ∧
    t.medium = eraseBlock s.medium block ∧ t.cx = s.cx ∧ (s.sc.relocation = none → t.sc.map = s.sc.map) := by
  have hsc := erasedOff_sc block s
  have hseat : (erasedOff block s).sc.seat = .unerased := by rw [hsc]; exact hs
  have hahead : (erasedOff block s).sc.aheadErased = false := by rw [hsc]; exact ha
  have hmap := erasedOff_map (s := s) block
  have hq : erasedOff block s = { erasedPort true block s with sc := (erasedOff block s).sc } := rfl
  dsimp only
  rw [runOp_erased h]
  generalize erasedOff block s = u at *
  have hcu : u.cu = s.cu := by rw [hq]; rfl
  have hli : u.li = s.li := by rw [hq]; rfl
  have hcx : u.cx = s.cx := by rw [hq]; rfl
  have hdone : eraseAheadDone u = withSc (fun sc => { sc with
      storeFull := false, recovery := none, seat := .normal, eraseAhead := .due false }) u := by
    have hx : examinesOnEntry (withSc (fun sc => { sc with storeFull := false, recovery := none }) u) = false := by
      show (u.cx.rebuildEnded || u.li.closing) = false
      rw [hcx, hli, h.rebuilding, h.closing]
      rfl
    have henter : eraseAheadDone u =
        enterBlock (withSc (fun sc => { sc with storeFull := false, recovery := none }) u) := by
      unfold eraseAheadDone
      rw [hseat, hahead]
      rfl
    rw [henter, enterBlock_unexamined hx]
    rfl
  rw [hdone]
  refine ⟨.of_sc (congrArg (fun x => { x with
      storeFull := false, recovery := none, seat := .normal, eraseAhead := .due false }) hsc)
    h.recovery.symm hcu hli (congrArg _ hcx), rfl, rfl, rfl, ?_, hcx, hmap⟩
  show u.medium = _
  rw [hq]
  rfl

/-! ## The examination where no record is in the way (R147) -/

/-- No record has a section in a logical block. -/
def BlockFree (block : Nat) (dir : List DirEntry) : Prop := ∀ e ∈ dir, hasSectionIn block e = false

theorem dropRecords_none {found : DirEntry → Bool} {sc : StoreController}
    (h : ∀ e ∈ sc.directory, found e = false) (hm : sc.pendingMarks = []) : dropRecords found sc = sc := by
  have hdir : sc.directory.filter (fun e => !found e) = sc.directory :=
    List.filter_eq_self.mpr fun e he => by rw [h e he]; rfl
  unfold dropRecords
  rw [hdir, hm, List.filter_nil, ← hm]

/-- An examination that finds no record permits the erase, and drops nothing (R147). -/
theorem examine_free_eq {s : State} (h : BlockFree (eraseTarget s.sc) s.sc.directory) (hm : s.sc.pendingMarks = []) :
    examine s = { s with sc := { abandonRelocationOf (physicalBlock s.sc.map (eraseTarget s.sc)) s.sc with
      eraseAhead := .due true } } := by
  obtain ⟨hsc, -⟩ := abandonRelocationOf_keeps (physicalBlock s.sc.map (eraseTarget s.sc)) s.sc
  have hdir : (abandonRelocationOf (physicalBlock s.sc.map (eraseTarget s.sc)) s.sc).directory = s.sc.directory := by
    rw [hsc]
  have hmarks : (abandonRelocationOf (physicalBlock s.sc.map (eraseTarget s.sc)) s.sc).pendingMarks = [] := by
    rw [hsc]
    exact hm
  have hfound : ∀ e ∈ s.sc.directory, (e.state != .filling && hasSectionIn (eraseTarget s.sc) e) = false :=
    fun e he => by rw [h e he, Bool.and_false]
  have hnone : s.sc.directory.filter (fun e => e.state != .filling && hasSectionIn (eraseTarget s.sc) e) = [] :=
    List.filter_eq_nil_iff.mpr fun e he => by rw [hfound e he]; nofun
  unfold examine
  dsimp only [withSc]
  rw [if_pos (by rw [hdir, hnone]; rfl), dropRecords_none (by rw [hdir]; exact hfound) hmarks]

theorem examine_free {s : State} (h : BlockFree (eraseTarget s.sc) s.sc.directory) (hm : s.sc.pendingMarks = []) :
    let t := examine s
    SameRecords s t ∧ t.sc.eraseAhead = .due true ∧ t.sc.seat = s.sc.seat ∧ t.sc.storeFull = s.sc.storeFull ∧
    t.sc.aheadErased = s.sc.aheadErased ∧ t.medium = s.medium ∧ t.cx = s.cx ∧
    (s.sc.relocation = none → t.sc.relocation = none ∧ t.sc.map = s.sc.map) := by
  obtain ⟨hsc, -, hsame⟩ := abandonRelocationOf_keeps (physicalBlock s.sc.map (eraseTarget s.sc)) s.sc
  rw [examine_free_eq h hm]
  generalize abandonRelocationOf (physicalBlock s.sc.map (eraseTarget s.sc)) s.sc = sc at *
  refine ⟨.of_sc (congrArg (fun x => { x with eraseAhead := .due true }) hsc) rfl rfl rfl rfl, rfl, ?_, ?_, ?_, rfl,
    rfl, fun hr => ?_⟩
  · exact (congrArg StoreController.seat hsc).trans rfl
  · exact (congrArg StoreController.storeFull hsc).trans rfl
  · exact (congrArg StoreController.aheadErased hsc).trans rfl
  · have hs := hsame fun q hq => absurd (hr.symm.trans hq) nofun
    exact ⟨(congrArg StoreController.relocation hs).trans hr, (congrArg StoreController.map hs).trans rfl⟩

/-! ## The steps of R159, every operation a success -/

/-- `t` is reached from `s` with the writer's records kept, and with one more block erased or none. -/
structure CleanStep (s t : State) : Prop where
  same : SameRecords s t
  medium : t.medium = s.medium ∨ ∃ block, t.medium = eraseBlock s.medium block

/-- Whether the position's block is examined before the writer's work is done (R159). -/
def SeatExamined (s : State) : Prop :=
  s.sc.seat = .unerased ∧ s.sc.eraseAhead ≠ .due true ∧ s.sc.storeFull = false

theorem clearSeat_of {s t u : State} {results rest : List (MediumOutcome × Bool)}
    (ht : (SeatExamined s → examine s = t) ∧ (¬SeatExamined s → s = t))
    (hsettle : settle (settleFuel results) results t = (u, rest)) :
    (u.sc.seat = .normal → clearSeat (s, results) = (u, rest)) ∧
    (u.sc.seat ≠ .normal →
      clearSeat (s, results) = (withSc (fun sc => { sc with rebuildTrailer := none }) u, rest)) := by
  have hexam : (if s.sc.seat = .unerased ∧ s.sc.eraseAhead ≠ .due true ∧ !s.sc.storeFull then examine s
      else s) = t := by
    by_cases hc : SeatExamined s
    · exact (if_pos ⟨hc.1, hc.2.1, by rw [hc.2.2]; rfl⟩).trans (ht.1 hc)
    · exact (if_neg fun h => hc ⟨h.1, h.2.1, by simpa using h.2.2⟩).trans (ht.2 hc)
  unfold clearSeat
  dsimp only
  rw [hexam, hsettle]
  exact ⟨fun h => if_pos h, fun h => if_neg h⟩

/-- The position's block needs nothing (R159). -/
theorem clearSeat_normal {s : State} (h : WriterIdle s) (hs : s.sc.seat = .normal) (he : s.sc.eraseAhead ≠ .due true)
    (results : List (MediumOutcome × Bool)) : clearSeat (s, results) = (s, results) := by
  exact (clearSeat_of ⟨fun hc => absurd (hs.symm.trans hc.1) nofun, fun _ => rfl⟩ (h.settle_done he _ _)).1 hs

/-- Under the store-full state the position's block is not examined, and the position waits (R159). -/
theorem clearSeat_waits {s : State} (h : WriterIdle s) (hs : s.sc.seat = .unerased)
    (he : s.sc.eraseAhead = .due false) (hf : s.sc.storeFull = true) (results : List (MediumOutcome × Bool)) :
    clearSeat (s, results) = (s, results) := by
  have hsame : withSc (fun sc => { sc with rebuildTrailer := none }) s = s := by
    unfold withSc
    rw [← h.trailer]
  rw [(clearSeat_of ⟨fun hc => absurd (hf.symm.trans hc.2.2) nofun, fun _ => rfl⟩
    (h.settle_done (by rw [he]; nofun) _ _)).2 (by rw [hs]; nofun), hsame]

/-- The erase that is due, of the block at whose slot 0 the position stands. -/
theorem settle_unerased {s : State} (h : WriterIdle s) (hs : s.sc.seat = .unerased) (ha : s.sc.aheadErased = false)
    (he : s.sc.eraseAhead = .due true) :
    ∃ t, settle (settleFuel []) [] s = (t, []) ∧ CleanStep s t ∧ t.sc.seat = .normal ∧
      t.sc.eraseAhead = .due false ∧ t.sc.storeFull = false := by
  obtain ⟨hsame, hseat, hahead, hfull, hmedium, -⟩ := runOp_erased_unerased h hs ha
    (physicalBlock s.sc.map (eraseTarget s.sc)) .clean
  refine ⟨_, ?_, ⟨hsame, .inr ⟨_, hmedium⟩⟩, hseat, hahead, hfull⟩
  rw [h.settle_erase he [] (settleFuel_pos [])]
  exact (hsame.idle h).settle_done (by rw [hahead]; nofun) [] _

/-- The block at whose slot 0 the position stands is erased, where no record is in the way (R159). -/
theorem clearSeat_erases {s : State} (h : WriterIdle s) (hs : s.sc.seat = .unerased) (ha : s.sc.aheadErased = false)
    (he : s.sc.eraseAhead = .due true ∨
      (s.sc.storeFull = false ∧ BlockFree (eraseTarget s.sc) s.sc.directory)) :
    ∃ t, clearSeat (s, []) = (t, []) ∧ CleanStep s t ∧ t.sc.seat = .normal ∧
      t.sc.eraseAhead = .due false ∧ t.sc.storeFull = false := by
  by_cases hd : s.sc.eraseAhead = .due true
  · obtain ⟨t, hsettle, hstep, hseat, hahead, hfull⟩ := settle_unerased h hs ha hd
    exact ⟨t, (clearSeat_of ⟨fun hc => absurd hd hc.2.1, fun _ => rfl⟩ hsettle).1 hseat, hstep, hseat, hahead,
      hfull⟩
  · obtain ⟨hfull0, hfree⟩ := he.resolve_left hd
    obtain ⟨hsame, hdue, hseat0, -, hahead0, hmedium, -⟩ := examine_free hfree h.marks
    obtain ⟨t, hsettle, hstep, hseat, hahead, hfull⟩ := settle_unerased (hsame.idle h) (hseat0.trans hs)
      (hahead0.trans ha) hdue
    refine ⟨t, ?_, ⟨hsame.trans hstep.same, ?_⟩, hseat, hahead, hfull⟩
    · exact (clearSeat_of ⟨fun _ => rfl, fun hc => absurd ⟨hs, hd, hfull0⟩ hc⟩ hsettle).1 hseat
    · rw [← hmedium]
      exact hstep.medium

/-- The erase-ahead performed, where no record is in the way (R147). -/
theorem eraseAheadNow_erases {s : State} (h : WriterIdle s) (hs : s.sc.seat = .normal)
    (hfree : BlockFree (eraseTarget s.sc) s.sc.directory) :
    ∃ t, eraseAheadNow (s, []) = (t, []) ∧ CleanStep s t ∧ t.sc.seat = .normal ∧ t.sc.eraseAhead = .done ∧
      t.sc.storeFull = false := by
  obtain ⟨hsame, hdue, hseat0, -, -, hmedium, -⟩ := examine_free hfree h.marks
  obtain ⟨hsame', hseat, hahead, hfull, hmedium', -⟩ := runOp_erased_normal (hsame.idle h) (hseat0.trans hs)
    (physicalBlock (examine s).sc.map (eraseTarget (examine s).sc)) .clean
  have herased := hmedium'.trans (congrArg (eraseBlock · _) hmedium)
  refine ⟨_, ?_, ⟨hsame.trans hsame', .inr ⟨_, herased⟩⟩, hseat, hahead, hfull⟩
  unfold eraseAheadNow
  rw [(hsame.idle h).settle_erase hdue [] (settleFuel_pos [])]
  exact ((hsame.trans hsame').idle h).settle_done (by rw [hahead]; nofun) [] _

theorem CleanStep.cells {s t : State} (h : CleanStep s t) (hc : s.medium.cells = []) : t.medium.cells = [] := by
  obtain hm | ⟨block, hm⟩ := h.medium
  · rw [hm]
    exact hc
  · rw [hm]
    unfold eraseBlock
    rw [hc]
    rfl

/-- The target of the writer's erase by the seat (R140, R147, R159). -/
theorem eraseTarget_seat (sc : StoreController) :
    (sc.seat = .unerased → eraseTarget sc = sc.position / 16) ∧
    (sc.seat = .normal → eraseTarget sc = (sc.position / 16 + 1) % 128) := by
  unfold eraseTarget
  exact ⟨fun h => if_pos h, fun h => if_neg (by rw [h]; nofun)⟩

/-- The erase-ahead from a seat that stands (R159). -/
theorem eraseAheadStep_clean {s : State} (h : WriterIdle s) (hs : s.sc.seat = .normal)
    (hfree : BlockFree ((s.sc.position / 16 + 1) % 128) s.sc.directory) :
    let t := (eraseAheadStep (s, [])).1
    CleanStep s t ∧ t.sc.seat = .normal ∧ t.sc.eraseAhead = .done ∧ t.sc.storeFull = false := by
  obtain ⟨t, hnow, hclean⟩ := eraseAheadNow_erases h hs (by rw [(eraseTarget_seat s.sc).2 hs]; exact hfree)
  dsimp only
  rw [eraseAheadStep_now (x := (s, [])) (by rw [hs]; nofun), hnow]
  exact hclean

/-- The erase-ahead while the position waits for its own block (R159). -/
theorem eraseAheadStep_waits {s : State} (h : WriterIdle s) (hs : s.sc.seat = .unerased)
    (hfree : BlockFree ((s.sc.position / 16 + 1) % 128) s.sc.directory) :
    SameRecords s (eraseAheadStep (s, [])).1 ∧
    (s.medium.cells = [] → (eraseAheadStep (s, [])).1.medium.cells = []) := by
  have haside : SameRecords s (withSc seatAside s) := by constructor <;> rfl
  obtain ⟨t, hnow, hclean, -⟩ := eraseAheadNow_erases (haside.idle h) rfl
    (by rw [(eraseTarget_seat (withSc seatAside s).sc).2 rfl]; exact hfree)
  have hawaits : SameRecords t (withSc seatAwaits t) := by constructor <;> rfl
  have hstep : eraseAheadStep (s, []) = (withSc seatAwaits t, []) := by
    unfold eraseAheadStep
    rw [if_pos hs]
    dsimp only
    rw [hnow]
  rw [hstep]
  exact ⟨(haside.trans hclean.same).trans hawaits, hclean.cells⟩

/-- The end of the rebuild, with no record in the way and every operation a success (R159). -/
theorem endSteps_clean {s : State} (h : WriterIdle s) (hs : s.sc.seat = .normal ∨ s.sc.seat = .unerased)
    (ha : s.sc.aheadErased = false)
    (hdue : s.sc.eraseAhead = .due false ∨ (s.sc.eraseAhead = .due true ∧ s.sc.seat = .unerased))
    (hown : s.sc.seat = .unerased → BlockFree (s.sc.position / 16) s.sc.directory)
    (hnext : BlockFree ((s.sc.position / 16 + 1) % 128) s.sc.directory) :
    let t := endSteps [] s
    SameRecords s t ∧ (s.medium.cells = [] → t.medium.cells = []) ∧
    (s.sc.storeFull = false ∨ s.sc.eraseAhead = .due true →
      t.sc.seat = .normal ∧ t.sc.eraseAhead = .done ∧ t.sc.storeFull = false) := by
  unfold endSteps
  dsimp only
  by_cases hn : s.sc.seat = .normal
  · have he : s.sc.eraseAhead ≠ .due true := fun hd => by
      obtain hd' | ⟨-, hu⟩ := hdue
      · exact absurd (hd.symm.trans hd') nofun
      · exact absurd (hn.symm.trans hu) nofun
    rw [clearSeat_normal h hn he, clearSeat_normal h hn he]
    obtain ⟨hclean, hend⟩ := eraseAheadStep_clean h hn hnext
    exact ⟨hclean.same, hclean.cells, fun _ => hend⟩
  · have hu := hs.resolve_left hn
    by_cases hd : s.sc.storeFull = false ∨ s.sc.eraseAhead = .due true
    · obtain ⟨t, hclear, hclean, hseat, hahead, -⟩ := clearSeat_erases h hu ha
        (hd.symm.imp id fun hf => ⟨hf, by rw [(eraseTarget_seat s.sc).1 hu]; exact hown hu⟩)
      have ht := hclean.same.idle h
      rw [hclear, clearSeat_normal ht hseat (by rw [hahead]; nofun)]
      obtain ⟨hclean', hend⟩ := eraseAheadStep_clean ht hseat
        (by rw [hclean.same.position, hclean.same.directory]; exact hnext)
      exact ⟨hclean.same.trans hclean'.same, fun hc => hclean'.cells (hclean.cells hc), fun _ => hend⟩
    · obtain ⟨hf, he⟩ := not_or.mp hd
      have he' := hdue.resolve_right fun hc => he hc.1
      have hf' : s.sc.storeFull = true := by simpa using hf
      rw [clearSeat_waits h hu he' hf', clearSeat_waits h hu he' hf']
      obtain ⟨hsame, hcells⟩ := eraseAheadStep_waits h hu hnext
      exact ⟨hsame, hcells, fun hc => absurd hc hd⟩

end Sys2Proof.Machine
end


section
/-! PROOFS. REBUILD END (R157 to R159, R193): its frame, and the rebuild of an erased store. -/

namespace Sys2Proof.Machine

/-! ## The command -/

theorem exec_rebuildEnd {reads : List (Nat × MediumOutcome)} {results : List (MediumOutcome × Bool)} {s : State}
    (hp : s.powered = true) (hr : rebuilding s = true) (hmap : mapInStore s.sc.map = true) :
    exec (.rebuildEnd reads results) s = .next (rebuildEnded (rebuild reads results s)) := by
  have harm : exec (.rebuildEnd reads results) s = execRebuildEnd reads results s := rfl
  have hfind : ((List.range 128).map (physicalBlock s.sc.map)).find? (fun b => decide (136 ≤ b)) = none := by
    unfold mapInStore at hmap
    rw [List.all_eq_true] at hmap
    rw [List.find?_eq_none]
    intro b hb
    obtain ⟨l, hl, rfl⟩ := List.mem_map.mp hb
    have := of_decide_eq_true (hmap l hl)
    simpa using this
  rw [harm]
  unfold execRebuildEnd
  rw [if_neg (by simp [hp, hr]), hfind]

/-- What the rebuild finds of the part: STARTUP, no RESTART, the rebuild not ended. -/
theorem rebuilding_iff (s : State) : rebuilding s = true ↔
    s.cx.mode = .startup ∧ s.cx.rebuildEnded = false ∧ s.li.closing = false ∧ s.sc.port = none := by
  unfold rebuilding
  simp [and_assoc]

/-- The end of the rebuild sets its mark, and with the load ended enters SETUP (R193). -/
theorem rebuildEnded_leaves (s : State) :
    let t := rebuildEnded s
    t.cx.rebuildEnded = true ∧ t.cx.mode = (if s.cx.loadEnded then .setup else s.cx.mode) ∧
    t.cx.loadEnded = s.cx.loadEnded ∧ t.cx.notices = s.cx.notices ∧ t.sc = s.sc ∧ t.medium = s.medium ∧
    t.pm = s.pm ∧ t.bpm = s.bpm ∧ t.bc = s.bc ∧ t.demand = s.demand ∧ t.gt = s.gt ∧ t.li = s.li ∧
    t.timersRunning = s.timersRunning ∧ t.am.timer = s.am.timer := by
  dsimp only
  rw [rebuildEnded_eq]
  by_cases h : s.cx.loadEnded = true
  · rw [if_pos h, if_pos h]
    exact ⟨rfl, rfl, rfl, rfl, rfl, rfl, rfl, rfl, rfl, rfl, rfl, rfl, rfl, rfl⟩
  · rw [if_neg h, if_neg h]
    exact ⟨rfl, rfl, rfl, rfl, rfl, rfl, rfl, rfl, rfl, rfl, rfl, rfl, rfl, rfl⟩

/-! ## The scan, with every read CLEAN (R157) -/

/-- What a CLEAN read finds of a logical section. -/
def standingAt (s : State) (a : Nat) : Option Found :=
  standingOf a .clean (sectionBytes s.medium (physicalSection s.sc.map a))

theorem scanStore_clean {s : State} (hu : s.medium.unknown = []) :
    scanStore [] s = (List.range 2048).filterMap (fun a => (standingAt s a).map (fun f => (a, f))) := by
  unfold scanStore
  refine congrArg (List.filterMap · _) (funext fun a => ?_)
  have hout : readOutcome s.medium (physicalSection s.sc.map a) (outcomeAt [] a) = .clean := by
    unfold readOutcome
    split <;> rfl
  have hread := (readSection_determined (m := s.medium) (src := physicalSection s.sc.map a)
    (s.freeCount + a * sectionSize) .clean (by rw [hu]; nofun)).1 nofun
  dsimp only
  rw [hout, hread]
  rfl

/-- An erased section is not found (R157). -/
theorem standingAt_erased {s : State} {a : Nat} (hu : s.medium.unknown = [])
    (h : sectionCells s.medium (physicalSection s.sc.map a) = []) : standingAt s a = none := by
  have he : isErased s.medium (physicalSection s.sc.map a) = true := by
    unfold isErased
    rw [hu, h]
    rfl
  have hread := (readSection_determined (m := s.medium) (src := physicalSection s.sc.map a) 0 .clean
    (by rw [hu]; nofun)).1 nofun
  have hbytes := (isErased_reads 0 .clean he).2
  rw [hread] at hbytes
  unfold standingAt
  rw [hbytes]
  rfl

/-- The part with SC as the scan leaves it, before the steps that end the rebuild. -/
def rebuildPlaced (kept : List Candidate) (s : State) : State :=
  { s with freeCount := s.freeCount + 2048 * sectionSize, sc := placeWriter (scanStore [] s) kept s.sc }

theorem rebuild_clean {s : State} {kept : List Candidate} (results : List (MediumOutcome × Bool))
    (h : keepNewest [] (newestFirst (candidates (scanStore [] s))) = kept) :
    rebuild [] results s = endSteps results (rebuildPlaced kept s) := by
  have hweak : weakSections [] (scanStore [] s) = [] := List.filter_eq_nil_iff.mpr fun a _ => nofun
  unfold rebuild
  dsimp only
  rw [hweak, h]
  rfl

/-! ## An erased store (R159) -/

theorem scanStore_erased {s : State} (hc : s.medium.cells = []) (hu : s.medium.unknown = []) :
    scanStore [] s = [] := by
  rw [scanStore_clean hu, List.filterMap_eq_nil_iff]
  intro a _
  rw [standingAt_erased hu (by unfold sectionCells; rw [hc]; rfl)]
  rfl

theorem rebuildPlaced_idle {s : State} {kept : List Candidate} (hr : rebuilding s = true) (ho : s.cu.opened = none)
    (hrec : s.sc.recovery = none) (hm : s.sc.pendingMarks = [])
    (ht : (rebuildPlaced kept s).sc.rebuildTrailer = none) : WriterIdle (rebuildPlaced kept s) := by
  obtain ⟨-, hended, hclosing, -⟩ := (rebuilding_iff s).mp hr
  have hsc : (rebuildPlaced kept s).sc.recovery = s.sc.recovery ∧
      (rebuildPlaced kept s).sc.pendingMarks = s.sc.pendingMarks := by
    unfold rebuildPlaced placeWriter
    split <;> exact ⟨rfl, rfl⟩
  exact ⟨hsc.1.trans hrec, ht, ho, hsc.2.trans hm, hclosing, hended⟩

/-- The rebuild of an erased store finds no record and ends with the block after the position's erased ahead. -/
theorem rebuild_erased {s : State} (hr : rebuilding s = true) (hc : s.medium.cells = []) (hu : s.medium.unknown = [])
    (ho : s.cu.opened = none) (hrec : s.sc.recovery = none) (hm : s.sc.pendingMarks = []) :
    let t := rebuild [] [] s
    t.sc.directory = [] ∧ t.sc.nextNumber = 1 ∧ t.sc.nextSequence = 0 ∧ t.sc.position = 0 ∧ t.sc.seat = .normal ∧
    t.sc.eraseAhead = .done ∧ t.sc.storeFull = false ∧ t.medium.cells = [] := by
  have hscan := scanStore_erased hc hu
  have hkept : keepNewest [] (newestFirst (candidates (scanStore [] s))) = [] := by rw [hscan]; rfl
  have hidle := rebuildPlaced_idle (kept := []) hr ho hrec hm rfl
  obtain ⟨hsame, hcells, hend⟩ := endSteps_clean hidle (.inr rfl) rfl (.inr ⟨rfl, rfl⟩) (fun _ => nofun) nofun
  obtain ⟨hseat, hahead, hfull⟩ := hend (.inr rfl)
  dsimp only
  rw [rebuild_clean [] hkept]
  exact ⟨hsame.directory, hsame.nextNumber, hsame.nextSequence, hsame.position, hseat, hahead, hfull, hcells hc⟩

end Sys2Proof.Machine
end


section
/-! PROOFS. The rebuild of an erased store whose first erase fails with no block to recover it (R151, R159). -/

namespace Sys2Proof.Machine

/-- What a failed erase with no block to recover it leaves, with no record open: STORE_WEAR, and the store-full state
with its notice (R151, R148). -/
structure WornErase (s t : State) : Prop where
  same : SameRecords s t
  frame : t = { s with sc := t.sc, medium := t.medium, cx := { s.cx with notices := t.cx.notices } }
  seat : t.sc.seat = s.sc.seat
  eraseAhead : t.sc.eraseAhead = .due false
  storeFull : t.sc.storeFull = true
  map : t.sc.map = s.sc.map
  relocation : t.sc.relocation = s.sc.relocation
  wear : t.cx.notices.getLsbD 8 = true
  full : s.sc.storeFull = false → t.cx.notices.getLsbD 7 = true
  kept : ∀ n, s.cx.notices.getLsbD n = true → t.cx.notices.getLsbD n = true

theorem beginStoreFull_quiet {s : State} (h : s.cu.opened = none) :
    beginStoreFull s = { s with
      sc := { s.sc with storeFull := true }
      cx := { s.cx with
        notices := if s.sc.storeFull then s.cx.notices else s.cx.notices ||| 0x0080 } } := by
  unfold beginStoreFull
  by_cases hf : s.sc.storeFull = true
  · rw [if_pos hf, if_pos hf, ← hf]
  · rw [if_neg hf, if_neg hf, truncateStoreFull_none (by exact h)]
    rfl

theorem eraseWornOut_quiet {s : State} (h : s.cu.opened = none) (hrec : s.sc.recovery = none) :
    WornErase s (eraseWornOut s) := by
  have heq : eraseWornOut s = { s with
      sc := { s.sc with recovery := none, eraseAhead := .due false, storeFull := true }
      cx := { s.cx with notices :=
        if s.sc.storeFull then s.cx.notices ||| 0x0100 else s.cx.notices ||| 0x0100 ||| 0x0080 } } :=
    beginStoreFull_quiet (s := raise .storeWear (withSc (fun sc => { sc with
      recovery := none, eraseAhead := .due false }) s)) h
  rw [heq]
  refine ⟨.of_sc rfl hrec.symm rfl rfl rfl, rfl, rfl, rfl, rfl, rfl, rfl, ?_, fun hf => ?_, fun n hn => ?_⟩
  · dsimp only
    split <;> simp
  · dsimp only
    rw [hf]
    simp
  · dsimp only
    split <;> simp [hn]

/-- The writer's erase fails with no block to recover it (R151). -/
theorem runOp_worn {s : State} (h : WriterIdle s) (hn : NoSpare s.sc.map) (hr : s.sc.relocation = none) (block : Nat)
    (o : MediumOutcome) :
    WornErase s (runOp (.erase block) (o, false) s) ∧
    (runOp (.erase block) (o, false) s).medium = spoilBlock s.medium block := by
  have hrun : runOp (.erase block) (o, false) s = eraseWornOut (erasedPort false block s) := by
    rw [runOp_erase]
    exact ((writerErased_ahead (s := erasedPort false block s) h.recovery).2).trans
      (beginRecovery_worn (s := erasedPort false block s) hn hr).2
  rw [hrun]
  have hport : SameRecords s (erasedPort false block s) := by constructor <;> rfl
  have hworn := eraseWornOut_quiet (s := erasedPort false block s) h.opened h.recovery
  exact ⟨⟨hport.trans hworn.same, hworn.frame, hworn.seat, hworn.eraseAhead, hworn.storeFull, hworn.map,
    hworn.relocation, hworn.wear, hworn.full, hworn.kept⟩, (eraseWornOut_spec (erasedPort false block s)).2.1⟩

/-- The position's own block cannot be erased: the position waits for it under the store-full state (R159). -/
theorem clearSeat_worn {s : State} (h : WriterIdle s) (hs : s.sc.seat = .unerased) (he : s.sc.eraseAhead = .due true)
    (hn : NoSpare s.sc.map) (hr : s.sc.relocation = none) (o : MediumOutcome)
    (rest : List (MediumOutcome × Bool)) :
    ∃ t, clearSeat (s, (o, false) :: rest) = (t, rest) ∧ clearSeat (t, rest) = (t, rest) ∧ WornErase s t ∧
      t.medium = spoilBlock s.medium (physicalBlock s.sc.map (s.sc.position / 16)) := by
  obtain ⟨hworn, hmedium⟩ := runOp_worn h hn hr (physicalBlock s.sc.map (eraseTarget s.sc)) o
  have hidle := hworn.same.idle h
  have hseat := hworn.seat.trans hs
  have hsettle : settle (settleFuel ((o, false) :: rest)) ((o, false) :: rest) s =
      (runOp (.erase (physicalBlock s.sc.map (eraseTarget s.sc))) (o, false) s, rest) := by
    rw [h.settle_erase he _ (settleFuel_pos _)]
    exact hidle.settle_done (by rw [hworn.eraseAhead]; nofun) _ _
  have hwaits := clearSeat_waits hidle hseat hworn.eraseAhead hworn.storeFull rest
  have hsame : withSc (fun sc => { sc with rebuildTrailer := none })
      (runOp (.erase (physicalBlock s.sc.map (eraseTarget s.sc))) (o, false) s) =
      runOp (.erase (physicalBlock s.sc.map (eraseTarget s.sc))) (o, false) s := by
    unfold withSc
    rw [← hidle.trailer]
  refine ⟨_, ?_, hwaits, hworn, hmedium.trans (by rw [(eraseTarget_seat s.sc).1 hs])⟩
  rw [(clearSeat_of ⟨fun hc => absurd he hc.2.1, fun _ => rfl⟩ hsettle).2 (by rw [hseat]; nofun), hsame]

/-- The erase-ahead while the position waits, with the erase a success or a failure with no block to recover it. -/
theorem eraseAheadStep_reported {s : State} (h : WriterIdle s) (hs : s.sc.seat = .unerased)
    (hn : NoSpare s.sc.map) (hr : s.sc.relocation = none)
    (hfree : BlockFree ((s.sc.position / 16 + 1) % 128) s.sc.directory)
    (p : MediumOutcome) (ok : Bool) :
    let t := (eraseAheadStep (s, [(p, ok)])).1
    let block := physicalBlock s.sc.map ((s.sc.position / 16 + 1) % 128)
    SameRecords s t ∧ t.sc.seat = .unerased ∧ t.sc.storeFull = true ∧ t.sc.eraseAhead = .due false ∧
    t.sc.aheadErased = ok ∧ t.sc.map = s.sc.map ∧
    (∀ n, s.cx.notices.getLsbD n = true → t.cx.notices.getLsbD n = true) ∧
    t.medium = (if ok then eraseBlock s.medium block else spoilBlock s.medium block) := by
  intro t block
  have haside : SameRecords s (withSc seatAside s) := by constructor <;> rfl
  have htarget := (eraseTarget_seat (withSc seatAside s).sc).2 rfl
  obtain ⟨hsame, hdue, hseat, -, -, hmedium, hcx, hmap⟩ := examine_free (s := withSc seatAside s)
    (by rw [htarget]; exact hfree) h.marks
  obtain ⟨hrel, hmap⟩ := hmap hr
  have hidle := (haside.trans hsame).idle h
  have hblock : physicalBlock (examine (withSc seatAside s)).sc.map (eraseTarget (examine (withSc seatAside s)).sc) =
      block := by
    rw [hmap, (eraseTarget_seat _).2 hseat, hsame.position]
    rfl
  have hnow : ∀ u, runOp (.erase block) (p, ok) (examine (withSc seatAside s)) = u → WriterIdle u →
      u.sc.eraseAhead ≠ .due true → t = withSc seatAwaits u := fun u hu hidleu hdueu => by
    have hsettle : eraseAheadNow (withSc seatAside s, [(p, ok)]) = (u, []) := by
      unfold eraseAheadNow
      rw [hidle.settle_erase hdue _ (settleFuel_pos _), hblock]
      exact (congrArg _ hu).trans (hidleu.settle_done hdueu _ _)
    unfold t eraseAheadStep
    rw [if_pos hs]
    dsimp only
    rw [hsettle]
  have hawaits : ∀ u : State, SameRecords u (withSc seatAwaits u) := fun u => by constructor <;> rfl
  cases ok with
  | true =>
    obtain ⟨hsame', -, hdone, -, herased, hcx', hmap'⟩ := runOp_erased_normal hidle hseat block p
    have ht := hnow _ rfl (hsame'.idle hidle) (by rw [hdone]; nofun)
    rw [ht]
    refine ⟨((haside.trans hsame).trans hsame').trans (hawaits _), rfl, rfl, rfl, ?_, (hmap' hrel).trans hmap,
      fun n hb => ?_, herased.trans (by rw [hmedium]; rfl)⟩
    · show (_ == _) = true
      rw [hdone]
      rfl
    · rw [withSc_cx, hcx', hcx, withSc_cx]
      exact hb
  | false =>
    obtain ⟨hworn, hspoilt⟩ := runOp_worn hidle (by rw [hmap]; exact hn) hrel block p
    have ht := hnow _ rfl (hworn.same.idle hidle) (by rw [hworn.eraseAhead]; nofun)
    rw [ht]
    refine ⟨((haside.trans hsame).trans hworn.same).trans (hawaits _), rfl, rfl, rfl, ?_, hworn.map.trans hmap,
      fun n hb => hworn.kept n (by rw [hcx]; exact hb), hspoilt.trans (by rw [hmedium]; rfl)⟩
    show (_ == _) = false
    rw [hworn.eraseAhead]
    rfl

/-- The first of the steps that end the rebuild fails with no block to recover it (R151, R159). -/
theorem endSteps_worn {s : State} (h : WriterIdle s) (hs : s.sc.seat = .unerased) (he : s.sc.eraseAhead = .due true)
    (hn : NoSpare s.sc.map) (hr : s.sc.relocation = none)
    (hfree : BlockFree ((s.sc.position / 16 + 1) % 128) s.sc.directory)
    (o p : MediumOutcome) (ok : Bool) :
    ∃ t spoilt, endSteps [(o, false), (p, ok)] s = t ∧ SameRecords s t ∧ t.sc.seat = .unerased ∧
      t.sc.storeFull = true ∧ t.sc.eraseAhead = .due false ∧ t.sc.aheadErased = ok ∧ t.sc.map = s.sc.map ∧
      t.cx.notices.getLsbD 8 = true ∧ (s.sc.storeFull = false → t.cx.notices.getLsbD 7 = true) ∧
      spoilt = spoilBlock s.medium (physicalBlock s.sc.map (s.sc.position / 16)) ∧
      t.medium = (if ok then eraseBlock spoilt (physicalBlock s.sc.map ((s.sc.position / 16 + 1) % 128))
        else spoilBlock spoilt (physicalBlock s.sc.map ((s.sc.position / 16 + 1) % 128))) := by
  obtain ⟨u, hclear, hclear', hworn, hspoilt⟩ := clearSeat_worn h hs he hn hr o [(p, ok)]
  obtain ⟨hsame, hseat, hfull, hahead, herased, hmap, hnotices, hmedium⟩ := eraseAheadStep_reported
    (hworn.same.idle h) (hworn.seat.trans hs) (by rw [hworn.map]; exact hn) (hworn.relocation.trans hr)
    (by rw [hworn.same.directory, hworn.same.position]; exact hfree) p ok
  refine ⟨(eraseAheadStep (u, [(p, ok)])).1, u.medium, ?_, hworn.same.trans hsame, hseat, hfull, hahead, herased,
    hmap.trans hworn.map, hnotices 8 hworn.wear, fun hf => hnotices 7 (hworn.full hf), hspoilt, ?_⟩
  · unfold endSteps
    rw [hclear, hclear']
  · rw [hmedium, hworn.map, hworn.same.position]

/-- An erased store with a block's sections undetermined, and the block beyond erased (R138). -/
theorem wornMedium_erased {m : Medium} (hc : m.cells = []) (hu : m.unknown = []) (own beyond : Nat) :
    eraseBlock (spoilBlock m own) beyond = { m with unknown := (eraseBlock (spoilBlock m own) beyond).unknown } ∧
    (own ≠ beyond → ∀ x, x ∈ (eraseBlock (spoilBlock m own) beyond).unknown ↔ x / 16 = own) := by
  obtain ⟨hframe, hmem⟩ := spoilBlock_spec m own
  rw [hu] at hmem
  generalize spoilBlock m own = w at *
  have hcells : w.cells = [] := (congrArg Medium.cells hframe).trans hc
  have hframe' : eraseBlock w beyond = { w with unknown := (eraseBlock w beyond).unknown } := by
    unfold eraseBlock
    rw [hcells]
    rfl
  have hcopies : w.copy1 = m.copy1 ∧ w.copy2 = m.copy2 :=
    ⟨(congrArg Medium.copy1 hframe).trans rfl, (congrArg Medium.copy2 hframe).trans rfl⟩
  refine ⟨?_, fun hne x => ?_⟩
  · rw [hframe', hcells, hcopies.1, hcopies.2, hc]
  · have hx : x ∈ (eraseBlock w beyond).unknown ↔ x ∈ w.unknown ∧ ¬x / 16 = beyond := by
      unfold eraseBlock
      simp
    rw [hx, hmem]
    constructor
    · rintro ⟨hx | hx, -⟩
      · exact hx
      · cases hx
    · exact fun h => ⟨.inl h, by rw [h]; exact hne⟩

/-- The same with the block beyond undetermined too. -/
theorem wornMedium_spoilt {m : Medium} (hu : m.unknown = []) (own beyond : Nat) :
    spoilBlock (spoilBlock m own) beyond = { m with unknown := (spoilBlock (spoilBlock m own) beyond).unknown } ∧
    ∀ x, x ∈ (spoilBlock (spoilBlock m own) beyond).unknown ↔ x / 16 = own ∨ x / 16 = beyond := by
  obtain ⟨hframe, hmem⟩ := spoilBlock_spec m own
  obtain ⟨hframe', hmem'⟩ := spoilBlock_spec (spoilBlock m own) beyond
  rw [hu] at hmem
  generalize spoilBlock (spoilBlock m own) beyond = v at *
  generalize spoilBlock m own = w at *
  refine ⟨?_, fun x => ?_⟩
  · rw [hframe', hframe]
  · rw [hmem', hmem]
    constructor
    · rintro (h | h | h)
      · exact .inr h
      · exact .inl h
      · cases h
    · rintro (h | h)
      · exact .inr (.inl h)
      · exact .inl h

end Sys2Proof.Machine
end


section
/-! PROOFS. The rebuild of a store that holds one whole record (R157 to R159): the scan, the candidate, and the
directory entry. -/

namespace Sys2Proof.Machine

/-! ## What the scan finds at a section -/

theorem foundAt_clean {s : State} (hu : s.medium.unknown = []) {a : Nat} (ha : a < 2048) :
    foundAt (scanStore [] s) a = standingAt s a := by
  have hany : ∀ b, ((standingAt s b).map (fun f => (b, f))).any (fun f => f.1 == a) =
      ((standingAt s b).isSome && b == a) := fun b => by
    cases standingAt s b <;> rfl
  unfold foundAt
  rw [scanStore_clean hu, List.find?_filterMap]
  simp only [hany]
  cases hf : standingAt s a with
  | none =>
    have hnone : (List.range 2048).find? (fun b => (standingAt s b).isSome && b == a) = none := by
      rw [List.find?_eq_none]
      intro b _ hb
      obtain ⟨hsome, rfl⟩ : (standingAt s b).isSome = true ∧ b = a := by simpa using hb
      rw [hf] at hsome
      exact nomatch hsome
    rw [hnone]
    rfl
  | some f =>
    have hsome : (List.range 2048).find? (fun b => (standingAt s b).isSome && b == a) = some a := by
      rw [List.find?_range_eq_some]
      refine ⟨by simp [hf], List.mem_range.mpr ha, fun b hb => ?_⟩
      have : b ≠ a := by omega
      simp [this]
    rw [hsome]
    simp [hf]

/-- A section neither usable nor erased is found so (R157). -/
theorem standingAt_other {s : State} {a : Nat}
    (hk : sectionKind (sectionBytes s.medium (physicalSection s.sc.map a)) ≠ 0xFF)
    (hc : checkwordPasses (sectionBytes s.medium (physicalSection s.sc.map a)) = false) :
    standingAt s a = some .other := by
  unfold standingAt standingOf
  rw [if_neg fun h => hk h.1, if_neg fun h => by rw [hc] at h; exact nomatch h.2.2.2.2]

/-! ## One whole record -/

/-- The store holds one whole record of sections 0 to `m` from `first` on, and else only erased sections, and sections
neither usable nor erased behind its TRAILER in the TRAILER's block. -/
structure WholeRecord (number first m : Nat) (bytes : Nat → List Byte) (s : State) : Prop where
  unknown : s.medium.unknown = []
  first_lt : first < 2048
  sections : 1 ≤ m ∧ m ≤ 151
  bytes_eq : ∀ j, bytes j = sectionBytes s.medium (physicalSection s.sc.map ((first + j) % 2048))
  sound : ∀ j, j ≤ m → sectionNumber (bytes j) = number ∧ sectionIndex (bytes j) = j ∧
    sectionAddr (bytes j) = (first + j) % 2048 ∧ checkwordPasses (bytes j) = true ∧
    sectionKind (bytes j) = (if j = 0 then 1 else if j = m then 3 else 2)
  rest : ∀ a, a < 2048 → m < (a + 2048 - first) % 2048 →
    sectionCells s.medium (physicalSection s.sc.map a) = [] ∨
    (a / 16 = (first + m) % 2048 / 16 ∧ (first + m) % 2048 < a ∧
      sectionKind (sectionBytes s.medium (physicalSection s.sc.map a)) ≠ 0xFF ∧
      checkwordPasses (sectionBytes s.medium (physicalSection s.sc.map a)) = false)

/-- The candidate record of the sections 0 to `m`. -/
def wholeCandidate (number first m : Nat) (bytes : Nat → List Byte) : Candidate where
  number := number
  sequence := .ofNat 32 (fieldAt (bytes 0) 10 4)
  first := first
  members := (List.range (m + 1)).map (fun j => ⟨j, bytes j⟩)

/-- A run of addresses with a value at one of them alone. -/
theorem filterMap_range_single {α : Type} {n i : Nat} (hi : i < n) {f : Nat → Option α} {x : α}
    (hf : ∀ a, a < n → f a = if a = i then some x else none) : (List.range n).filterMap f = [x] := by
  obtain ⟨pre, post, hl⟩ := List.append_of_mem (List.mem_range.mpr hi)
  have hnodup : (pre ++ i :: post).Nodup := hl ▸ List.nodup_range
  have hmem : ∀ a, a ∈ pre ++ i :: post → a < n := fun a ha => List.mem_range.mp (hl ▸ ha)
  have hnone : ∀ a, a ∈ pre ++ i :: post → a ≠ i → f a = none := fun a ha hne =>
    (hf a (hmem a ha)).trans (if_neg hne)
  obtain ⟨hpre, hpost⟩ : i ∉ pre ∧ i ∉ post := by
    have := List.perm_middle.nodup_iff.mp hnodup
    have hnot := (List.nodup_cons.mp this).1
    exact ⟨fun hc => hnot (List.mem_append_left _ hc), fun hc => hnot (List.mem_append_right _ hc)⟩
  have hpre' : pre.filterMap f = [] := List.filterMap_eq_nil_iff.mpr fun a ha =>
    hnone a (List.mem_append_left _ ha) fun hc => hpre (hc ▸ ha)
  have hpost' : post.filterMap f = [] := List.filterMap_eq_nil_iff.mpr fun a ha =>
    hnone a (List.mem_append_right _ (List.mem_cons_of_mem _ ha)) fun hc => hpost (hc ▸ ha)
  rw [hl, List.filterMap_append, List.filterMap_cons, hpre', hpost', (hf i hi).trans (if_pos rfl)]
  rfl

section
variable {number first m : Nat} {bytes : Nat → List Byte} {s : State} (h : WholeRecord number first m bytes s)
include h

/-- A section of the record is found usable (R157). -/
theorem WholeRecord.standing {j : Nat} (hj : j ≤ m) :
    standingAt s ((first + j) % 2048) = some (.usable (bytes j)) := by
  obtain ⟨-, -, haddr, hword, hkind⟩ := h.sound j hj
  have hrange : 1 ≤ sectionKind (bytes j) ∧ sectionKind (bytes j) ≤ 3 := by
    rw [hkind]
    split
    · omega
    · split <;> omega
  unfold standingAt standingOf
  rw [← h.bytes_eq j, if_neg fun hc => by omega,
    if_pos ⟨nofun, hrange.1, hrange.2, haddr, hword⟩]

/-- No other section is found usable. -/
theorem WholeRecord.standing_rest {a : Nat} (ha : a < 2048) (hm : m < (a + 2048 - first) % 2048) :
    standingAt s a = none ∨ standingAt s a = some .other := by
  obtain he | ⟨-, -, hk, hc⟩ := h.rest a ha hm
  · exact .inl (standingAt_erased h.unknown he)
  · exact .inr (standingAt_other hk hc)

/-- The members of the record, in order (R158). -/
theorem WholeRecord.walk (fuel k : Nat) (hk : 1 ≤ k) (hm : k ≤ m) (hf : m + 1 ≤ fuel + k) :
    walkRecord (scanStore [] s) number first fuel k =
      (List.range' k (m + 1 - k)).map (fun j => ⟨j, bytes j⟩) := by
  induction fuel generalizing k with
  | zero => omega
  | succ fuel ih =>
    obtain ⟨hnumber, hindex, -, -, hkind⟩ := h.sound k hm
    have hfound : foundAt (scanStore [] s) (sectionAt first k) = some (.usable (bytes k)) :=
      (foundAt_clean h.unknown (Nat.mod_lt _ (by decide))).trans (h.standing hm)
    have hsucc : m + 1 - k = (m - k) + 1 := by omega
    unfold walkRecord
    rw [hfound]
    dsimp only
    rw [if_pos ⟨hnumber, hindex⟩, hsucc, List.range'_succ, List.map_cons]
    rw [if_neg (by omega)] at hkind
    by_cases hlast : k = m
    · rw [if_pos hlast] at hkind
      rw [if_pos (by exact hkind), hlast, Nat.sub_self]
      rfl
    · rw [if_neg hlast] at hkind
      have hrest : m + 1 - (k + 1) = m - k := by omega
      rw [if_neg (by rw [hkind]; decide), ih (k + 1) (by omega) (by omega) (by omega), hrest]

/-- The candidate that the record's HEADER begins (R158). -/
theorem WholeRecord.candidate :
    candidateAt (scanStore [] s) first (bytes 0) = wholeCandidate number first m bytes := by
  obtain ⟨hnumber, -⟩ := h.sound 0 (Nat.zero_le m)
  obtain ⟨hone, hmax⟩ := h.sections
  unfold candidateAt wholeCandidate
  rw [hnumber, h.walk 2047 1 (Nat.le_refl 1) hone (by omega), List.range_eq_range', List.range'_succ, List.map_cons]
  rfl

/-- It is the only candidate (R158). -/
theorem WholeRecord.candidates : candidates (scanStore [] s) = [wholeCandidate number first m bytes] := by
  have hone : ∀ a, a < 2048 → ((standingAt s a).map (fun f => (a, f))).bind (fun f => match f.2 with
      | .usable bs => if sectionKind bs = kindHeader then some (candidateAt (scanStore [] s) f.1 bs) else none
      | .other => none) = if a = first then some (wholeCandidate number first m bytes) else none := by
    intro a ha
    have hfirst := h.first_lt
    by_cases hm : (a + 2048 - first) % 2048 ≤ m
    · have hoff : a = (first + (a + 2048 - first) % 2048) % 2048 := by omega
      have hstand := h.standing hm
      obtain ⟨-, -, -, -, hkind⟩ := h.sound _ hm
      rw [← hoff] at hstand
      rw [hstand]
      dsimp only [Option.map_some, Option.bind_some]
      by_cases ha0 : a = first
      · have hz : (a + 2048 - first) % 2048 = 0 := by omega
        rw [hz] at hkind ⊢
        rw [if_pos (by exact hkind), if_pos ha0, ha0, h.candidate]
      · rw [if_neg ha0, if_neg]
        rw [hkind, if_neg (by omega)]
        split <;> decide
    · rw [if_neg (by obtain ⟨hs, -⟩ := h.sections; rintro rfl; omega)]
      obtain hs | hs := h.standing_rest ha (by omega) <;> rw [hs] <;> rfl
  unfold Machine.candidates
  refine (congrArg (List.filterMap _) (scanStore_clean h.unknown)).trans ?_
  rw [List.filterMap_filterMap]
  exact filterMap_range_single h.first_lt hone

end

end Sys2Proof.Machine
end


section
/-! PROOFS. The rebuild of a store that holds one whole record (R158, R159): its entry, the writer's position, and the
rebuild's end. -/

namespace Sys2Proof.Machine

/-! ## The entry (R158) -/

theorem wholeCandidate_last (number first m : Nat) (bytes : Nat → List Byte) :
    (wholeCandidate number first m bytes).members.getLast? = some ⟨m, bytes m⟩ := by
  unfold wholeCandidate
  rw [List.range_succ, List.map_append, List.map_singleton, List.getLast?_concat]

theorem wholeCandidate_extent (number first m : Nat) (bytes : Nat → List Byte) :
    extentOf (wholeCandidate number first m bytes) = m + 1 := by
  unfold extentOf
  rw [wholeCandidate_last]
  rfl

theorem wholeCandidate_protect (number first m : Nat) (bytes : Nat → List Byte) :
    protectFound (wholeCandidate number first m bytes) = true ↔ ∃ j, j ≤ m ∧ sectionProtect (bytes j) = true := by
  unfold protectFound wholeCandidate
  simp only [List.any_map, List.any_eq_true, List.mem_range, Nat.lt_succ_iff, Function.comp_apply]

/-- The entry of the whole record. -/
def wholeEntry (number first m : Nat) (bytes : Nat → List Byte) : DirEntry :=
  entryFound (wholeCandidate number first m bytes)

/-- The writer's position after the rebuild. -/
def wholePosition (first m : Nat) (s : State) : Nat := skipUsed (scanStore [] s) ((first + (m + 1)) % 2048)

/-- It stands behind the record, in the block that follows the TRAILER's section or at the next (R159). -/
theorem wholePosition_cases (first m : Nat) (s : State) :
    let p := (first + (m + 1)) % 2048
    wholePosition first m s = p ∨
    (p % 16 ≠ 0 ∧ ∃ k, p % 16 ≤ k ∧ k < 16 ∧ wholePosition first m s = (p / 16 * 16 + k + 1) % 2048) := by
  intro p
  by_cases hz : p % 16 = 0
  · exact .inl (if_pos hz)
  · obtain ⟨hskip, -⟩ | ⟨k, hk, hk16, -, -, hskip⟩ := skipUsed_spec (scan := scanStore [] s) hz
    · exact .inl hskip
    · exact .inr ⟨hz, k, hk, hk16, hskip⟩

theorem blockFree_single {block : Nat} {e : DirEntry}
    (h : ∀ slot, slot < 16 → e.sectionCount ≤ offsetOf e.first (block * 16 + slot)) : BlockFree block [e] := by
  intro x hx
  obtain rfl := List.mem_singleton.mp hx
  unfold hasSectionIn
  rw [List.any_eq_false]
  intro slot hslot
  have := h slot (List.mem_range.mp hslot)
  simpa using this

/-- The blocks that the rebuild's end may erase hold no section of the record (R159). -/
theorem wholePosition_free {first m : Nat} (hf : first < 2048) (hm : m ≤ 151) (s : State) {e : DirEntry}
    (he : e.first = first) (hc : e.sectionCount = m + 1) :
    (wholePosition first m s % 16 = 0 → BlockFree (wholePosition first m s / 16) [e]) ∧
    BlockFree ((wholePosition first m s / 16 + 1) % 128) [e] := by
  have hcases := wholePosition_cases first m s
  generalize wholePosition first m s = position at *
  dsimp only at hcases
  refine ⟨fun hz => blockFree_single fun slot hslot => ?_, blockFree_single fun slot hslot => ?_⟩
  all_goals
    unfold offsetOf
    rw [he, hc]
  · obtain hp | ⟨hp, k, hk, hk16, heq⟩ := hcases <;> omega
  · obtain hp | ⟨hp, k, hk, hk16, heq⟩ := hcases <;> omega

section
variable {number first m : Nat} {bytes : Nat → List Byte} {s : State} (h : WholeRecord number first m bytes s)
include h

theorem WholeRecord.trailerMember :
    Machine.trailerMember (wholeCandidate number first m bytes) = some ⟨m, bytes m⟩ := by
  obtain ⟨-, -, -, -, hkind⟩ := h.sound m (Nat.le_refl m)
  obtain ⟨hone, -⟩ := h.sections
  rw [if_neg (by omega), if_pos rfl] at hkind
  unfold Machine.trailerMember
  rw [wholeCandidate_last]
  exact if_pos hkind

theorem WholeRecord.entry : wholeEntry number first m bytes =
    { number := number, sequence := .ofNat 32 (fieldAt (bytes 0) 10 4)
      state := if markReleased (bytes m) then .released else .held
      protect := protectFound (wholeCandidate number first m bytes), first := first, sectionCount := m + 1
      frameCount := fieldAt (bytes m) 10 2, endReason := some (endOfCode (fieldAt (bytes m) 18 1))
      trailer := some ((first + m) % 2048) } := by
  unfold wholeEntry entryFound
  rw [h.trailerMember, wholeCandidate_extent]
  rfl

/-! ## The position (R159, R140) -/

/-- Where the record leaves the writer's position: past every section of the block that is not erased. -/
theorem WholeRecord.found {a : Nat} (ha : a < 2048) (hl : (first + m) % 2048 < a)
    (hb : a / 16 = (first + m) % 2048 / 16) :
    (standingAt s a).isSome = true ↔ sectionCells s.medium (physicalSection s.sc.map a) ≠ [] := by
  have hfirst := h.first_lt
  obtain ⟨hone, hmax⟩ := h.sections
  refine ⟨fun hs he => ?_, fun hne => ?_⟩
  · rw [standingAt_erased h.unknown he] at hs
    exact nomatch hs
  · obtain he | ⟨-, -, hk, hc⟩ := h.rest a ha (by omega)
    · exact absurd he hne
    · rw [standingAt_other hk hc]
      rfl

/-- The position follows the last section of the TRAILER's block that is not erased (R159). -/
theorem WholeRecord.position {a : Nat} (hl : (first + m) % 2048 ≤ a) (ha : a < (first + m) % 2048 / 16 * 16 + 16)
    (hlast : a = (first + m) % 2048 ∨ sectionCells s.medium (physicalSection s.sc.map a) ≠ [])
    (hrest : ∀ b, a < b → b < (first + m) % 2048 / 16 * 16 + 16 →
      sectionCells s.medium (physicalSection s.sc.map b) = []) :
    wholePosition first m s = (a + 1) % 2048 := by
  unfold wholePosition
  generalize hlv : (first + m) % 2048 = last at *
  have hp : (first + (m + 1)) % 2048 = (last + 1) % 2048 := by omega
  rw [hp]
  by_cases hz : (last + 1) % 2048 % 16 = 0
  · have haz : a = last := by omega
    unfold skipUsed
    rw [if_pos hz, haz]
  · have hsum : (last + 1) % 2048 = last + 1 := by omega
    have hblock : (last + 1) / 16 = last / 16 := by omega
    rw [hsum] at hz ⊢
    have hsome : a ≠ last → (foundAt (scanStore [] s) a).isSome = true := fun hne => by
      rw [foundAt_clean h.unknown (by omega)]
      exact (h.found (by omega) (by omega) (by omega)).2 (hlast.resolve_left hne)
    obtain ⟨hskip, hnone⟩ | ⟨k, hk, hk16, hfound, hafter, hskip⟩ := skipUsed_spec (scan := scanStore [] s) hz
    · rw [hskip]
      by_cases hne : a = last
      · omega
      · have hcontra := hnone (a % 16) (by omega) (by omega)
        rw [show (last + 1) / 16 * 16 + a % 16 = a by omega] at hcontra
        have := hsome hne
        rw [hcontra] at this
        exact nomatch this
    · rw [hskip]
      rw [foundAt_clean h.unknown (by omega)] at hfound
      have hcells := (h.found (a := (last + 1) / 16 * 16 + k) (by omega) (by omega) (by omega)).1 hfound
      have hge : ¬a < (last + 1) / 16 * 16 + k := fun hlt => hcells (hrest _ hlt (by omega))
      have hle : ¬(last + 1) / 16 * 16 + k < a := fun hlt => by
        have hcontra := hafter (a % 16) (by omega) (by omega)
        rw [show (last + 1) / 16 * 16 + a % 16 = a by omega] at hcontra
        have := hsome (by omega)
        rw [hcontra] at this
        exact nomatch this
      have : a = (last + 1) / 16 * 16 + k := by omega
      rw [this]

end

/-! ## The rebuild -/

theorem placeWriter_single (scan : List (Nat × Found)) (c : Candidate) (sc : StoreController) :
    let position := skipUsed scan (sectionAt c.first (extentOf c))
    placeWriter scan [c] sc = { sc with
      directory := [entryFound c], position := position
      seat := if position % 16 = 0 then .unerased else .normal
      eraseAhead := .due false, aheadErased := false
      nextNumber := followNumber c.number, nextSequence := c.sequence + 1
      rebuildTrailer := if (trailerMember c).isSome then none else some (owedTrailer c) } := rfl

/-- The rebuild of a store with one whole record. -/
theorem WholeRecord.rebuild {number first m : Nat} {bytes : Nat → List Byte} {s : State}
    (h : WholeRecord number first m bytes s) (hr : rebuilding s = true) (ho : s.cu.opened = none)
    (hrec : s.sc.recovery = none) (hm : s.sc.pendingMarks = []) :
    ∃ t, Machine.rebuild [] [] s = t ∧ t.sc.directory = [wholeEntry number first m bytes] ∧
      t.sc.position = wholePosition first m s ∧ t.sc.nextNumber = followNumber number ∧
      t.sc.nextSequence = (wholeEntry number first m bytes).sequence + 1 ∧
      (s.sc.storeFull = false → t.sc.seat = .normal ∧ t.sc.eraseAhead = .done ∧ t.sc.storeFull = false) := by
  have hkept : keepNewest [] (newestFirst (Machine.candidates (scanStore [] s))) =
      [wholeCandidate number first m bytes] := by
    rw [h.candidates]
    rfl
  have hplaced := placeWriter_single (scanStore [] s) (wholeCandidate number first m bytes) s.sc
  dsimp only at hplaced
  rw [wholeCandidate_extent, h.trailerMember] at hplaced
  have hsc : (rebuildPlaced [wholeCandidate number first m bytes] s).sc = { s.sc with
      directory := [wholeEntry number first m bytes], position := wholePosition first m s
      seat := if wholePosition first m s % 16 = 0 then .unerased else .normal
      eraseAhead := .due false, aheadErased := false, nextNumber := followNumber number
      nextSequence := (wholeEntry number first m bytes).sequence + 1, rebuildTrailer := none } := by
    have hseq : (wholeEntry number first m bytes).sequence = (wholeCandidate number first m bytes).sequence := by
      rw [h.entry]
      rfl
    rw [hseq]
    exact hplaced
  have hidle := rebuildPlaced_idle (kept := [wholeCandidate number first m bytes]) hr ho hrec hm (by rw [hsc])
  rw [rebuild_clean [] hkept]
  generalize rebuildPlaced [wholeCandidate number first m bytes] s = placed at *
  have hseat : placed.sc.seat = if wholePosition first m s % 16 = 0 then .unerased else .normal := by rw [hsc]
  have hfirst : (wholeEntry number first m bytes).first = first := by rw [h.entry]
  have hcount : (wholeEntry number first m bytes).sectionCount = m + 1 := by rw [h.entry]
  obtain ⟨hown, hnext⟩ := wholePosition_free h.first_lt h.sections.2 s hfirst hcount
  obtain ⟨hsame, -, hend⟩ := endSteps_clean hidle
    (by rw [hseat]; split <;> simp) (by rw [hsc]) (by rw [hsc]; exact .inl rfl)
    (fun hu => by
      rw [hseat] at hu
      rw [hsc]
      split at hu
      · next hz => exact hown hz
      · exact nomatch hu)
    (by rw [hsc]; exact hnext)
  refine ⟨_, rfl, hsame.directory.trans (by rw [hsc]), hsame.position.trans (by rw [hsc]),
    hsame.nextNumber.trans (by rw [hsc]), hsame.nextSequence.trans (by rw [hsc]), fun hf => hend (.inl ?_)⟩
  rw [hsc]
  exact hf

/-- Settles O4: the frame of the rebuild, and the rebuild of an erased store, of one whole record, and of an erased store
whose first erase fails. -/
theorem rebuildEndsInSetup : Obligations.RebuildEndsInSetup := by
  refine ⟨fun reads results s hp hr hmap => ?frame, fun s hp hr hmap hc hu ho hrec hm => ?erased,
    fun number first m s hp hr hmap hu ho hrec hm hf h1 h151 => ?whole,
    fun o p ok s hp hr hmap hc hu ho hrec hm hn hrel => ?worn⟩
  case frame =>
    have hframe := rebuild_frame reads results s
    obtain ⟨-, hdir, -⟩ := rebuild_sound reads results s
    obtain ⟨hended, hmode, hload, -, hsc, -, hpm, hbpm, hbc, hdemand, hgt, hli, htimers, ham⟩ :=
      rebuildEnded_leaves (rebuild reads results s)
    obtain ⟨hstartup, -⟩ := (rebuilding_iff s).mp hr
    refine ⟨_, exec_rebuildEnd hp hr hmap, hended, ?_, ?_, hload.trans hframe.loadEnded, hpm.trans hframe.pm,
      hbpm.trans hframe.bpm, hbc.trans hframe.bc, hdemand.trans hframe.demand, hgt.trans hframe.gt,
      hli.trans hframe.li, htimers.trans hframe.timersRunning, ham.trans (by rw [hframe.am])⟩
    · rw [hsc]
      exact hdir
    · rw [hmode, hframe.loadEnded, hframe.mode, hstartup]
  case erased =>
    obtain ⟨-, -, -, -, hsc, hmedium, -⟩ := rebuildEnded_leaves (rebuild [] [] s)
    refine ⟨_, exec_rebuildEnd hp hr hmap, ?_⟩
    rw [hsc, hmedium]
    exact rebuild_erased hr hc hu ho hrec hm
  case whole =>
    intro bytes hsound last erased hrest
    have h : WholeRecord number first m bytes s := ⟨hu, hf, ⟨h1, h151⟩, fun _ => rfl, hsound, hrest⟩
    obtain ⟨t, ht, hdir, hposition, hnumber, hsequence, hend⟩ := h.rebuild hr ho hrec hm
    obtain ⟨-, -, -, -, hsc, -⟩ := rebuildEnded_leaves t
    have hentry := h.entry
    refine ⟨rebuildEnded t, wholeEntry number first m bytes, ht ▸ exec_rebuildEnd hp hr hmap, ?_⟩
    rw [hsc]
    refine ⟨hdir, ?_, ?_, ?_, ?_, ?_, ?_, ?_, ?_, ?_, hnumber, hsequence, hend, fun a hl ha hlast hafter =>
      hposition.trans (h.position hl ha hlast hafter)⟩
    all_goals rw [hentry]
    exact wholeCandidate_protect number first m bytes
  case worn =>
    intro own beyond
    have hidle := rebuildPlaced_idle (kept := []) hr ho hrec hm rfl
    have hkept : keepNewest [] (newestFirst (candidates (scanStore [] s))) = [] := by
      rw [scanStore_erased hc hu]
      rfl
    have hposition : (rebuildPlaced [] s).sc.position = 0 := rfl
    have hdirectory : (rebuildPlaced [] s).sc.directory = [] := rfl
    have hstore : (rebuildPlaced [] s).sc.map = s.sc.map ∧ (rebuildPlaced [] s).sc.storeFull = s.sc.storeFull ∧
        (rebuildPlaced [] s).sc.recovery = s.sc.recovery ∧ (rebuildPlaced [] s).medium = s.medium :=
      ⟨rfl, rfl, rfl, rfl⟩
    obtain ⟨hmapping, hfulls, hrecovery, hmed⟩ := hstore
    have hown : physicalBlock (rebuildPlaced [] s).sc.map ((rebuildPlaced [] s).sc.position / 16) = own := by
      rw [hmapping, hposition]
    have hbeyond : physicalBlock (rebuildPlaced [] s).sc.map (((rebuildPlaced [] s).sc.position / 16 + 1) % 128) =
        beyond := by
      rw [hmapping, hposition]
    obtain ⟨t, spoilt, ht, hsame, hseat, hfull, hahead, herased, hmap', hwear, hnotice, hspoilt, hmedium⟩ :=
      endSteps_worn hidle rfl rfl (by exact hn) (by exact hrel) (by rw [hdirectory]; exact nofun) o p ok
    rw [hown, hbeyond, hmed] at *
    have hexec : exec (.rebuildEnd [] [(o, false), (p, ok)]) s = .next (rebuildEnded t) := by
      rw [exec_rebuildEnd hp hr hmap, rebuild_clean _ hkept, ht]
    obtain ⟨-, -, -, hnotices, hsc, htm, -⟩ := rebuildEnded_leaves t
    refine ⟨rebuildEnded t, hexec, ?_⟩
    rw [hsc, htm, hnotices]
    refine ⟨hsame.directory.trans hdirectory, hsame.position.trans hposition, hseat, hfull, hahead, herased,
      hsame.recovery.trans (hrecovery.trans hrec), hmap'.trans hmapping, hwear,
      fun hf => hnotice (hfulls.trans hf), ?_⟩
    rw [hmedium, hspoilt]
    cases ok with
    | true =>
      obtain ⟨hframe, hmem⟩ := wornMedium_erased hc hu own beyond
      refine ⟨hframe, fun hne x => (hmem hne x).trans ⟨.inl, fun hx => hx.resolve_right fun hx => nomatch hx.1⟩⟩
    | false =>
      obtain ⟨hframe, hmem⟩ := wornMedium_spoilt hu own beyond
      exact ⟨hframe, fun _ x => (hmem x).trans (or_congr_right ⟨fun hx => ⟨rfl, hx⟩, fun hx => hx.2⟩)⟩

end Sys2Proof.Machine
end
